-- ==== Sys2Proof/Word.lean ====
section
/-! DEFINITION. Word types of the Kerril (R2 to R4) and the shape of sparse storage. -/

namespace Sys2Proof

/-- One byte of memory. -/
abbrev Byte := BitVec 8

/-- A 32-bit register lane, uniform register or special register. -/
abbrev Word32 := BitVec 32

/-- A 64-bit address, program counter or instruction word. -/
abbrev Word64 := BitVec 64

/-- One bit for each of the sixteen lanes of a crew, lane `l` in bit `l` (R68). -/
abbrev Mask := BitVec 16

/-- Storage of `w`-bit cells by number: keys strictly rising, no cell listed that holds zero.
A cell that is not listed reads zero. -/
abbrev Sparse (w : Nat) := List (Nat × BitVec w)

end Sys2Proof
end

