-- ==== Sys2Proof/Config.lean ====
section
/-! DEFINITION. What the part fixes once and for all (R9), and the free values: constants without a body, of
which nothing can be proved. -/

namespace Sys2Proof.Config

/-- Cores of the device, die `c / 64`, cluster `c / 4` (R9). -/
def cores : Nat := 256
def coresPerDie : Nat := 64
def coresPerCluster : Nat := 4
def dies : Nat := 4
def frontEnds : Nat := 16
def links : Nat := 12
/-- Lanes of a crew (R68). -/
def lanes : Nat := 16
/-- Crews resident on one core (R68). -/
def crewsPerCore : Nat := 256
/-- Issue slots of a core in one cycle (R78). -/
def issueSlots : Nat := 8
/-- Bytes of a clause store (R9, R27). -/
def clauseStoreBytes : Nat := 196608
/-- Copies that a copy engine holds at once (R322). -/
def copyPlaces : Nat := 8
/-- Started matrix operations that a matrix engine holds (R348). -/
def matrixPlaces : Nat := 16
/-- Entries of an operand log (R312). -/
def operandLog : Nat := 64
/-- Entries of an ordered-atomic buffer (R294). -/
def orderedBuffer : Nat := 4096
/-- Greatest value of a wait counter (R13). -/
def counterMax : Nat := 63
/-- Bytes of HBM of the device: 640 GB (R2, R9). -/
def hbmBytes : Nat := 640000000000

/-- FREE VALUE (log 3): which enabled event comes next, when the agenda names none. -/
opaque pick : Nat → Nat

/-- FREE VALUE (log 52): what the operands of a division or square root, by major opcode, add to its least number of cycles
(R136, R163). -/
opaque slowCycles (major a b : Nat) : Nat

/-- FREE VALUE (log 9): PC, crew and lanes of the record of a guard touch that no barrier has reported (R233), by the touch and
the team. -/
opaque lateGuard (tinfo team : Nat) : BitVec 86

/-- FREE VALUE (log 8): the bits of the `n`th handle that the task-graph engine gives out. -/
opaque handleBits : List Nat → BitVec 32

/-- FREE VALUE (log 9): bytes that the manual leaves undefined (R358, R415). -/
opaque freeByte : Nat → Byte

/-- FREE VALUE (log 7): the truncated result of an approximation that the interval bounds do not settle. -/
opaque undecided : Nat → Nat

/-- FREE VALUE (log 10): the bytes of the two firmware images that a die stores (R470, R471). -/
opaque storedImage : Nat → Nat → List Byte

/-- FREE VALUE (log 10): the SHA-384 digests of the Ed25519 key and of the ML-DSA-65 key that are fused into a die (R471). -/
opaque fusedDigest (die : Nat) (lattice : Bool) : List Byte

/-- FREE VALUE (log 10): the device's two signatures over an attestation report (R472). -/
opaque reportSignature : List Byte → List Byte

/-- FREE VALUE (log 10): the device serial number of an attestation report (R472). -/
opaque serialNumber : List Byte

/-- FREE VALUE (log 34): the payload of a control frame of a Wenand link, by its KIND and SEQ (R445). -/
opaque controlPayload (kind seq : Nat) : List Byte

end Sys2Proof.Config
end

