-- ==== Sys2Proof/Syntax/Operand.lean ====
section
/-! DEFINITION. The operand forms, types and modifiers of an instruction word (R32, R52 to R58), as names and
numbers, with no encoding left in them. -/

namespace Sys2Proof

/-- The special registers of R56 and the wait counters, which `mfs` and `mts` name alike. -/
inductive SpecReg where
  | lane | tid | teamX | teamY | teamZ | crew | depth | pix | fpflags | fptrap | mflags | cyc | tcause | tinfo
  | lc (n : Fin 4)
  | ls (n : Fin 4)
  | wctr (n : Fin 8)
  deriving DecidableEq, Repr, Inhabited

/-- A source operand field (R56). `con c` is the constant of code `960 + c` (R57). -/
inductive Opnd where
  | v (n : Fin 768)
  | s (n : Fin 128)
  | sp (r : SpecReg)
  | con (c : Fin 64)
  deriving DecidableEq, Repr, Inhabited

/-- A destination register field (R58): a vector or a uniform register, or the even one of a pair. -/
inductive Dst where
  | v (n : Fin 768)
  | s (n : Fin 128)
  deriving DecidableEq, Repr, Inhabited

/-- The top fields of every word (R52): switch marker, predicate negate, predicate. -/
structure Guard where
  sw : Bool
  pn : Bool
  pred : Fin 16
  deriving DecidableEq, Repr, Inhabited

/-- The three 32-bit integer types (R36); with `.w` they stand for 64-bit work (R55). -/
inductive IntTy where
  | b32 | s32 | n32
  deriving DecidableEq, Repr, Inhabited

/-- The four floating types of crew instructions (R36). -/
inductive FTy where
  | f16 | bf16 | f32 | f64
  deriving DecidableEq, Repr, Inhabited

/-- Conditions of icmp (R150). -/
inductive ICond where
  | eq | ne | lt | le | gt | ge
  deriving DecidableEq, Repr, Inhabited

/-- Conditions of fcmp (R167). -/
inductive FCond where
  | eq | ne | lt | le | gt | ge | un
  deriving DecidableEq, Repr, Inhabited

/-- Rounding codes of a crew instruction's MOD (R158, R161). -/
inductive Rnd where
  | rne | rz | rd | ru
  deriving DecidableEq, Repr, Inhabited

/-- Width taken by sext and zext (R155). -/
inductive ExtTy where
  | b8 | b16 | b32
  deriving DecidableEq, Repr, Inhabited

/-- Kinds of fcvt (R173). -/
inductive Cvt where
  | wide (dst src : FTy) (rnd : Rnd) (hi : Bool)
  | pack (slot : Fin 8) (elem : Fin 8) (draw : Opnd)
  | unpack (slot : Fin 8) (elem : Fin 8)
  deriving DecidableEq, Repr, Inhabited

/-- Directions of icvt (R173): the integer side is signed or not, and 64 bits wide with `w`. -/
inductive ICvt where
  | toFloat (dst : FTy) (signed w : Bool)
  | toInt (signed w : Bool) (src : FTy)
  deriving DecidableEq, Repr, Inhabited

/-- ORDER (R54). -/
inductive Order where
  | none | rlx | acq | rel | ar | sc
  deriving DecidableEq, Repr, Inhabited

/-- SCOPE (R54). -/
inductive Scope where
  | none | team | cohort | die | dev | sys
  deriving DecidableEq, Repr, Inhabited

/-- APER (R54), with the cohort rank of a `.peer` form (R53). -/
inductive Aper where
  | generic | pad | peer (rank : Fin 4) | stack
  deriving DecidableEq, Repr, Inhabited

/-- SIZE (R54). -/
inductive MSize where
  | b8 | b16 | b32 | b64 | s8 | s16
  deriving DecidableEq, Repr, Inhabited

/-- AOP (R54). -/
inductive AOp where
  | add | min | max | andB | orB | xorB | exch | cas | fadd | fmaxAbs
  deriving DecidableEq, Repr, Inhabited

/-- Types of an atomic (R266). -/
inductive ATy where
  | b32 | b64 | s32 | n32 | f16 | bf16 | f32 | f64
  deriving DecidableEq, Repr, Inhabited

/-- A memory operand of the mem form (R37, R53): base, index and the offset in units of the access size. -/
structure MemOp where
  base : Opnd
  index : Opnd
  off : BitVec 10
  deriving DecidableEq, Repr, Inhabited

/-- Modes of shfl (R210). -/
inductive ShflMode where
  | idx | up | down
  deriving DecidableEq, Repr, Inhabited

/-- Forms of vote (R219): a register destination, or a predicate. -/
inductive VoteOp where
  | mask (d : Dst)
  | count (d : Dst)
  | quorum (d : Fin 16) (k : Opnd)
  | agree (d : Fin 16)
  deriving DecidableEq, Repr, Inhabited

/-- Operations of redux (R210). -/
inductive ReduxOp where
  | add (signed : Bool) | min (signed : Bool) | max (signed : Bool) | andB | orB | xorB | fadd | fmax
  deriving DecidableEq, Repr, Inhabited

/-- Operations of scan (R210). -/
inductive ScanOp where
  | add (signed : Bool) | min (signed : Bool) | max (signed : Bool) | fadd
  deriving DecidableEq, Repr, Inhabited

/-- Argument width of ldarg (R201). -/
inductive ArgTy where
  | b8 | b16 | b32 | b64
  deriving DecidableEq, Repr, Inhabited

/-- Directions of cp (R331). -/
inductive CpDir where
  | g2s | s2g | s2s | mc
  deriving DecidableEq, Repr, Inhabited

/-- Transforms of cp (R331). -/
inductive CpXform where
  | plain | t | q | sx
  deriving DecidableEq, Repr, Inhabited

/-- Modes of dntap (R392). -/
inductive TapMode where
  | pre | out | slope
  deriving DecidableEq, Repr, Inhabited

end Sys2Proof
end

