-- ==== Sys2Proof/Machine/Types.lean ====
section
/-! DEFINITION. The parts of the machine's state as plain data: threads, crews, teams, grids, engines, front
ends, links. Each structure's docstring names the rules that give it. -/

namespace Sys2Proof.Machine

/-! ## Crew engine -/

/-- An entry of a loop stack (R84). -/
structure LoopEntry where
  start : Word64
  stop : Word64
  count : Word32
  deriving DecidableEq, Repr, Inhabited

/-- State of a PC-table entry (R73, R240). -/
inductive ThreadState where
  | active | held | parked | exited
  deriving DecidableEq, Repr, Inhabited

/-- Where a held thread waits (R240 HOLDAT). -/
inductive HoldAt where
  | join
  | bar (b : Fin 4)
  | cohort
  deriving DecidableEq, Repr, Inhabited

/-- Why a parked thread waits (R240 PARKWHY). -/
inductive ParkWhy where
  | presence | pageFault | report | breakpoint
  deriving DecidableEq, Repr, Inhabited

/-- What the run of a thread waits for after an instruction that released the crew's issue: mwait with its bound
and address (R378), wait.child (R199), ringwait (R329), a long copy (R342). -/
inductive RunWait where
  /-- Bound and address of an mwait, and the loops that the lane had there (R378). -/
  | matrix (bound : Nat) (pc : Word64) (loops : List LoopEntry) (skip : Option Word64)
  | child (bound : Nat)
  | ring (g : Fin 16) (phase : Bool)
  | copy (id : Nat)
  deriving DecidableEq, Repr, Inhabited

/-- A thread: its PC-table entry and the state of its thread record (R73, R84, R234, R240), the results it
awaits behind a switch marker (R77), and the accesses its fences and acquires order before later ones (R269). -/
structure Thread where
  state : ThreadState
  pc : Word64
  holdAt : HoldAt
  joinSet : Mask
  parkWhy : ParkWhy
  loops : List LoopEntry
  /-- The end that a loop of count 0 sends the thread to when the clause ends (R85). -/
  loopSkip : Option Word64
  inh : Bool
  hpc : Word64
  hloops : List LoopEntry
  /-- `loopSkip` of the clause that a handler has interrupted. -/
  hskip : Option Word64
  draw : Word32
  pix : Word32
  tcause : Word32
  tinfo : Word32
  fptrap : Word32
  fpflags : Word32
  mflags : Word32
  /-- The recorded PC is the word after a software trap, still to be reached as a fall-through (R232); and the same of
  HPC. -/
  late : Bool
  hlate : Bool
  awaits : List Nat
  runWait : Option RunWait
  beforeAll : List Nat
  beforeWrites : List Nat
  /-- Accesses of other threads that a shared load has put before its releases (R285). -/
  carried : List Nat
  deriving DecidableEq, Repr, Inhabited

/-- A resource that the scoreboard or a seal names: a vector or uniform register, an accumulator tile, a tile
register, a stencil slot (R17, R48, R218, R327). -/
inductive Res where
  | v (n : Nat)
  | s (n : Nat)
  | acc (n : Nat)
  | tile (n : Nat)
  | stencil (n : Nat)
  /-- The memory that a matrix operation writes or reads: it seals no register, and marks the waits that cover the operation
  (R356). -/
  | mem
  deriving DecidableEq, Repr, Inhabited

/-- A result outstanding to the scoreboard, with what it will write (R77, R313, R375); `left` are the core cycles that a
division or square root still takes (R136, R163). -/
structure Outstanding where
  id : Nat
  res : List Res
  left : Option Nat
  /-- Lanes whose %fpflags the operation decides (R162). -/
  fp : Mask := 0
  deriving DecidableEq, Repr, Inhabited

/-- A seal (R17): lifted by a wait on counter `ctr` whose bound is below `level`, the counter's value just after
the operation was issued. -/
structure Seal where
  res : Res
  ctr : Nat
  level : Nat
  deriving DecidableEq, Repr, Inhabited

/-- An outstanding operation counted by `w<ctr>`, in issue order (R13). -/
structure Counted where
  id : Nat
  ctr : Nat
  done : Bool
  deriving DecidableEq, Repr, Inhabited

/-- A crew: its crew record (R107), PC table (R73), bundle and issue state (R75 to R78). -/
structure Crew where
  threads : List Thread
  /-- Lanes of the bundle; empty when the crew has none. -/
  bundle : Mask
  fcount : Nat
  fpc : Word64
  sregs : Sparse 32
  /-- Cell `16 * n + l` is register `v<n>` in lane `l`. -/
  vregs : Sparse 32
  preds : Sparse 16
  counted : List Counted
  w6 : Nat
  w7 : Nat
  outs : List Outstanding
  seals : List Seal
  /-- Lanes that a yield sets aside at the next selection (R206). -/
  yielding : Mask
  retired : Bool
  /-- Consecutive cycles eligible without issuing (R78). -/
  age : Nat
  /-- The core cycle of the crew's last issue, by `State.issues` (R78). -/
  lastIssue : Nat
  /-- Dependency clock (R438). -/
  clock : List Word64
  /-- Ports through which the crew has written host or CXL lines (R467). -/
  ports : List Nat
  /-- Accesses that a seal or a releasing fence orders before the copies issued next (R340). -/
  copyAfter : List Nat
  /-- First block granule of the vector share (R100). -/
  vbase : Nat
  /-- The seals before the clause header that the bundle has just passed, until its first instruction issues (R48). -/
  headed : Option (List Seal)
  /-- The long gather or scatter whose elements the bundle is still beginning (R264). -/
  long : Option Nat
  /-- Old words of vector cells that the crew's instructions have overwritten since its last seal (R270). -/
  stale : List (Nat × Word32)
  /-- The crew has selected its bundle in the core cycle under way, and so was eligible in it (R78). -/
  picked : Bool := false
  deriving DecidableEq, Repr, Inhabited

/-- A barrier of a team (R192, R195, R241). -/
structure Barrier where
  phase : Bool
  arrived : BitVec 64
  tset : Bool
  target : Nat
  teamArr : Bool
  deriving DecidableEq, Repr, Inhabited

/-! ## Copy and matrix engines -/

/-- Signing state of a convergence register (R349). -/
inductive ConvState where
  | idle | armed | started
  deriving DecidableEq, Repr, Inhabited

/-- A convergence register (R349). -/
structure Conv where
  armoff : Nat
  armcrew : Nat
  state : ConvState
  setcnt : Nat
  setbase : Nat
  arrived : BitVec 64
  deriving DecidableEq, Repr, Inhabited

/-- A stage ring (R328). `stages` is the depth minus one, 0 when the ring is not configured. -/
structure Ring where
  ph : BitVec 16
  cons : Nat
  prod : Nat
  free : Nat
  stages : Nat
  deriving DecidableEq, Repr, Inhabited

/-- Loaded state of a dendritic slot (R386). -/
structure DnSlot where
  loaded : Bool
  nb : Nat
  deriving DecidableEq, Repr, Inhabited

/-- A copy that the copy engine holds (R322, R332). `unit` is the next unit to write; `lines` are the destination
lines whose presence bit the copy still keeps clear, as (team, line). -/
structure Copy where
  id : Nat
  core : Nat
  team : Nat
  crew : Nat
  pc : Word64
  lanes : Mask
  word : Word64
  dir : CpDir
  xform : CpXform
  dst : BitVec 256
  src : BitVec 256
  mult : Word32
  ring : Option (Fin 16)
  stage : Nat
  unit : Nat
  units : Nat
  /-- Unit at which this issue began (R342), rows of a block read ahead of its writes (R337), accesses it follows. -/
  first : Nat
  cache : List (List Byte)
  after : List Nat
  lines : List (Nat × Nat)
  amax : Word32
  long : Bool
  held : Bool
  /-- The scratchpad of its team at the kill that it outlives (R344). -/
  orphan : Option (Sparse 8)
  /-- It writes another team's scratchpad, and so outlives a kill of its own team (R344). -/
  peers : Bool
  deriving DecidableEq, Repr, Inhabited

/-- A matrix operation with its operands (R348, R362, R393). Fragment bases are register numbers. -/
inductive MKind where
  | mma (sp f32 : Bool) (d a b : Nat) (fa fb : Fin 8) (sct : Nat)
  | mmaw (d a b : Nat) (slot : Fin 8) (m : Nat)
  | dn (d a b : Nat) (slot : Fin 8) (sct : Nat) (fin : Bool)
  | dnb (db : Bool) (d frag t : Nat) (slot : Fin 8) (sct : Nat)
  | acclr (d n : Nat)
  | accld (d : Nat) (desc : BitVec 256)
  | accst (desc : BitVec 256) (a : Nat)
  | accrd (v a h : Nat)
  | acccvt (f64 : Bool) (v a h : Nat) (slot : Fin 8) (rows cols : List Int)
  | dntap (mode : TapMode) (v t h b : Nat) (slot : Fin 8)
  | dnload (slot : Fin 8)
  deriving DecidableEq, Repr, Inhabited

/-- How far a matrix operation has come: armed, ready to start, started, its curve pass ended, to be started
again at restore (R348, R350, R360, R390). -/
inductive MStage where
  | armed | issued | started | pass | again
  deriving DecidableEq, Repr, Inhabited

/-- A matrix operation under way (R348). `counts` are the counted increments of w3 as (crew, id); `sets` the lanes
that armed or signed it as (crew, lanes), or those of Active() of a direct one; `order` its place in start order;
`fragA` and `fragB` the words of each row or column of its fragments, captured at start (R353), as are its scale
bytes and tables. -/
structure MatrixOp where
  id : Nat
  core : Nat
  team : Nat
  crew : Nat
  pc : Word64
  lanes : Mask
  cv : Option (Fin 8)
  kind : MKind
  stage : MStage
  order : Nat
  tries : Nat
  counts : List (Nat × Nat)
  sets : List (Nat × Mask)
  fragA : List (List Word32)
  fragB : List (List Word32)
  scales : List Byte
  tables : List Byte
  lines : List (Nat × Nat)
  /-- Rows that an accld or accst has moved (R344, R374). -/
  unit : Nat
  /-- Accesses that a seal or a releasing fence orders before its arming, its signatures or its issue (R356). -/
  after : List Nat
  /-- Its place in the order of starts on the device, 0 before it starts (R390). -/
  began : Nat
  /-- The page that its fetches have found not present (R361). -/
  fault : Option (BitVec 44)
  deriving DecidableEq, Repr, Inhabited

/-! ## Memory engine -/

/-- A place that a lane's address reaches (R243 to R246, R450). -/
inductive Place where
  | spad (team off : Nat)
  | guard (byte : Nat) (upper : Bool) (off : Nat)
  | phys (pa : Nat)
  deriving DecidableEq, Repr, Inhabited

/-- How far a lane's access has come (R260, R293 to R299, R313, R439, R442, R455): an element not begun is `later`
(R264); `behind` has not looked for its place, behind a parked access to its line (R314); `fault` has taken its fault, and
has joined the fault-buffer entry that it names (R310, R316); `granted` holds a translation that is locked for it (R307);
`trapping` ends in a trap once its lanes' earlier accesses are performed (R229); `stageWait` has waited for a buffer entry
since the number that it names (R294). -/
inductive AccStatus where
  | later
  | behind
  | presence (team off : Nat)
  | ats
  | fault (entry : Option Nat)
  | trapping (cls : Nat) (info : Word32)
  | granted (p : Place)
  | ready (p : Place)
  | clock (p : Place)
  | hostRead (p : Place)
  | exported (stamp : Nat) (home : Nat) (p : Place)
  | peer (p : Place)
  | ordered (p : Place)
  | stageWait (since : Nat) (p : Place)
  | staged
  | pulling (fe entry : Nat) (p : Place)
  | forwarded (fe entry : Nat) (p : Place)
  | done
  deriving DecidableEq, Repr, Inhabited

/-- The access of one lane in the operand log (R312, R313, R317), with the order and scope it acts with (R258,
R261) and the accesses that it is performed after. Element `j` of lane `l` of a gather or scatter has the number
`16 * j + l` (R264). -/
structure LaneAcc where
  lane : Nat
  acc : Nat
  addr : Word64
  data : Word64
  data2 : Word64
  elem : Nat
  parked : Bool
  order : Order
  scope : Scope
  status : AccStatus
  after : List Nat
  /-- Stamp of its write (R439). -/
  stamp : List Word64
  /-- The TSO attribute that it had at issue (R258). -/
  tso : Bool
  /-- One more than the entries that its team had staged when it began to wait for its turn, 0 before (R298). -/
  turn : Nat := 0
  /-- The release sequencer has sent it on its way (R297). -/
  released : Bool := false
  deriving DecidableEq, Repr, Inhabited

/-- What a logged instruction does at each access (R262 to R267, R217, R197, R272). -/
inductive MemKind where
  | ld (size : MSize) (d : Dst)
  | st (size : MSize)
  | ldx (size : MSize) (n : Nat) (d : Nat) (base : Opnd) (idx : Dst) (aper : Aper)
  | stx (size : MSize) (n : Nat) (d : Dst) (base : Opnd) (idx : Dst) (aper : Aper)
  | atom (op : AOp) (ty : ATy) (d : Dst)
  | red (op : AOp) (ty : ATy)
  | stload (x : Fin 8)
  | launch (d : Dst)
  | cinv | cwb
  /-- Lines from a first one on that own claims (R273). -/
  | own (shr : Bool) (line n : Nat)
  | fence
  deriving DecidableEq, Repr, Inhabited

/-- An entry of an operand log, or a cinv, cwb or fence under way, which takes no entry (R312). -/
structure LogEntry where
  id : Nat
  core : Nat
  team : Nat
  crew : Nat
  pc : Word64
  word : Word64
  kind : MemKind
  uniform : Bool
  active : Mask
  lanes : List LaneAcc
  /-- A write that has left its team: one that the release sequencer sends on its way (R297), or an export or a peer write of a
  killed team (R319, R439). It takes no place in the log and no lane waits for it. -/
  posted : Bool := false
  deriving DecidableEq, Repr, Inhabited

/-- Kind of a staged entry (R296), with that of a tkissue or tkredeem (R428, R430). -/
inductive StagedKind where
  | store | atomic | reduction | launch | task
  deriving DecidableEq, Repr, Inhabited

/-- An entry of the ordered-atomic buffer (R294 to R296). `log` is the operand-log entry it came from; the model keeps with it,
until a save, its place as translated at issue (R280), the stamp of its crew then (R439), and whether it is a release at .sys
(R467). -/
structure Staged where
  seq : Nat
  kind : StagedKind
  crew : Nat
  lane : Nat
  addr : Word64
  size : MSize
  ty : ATy
  aop : AOp
  data : Word64
  data2 : Word64
  dreg : Option Dst
  log : Nat
  acc : Nat
  waiting : Bool
  pa : Option Nat := none
  stamp : List Word64 := [0, 0, 0, 0]
  sys : Bool := false
  deriving DecidableEq, Repr, Inhabited

/-- Owner of a global line in an ordered grid (R292); a line not listed is unclaimed. -/
inductive LineOwner where
  | team (i : Nat)
  | shared
  deriving DecidableEq, Repr, Inhabited

/-- A task instruction under way, with its result outstanding (R426 to R432). -/
inductive TaskKind where
  | issue (cls : Word32)
  | redeem (ticket fb : Word64)
  | stateGet (ticket : Word64)
  | stateVoid (ticket : Word64)
  | stateFree (ticket : Word64)
  | wvOpen
  | wvCow (g : Word32)
  | wvFin
  | wvDrop
  deriving DecidableEq, Repr, Inhabited

structure TaskOp where
  id : Nat
  team : Nat
  crew : Nat
  pc : Word64
  lanes : Mask
  d : Dst
  kind : TaskKind
  /-- Staging order in an ordered grid (R428, R430). -/
  seq : Option Nat
  /-- Its lanes have gone past it at a save, where a staged instruction counts as complete (R299, R428). -/
  past : Bool
  deriving DecidableEq, Repr, Inhabited

/-- A crossbar operation whose result is not yet written (R211): values by lane for a vector destination, or one
value for a uniform one. -/
structure CrossOp where
  id : Nat
  team : Nat
  crew : Nat
  d : Dst
  pair : Bool
  vals : List (Nat × Word64)
  deriving DecidableEq, Repr, Inhabited

/-- The value that a 4-byte word of a scratchpad held before a store that no seal covers (R270): the team and crew that
stored, the word's number, the old word, whether the crew has sealed since, and whether with seal.team; the ring stages whose
toggle is a release of the store, and the crews that have observed one (R330). -/
structure Unsealed where
  team : Nat
  crew : Nat
  word : Nat
  old : Word32
  own : Bool
  all : Bool
  stages : List (Nat × Nat)
  seen : List Nat
  deriving DecidableEq, Repr, Inhabited

/-- A stopped copy that is to be re-issued: its crew, the address of the cp, and the ring and the stage that it keeps (R329, R342). -/
structure Claim where
  crew : Nat
  pc : Word64
  ring : Option (Fin 16)
  stage : Nat
  deriving DecidableEq, Repr, Inhabited

/-- What an advance of a ring stage is ordered after (R330, R340): the accesses that its crew still had to perform, at a toggle
by ringadv or, with `release`, at a release by ringadv.cons. -/
structure StageNote where
  ring : Fin 16
  stage : Nat
  release : Bool
  accs : List Nat
  deriving DecidableEq, Repr, Inhabited

/-! ## Teams and grids -/

/-- Whether a team has a core, is saved, waits to be placed again, or is gone. -/
inductive TeamStatus where
  | resident | saved | waiting | retired | dead
  deriving DecidableEq, Repr, Inhabited

/-- Where the tiles of a saved team stand (R358): its save area, the held bank, or the surplus bank of its core. -/
inductive TilePlace where
  | area | held | surplus
  deriving DecidableEq, Repr, Inhabited

/-- A team: the state of its team record (R108), scratchpad, barriers, guard touch and staged entries. -/
structure Team where
  grid : Nat
  index : Nat
  status : TeamStatus
  core : Nat
  placed : Nat
  crews : List Crew
  tregs : List (BitVec 256)
  /-- Cell `1024 * n + 32 * r + c` is word (r, c) of tile `a<n>` (R108, R365). -/
  accs : Sparse 32
  conv : List Conv
  rings : List Ring
  stencils : List (BitVec 512)
  dnslots : List DnSlot
  spad : Sparse 8
  /-- What stores to the scratchpad have overwritten unsealed (R18, R270). -/
  unsealed : List Unsealed
  /-- Lines whose presence bit is clear, once for each copy or accst into them (R16, R339). -/
  absent : List Nat
  bars : List Barrier
  /-- %tinfo of the first guard touch not yet reported (R233). -/
  guard : Option Word32
  /-- A write or launch has ended relaunchability (R198, R235). -/
  escaped : Bool
  kills : Nat
  /-- Fault-buffer entry, as (die, entry), that a relaunch waits for (R361). -/
  blocked : Option (Nat × Nat)
  /-- The two forms of the record that such a kill owes: relaunched, and not relaunched. -/
  owed : List (BitVec 256)
  /-- An uncorrectable error or a core failure has stopped issue (R233). -/
  stop : Bool
  /-- An instruction-boundary stop is under way (R237). -/
  saving : Bool
  /-- The driver has resumed the grid while the team was saved, or before its image came (R231). -/
  resumed : Bool
  /-- Where the tiles of a saved team stand (R358). -/
  tilesAt : TilePlace
  /-- Stopped copies that are to be re-issued (R342). -/
  claims : List Claim
  notes : List StageNote
  seqNext : Nat
  staged : List Staged
  spadBase : Nat
  accBase : Nat
  bank : Nat
  saveAt : Nat
  deriving DecidableEq, Repr, Inhabited

/-- A launch record (R20, R21), field by field. -/
structure Launch where
  entry : Word64
  gx : BitVec 32
  gy : BitVec 16
  gz : BitVec 16
  teamShape : BitVec 32
  sched : BitVec 32
  roles : BitVec 128
  partition : BitVec 32
  mode : BitVec 32
  disp : BitVec 32
  parent : BitVec 32
  stackBase : Word64
  fslots : List (BitVec 32)
  keys : List (BitVec 32)
  tkTable : Word64
  vregion : Word64
  args : List Byte
  deriving DecidableEq, Repr, Inhabited

/-- The needs that a kernel entry declares (R99, R406). -/
structure Needs where
  vregs : Nat
  spadb : Nat
  atiles : Nat
  wblocks : Nat
  handler : Nat
  codelen : Nat
  tablen : Nat
  deriving DecidableEq, Repr, Inhabited

/-- Where a grid came from (R402): a ring entry, a node of a submission, a launch instruction of a crew with
the counted increment of its w5, or a firmware kernel that the die controller launched (R62). -/
inductive Origin where
  | ring (index : Nat)
  | node (sub : Nat) (node : Nat)
  | child (team crew id : Nat)
  | firmware
  deriving DecidableEq, Repr, Inhabited

/-- A grid (R68, R297, R409, R425). -/
structure Grid where
  fe : Nat
  record : Launch
  needs : Needs
  origin : Origin
  handle : BitVec 32
  nextTeam : Nat
  /-- Teams that have been retired or lost for good. -/
  ended : Nat
  failed : Bool
  retired : Bool
  /-- A child grid whose staged launch has not been released (R198). -/
  staged : Bool
  /-- A driver kill or a failure stops further placement (R235, R238, R476). -/
  noMore : Bool
  head : Nat
  owners : List (Nat × LineOwner)
  /-- Curve and map block addresses, indexed as CURVE and BMAP name them (R120, R407). -/
  curves : List Word64
  bmaps : List Word64
  children : Nat
  /-- A replay of R416: the number of tkissue results given so far, and the node it replays. -/
  replay : Bool
  issued : Nat
  deriving DecidableEq, Repr, Inhabited

/-- A kernel image resident in a clause store, with the offsets of its marked words (R50, R51). -/
structure Image where
  entry : Word64
  codelen : Nat
  words : List Word64
  marks : List Nat
  grid : Nat
  deriving DecidableEq, Repr, Inhabited

/-! ## Cores and dies -/

/-- A translation held in a cache (R256, R305): `page` is the first byte of the page of `size` bytes. In the second
level, `owner` is the core in whose reserved entries it stands, and `locks` are the accesses for which it is locked
(R307). -/
structure Translation where
  pasid : BitVec 20
  page : Nat
  size : Nat
  pa : Nat
  write : Bool
  owner : Option Nat
  locks : List Nat
  deriving DecidableEq, Repr, Inhabited

/-- The stamp of a write that the bytes from `lo` below `hi` hold, where not zero, and the number of grids that there were when it
was made (R439, R441). -/
structure Stamp where
  lo : Nat
  hi : Nat
  clock : List Word64
  born : Nat
  deriving DecidableEq, Repr, Inhabited

/-- A line of a core's read cache (R255). -/
structure ReadLine where
  line : Nat
  bytes : List Byte
  stamps : List Stamp := []
  deriving DecidableEq, Repr, Inhabited

/-- An allocated block of a core's pool share: share 0 vector, 1 scratchpad, 2 and 3 accumulator bank 0 and 1
(R100), first granule and granules, and the team and crew that own it. -/
structure Block where
  share : Nat
  first : Nat
  size : Nat
  team : Nat
  crew : Nat
  deriving DecidableEq, Repr, Inhabited

structure CoreState where
  cyc : Word32
  images : List Image
  partition : Option (BitVec 32)
  blocks : List Block
  failed : Bool
  halted : Bool
  bank : Nat
  tlb : List Translation
  rcache : List ReadLine
  /-- Crews whose cp has stalled on a full engine, first first, and the crew let in (R322). -/
  cpQueue : List (Nat × Nat)
  cpGrant : Option (Nat × Nat)
  holder : Option Nat
  count : Nat
  draining : Bool
  /-- The grid for whose image the die controller has stopped the core's intake (R26). -/
  loading : Option Nat
  /-- Cycles of image loads owed by front ends that do not hold the core (R413). -/
  charges : List (Nat × Nat)
  deriving DecidableEq, Repr, Inhabited

/-- A fault buffer entry (R309). -/
structure FaultEntry where
  valid : Bool
  page : BitVec 44
  pasid : BitVec 20
  prgi : BitVec 9
  fe : BitVec 4
  core : BitVec 6
  resp : BitVec 2
  w : Bool
  plumb : Bool
  count : BitVec 10
  /-- The page request has gone out to the host (R459). -/
  sent : Bool
  deriving DecidableEq, Repr, Inhabited

/-- What makes an access that no lane makes (R315, R476): a front end or the task-graph engine for it, the release
sequencer for a team, a copy, a matrix operation or a task instruction; `sub` are the steps of a submission (R426, R433). -/
inductive PageUser where
  | frontEnd
  | sub (u : Nat)
  | plumb (team : Nat)
  | copy (id : Nat)
  | op (id : Nat)
  deriving DecidableEq, Repr, Inhabited

/-- An outstanding ATS Translation Request, or a page that non-lane accesses of the die wait for (R305, R306,
R476). `page` is address bits [55:12]. -/
structure PageWait where
  pasid : BitVec 20
  page : BitVec 44
  write : Bool
  fe : Nat
  core : Nat
  user : PageUser
  deriving DecidableEq, Repr, Inhabited

/-- An ATS Invalidate Request that the die has received (R308), with the accesses translated through the entries that it
dropped: its Invalidate Completion has gone out once none of them is still to be performed. -/
structure Invalidation where
  pasid : BitVec 20
  range : Option (Nat × Nat)
  accs : List Nat
  deriving DecidableEq, Repr, Inhabited

/-- A die (R309, R438, R443, R461, R471, R474). -/
structure DieState where
  fbuf : List FaultEntry
  drop : Bool
  replaying : Bool
  replayAgain : Bool
  /-- Accesses of lanes, and others, that the replay under way took up (R315). -/
  replayAccs : List Nat
  replayWaits : List PageWait
  invals : List Invalidation
  tlb : List Translation
  /-- Translations that wait for an entry that is not locked, with what they answer (R307). -/
  fills : List (PageWait × Translation)
  requests : List PageWait
  /-- Non-lane accesses that wait for a translation response; those that wait for a replay-all, with the fault-buffer entry that
  each has joined (R310, R318); and those that were refused. -/
  asking : List PageWait
  waiting : List (PageWait × Option Nat)
  refused : List PageWait
  /-- Prefetches that wait for a translation: core, front end, address, and .near (R271). -/
  prefetches : List (Nat × Nat × Nat × Bool)
  exports : Word64
  performed : Word64
  vector : List Word64
  sequencer : Word64
  clusterSeq : List Word64
  routes : List (BitVec 12)
  dieFail : BitVec 64
  /-- The two stored images, where written since the part was made (R471). -/
  written : List (Option (List Byte))
  /-- Which of the two stored images the die has accepted (R471). -/
  accepted : Option Nat
  minSvn : BitVec 32
  inReset : Bool
  up : Bool
  thermal : Bool
  thermalHold : Bool
  deriving DecidableEq, Repr, Inhabited

/-- A line in a die's last-level cache (R252, R253), most recently used first in its list. `old` holds memory's
bytes while the line is dirty. -/
structure CacheLine where
  line : Nat
  slice : Nat
  group : Nat
  set : Nat
  old : Option (List Byte)
  deriving DecidableEq, Repr, Inhabited

/-! ## Task-graph engine -/

/-- A node of a graph binary (R405). -/
structure Node where
  record : BitVec 2048
  kernel : Nat
  inputs : List Nat
  deriving DecidableEq, Repr, Inhabited

/-- A pool of a graph binary (R408). -/
structure Pool where
  base : Word64
  size : Nat
  wmark : Nat
  tier : Nat
  deriving DecidableEq, Repr, Inhabited

/-- A block of a graph binary (R408). -/
structure DataBlock where
  offset : Nat
  size : Nat
  pool : Nat
  producer : Nat
  lastUse : Nat
  evict : Bool
  own : Nat
  privLines : Nat
  deriving DecidableEq, Repr, Inhabited

/-- A ticket class (R418). -/
structure TicketClass where
  fwdFirst : Nat
  fwdLast : Nat
  bwdFirst : Nat
  bwdLast : Nat
  update : Nat
  inBlock : Nat
  eta : Word32
  lambda : List Word32
  deriving DecidableEq, Repr, Inhabited

/-- A graph binary as the task-graph engine has read it (R405 to R408, R418). -/
structure Binary where
  fe : Nat
  graphId : BitVec 32
  base : Word64
  kernels : Nat
  nodes : List Node
  edges : List (Nat × Nat)
  pools : List Pool
  blocks : List DataBlock
  curves : List Nat
  bmaps : List Nat
  classes : List TicketClass
  deriving DecidableEq, Repr, Inhabited

/-- How far a redemption has come (R433, R434). -/
inductive RedeemStage where
  | expand | forward | backward | update | finished
  deriving DecidableEq, Repr, Inhabited

/-- The redemption that a submission carries out (R430, R433). -/
structure Redemption where
  table : Word64
  ticket : BitVec 48
  cls : Nat
  version : BitVec 32
  vregion : Word64
  keys : List (BitVec 32)
  draw : Word32
  fbaddr : Word64
  inoff : Nat
  inlines : Nat
  stage : RedeemStage
  dropped : Bool
  drafting : Bool
  /-- λ[d] of the update node, once it has been read (R434). -/
  lambda : Option Word32
  /-- USCALE of the update node and the handle that RHANDLE holds (R430, R434). -/
  uscale : Word32
  handle : BitVec 32
  deriving DecidableEq, Repr, Inhabited

/-- The version of a region that a submission reads and pins (R425). -/
structure Pin where
  vregion : Word64
  version : BitVec 32
  deriving DecidableEq, Repr, Inhabited

/-- A submission or redemption of a graph (R404, R409, R415, R416, R429). -/
structure Submission where
  fe : Nat
  bin : Nat
  ringIndex : Nat
  first : Nat
  count : Nat
  launched : Nat
  /-- Grid of each node launched, as (node, grid). -/
  grids : List (Nat × Nat)
  retiredNodes : List Nat
  live : List Nat
  evicted : List Nat
  /-- Replays under way, as (node, grid) (R416). -/
  replays : List (Nat × Nat)
  pins : List Pin
  issueLog : List (Nat × List Word64)
  /-- Room of the issue logs in the save area, as (node, first byte) (R429). -/
  logAt : List (Nat × Nat)
  redemption : Option Redemption
  started : Bool
  finished : Bool
  failed : Bool
  /-- The node at which it failed (R409). -/
  failNode : Nat
  deriving DecidableEq, Repr, Inhabited

/-- An entry of a landing list (R453): the page's first byte as a peer address and in the target's HBM, PSTATE, whether an
access has asked for its pull (R455), and whether PSTATE has still to be written to the list in memory. -/
structure Landing where
  src : Nat
  land : Nat
  pstate : Nat
  wanted : Bool
  owed : Bool
  deriving DecidableEq, Repr, Inhabited

/-- What an access of another device asks for at this one, or answers: a read of some bytes, a write, an atomic with its operands
(R451), a peer's refusal or bytes given in reply to an access sent on (R450, R456). -/
inductive PeerOp where
  | read (n : Nat)
  | write (bytes : List Byte)
  | atom (op : AOp) (ty : ATy) (b c : Word64)
  | reply (bytes : Option (List Byte))
  deriving DecidableEq, Repr, Inhabited

/-- An access of another device as it comes in, and whether the other side of a move has sent it (R455, R456). -/
structure StubAccess where
  moved : Bool
  op : PeerOp
  deriving DecidableEq, Repr, Inhabited

/-- What a boot of a die meets (R471, R473): whether its memory trains, and the images written since its last reset. -/
structure BootInput where
  memoryTrained : Bool
  written : List (Nat × List Byte)
  deriving DecidableEq, Repr, Inhabited

/-- States of a migration (R452). -/
inductive MigState where
  | idle | quiescing | sending | sent | receiving | resumed | aborted
  deriving DecidableEq, Repr, Inhabited

/-- A front end: its registers (R399, R257, R452, R462) and what waits inside it. -/
structure FrontEnd where
  ringBase : Word64
  ringEn : Bool
  ringSize : BitVec 17
  ringWr : BitVec 32
  ringRd : BitVec 32
  recBase : Word64
  recSize : BitVec 16
  /-- RECCTL has been written since the last reset (log 62). -/
  sized : Bool
  recWr : BitVec 32
  recRd : BitVec 32
  part : Word64
  quantum : BitVec 32
  saveBase : Word64
  saveSize : Word64
  stopped : Bool
  /-- Since a rejection the front end takes no entry until EN is written from 0 to 1 (R401). -/
  halted : Bool
  shrinking : Bool
  /-- Clusters that the range held before a shrink and that still drain (R417). -/
  removed : List Nat
  /-- A write to PART has taken clusters out of the range (R417). -/
  cut : Bool
  recRefused : Bool
  tsoBase : List Word64
  tsoLast : List Word64
  migPeer : BitVec 6
  migFe : BitVec 4
  migState : MigState
  migLand : Word64
  migCount : BitVec 32
  hbmBase : Word64
  hbmLimit : Word64
  pending : List (BitVec 256)
  binaries : List Nat
  landing : List Landing
  /-- A RESUME that waits for a page of the landing list (R453). -/
  resuming : Bool
  /-- Pages of 2 MiB whose accesses are sent on to the target (R456). -/
  stubs : List Nat
  /-- Pages whose stubs CLEAR has ended (R456), and those whose memory the target's acknowledgement has released (R457). -/
  cleared : List Nat
  freed : List Nat
  /-- Accesses of other devices to pages that have not landed, with the link by which each came and the byte of HBM here (R456). -/
  early : List (Nat × Nat × PeerOp)
  /-- Accesses that a stub has sent on, whose replies return the same way, with the link and the byte of each (R456). -/
  sentOn : List (Nat × Nat)
  /-- Records that have gone to the target with the move (R454). -/
  sentRecords : List (BitVec 256)
  /-- The ticket table, version region header and pointer tables that a move has brought to the save area, by address (R454). -/
  tables : List (Nat × List Byte)
  deriving DecidableEq, Repr, Inhabited

/-! ## Links -/

/-- A frame kept by a sender until it is acknowledged (R449): channel, format and the source flit. -/
structure KeptFrame where
  seq : BitVec 12
  chan : Fin 8
  fmt : Fin 6
  flit : List Byte
  payload : List Byte
  coded : Bool
  deriving DecidableEq, Repr, Inhabited

/-- One direction of a Wenand link (R445 to R449): the tables by (channel, format), each sixteen (exponent,
score) pairs. -/
structure LinkDir where
  tables : List (List (Nat × Nat))
  seq : BitVec 12
  kept : List KeptFrame
  deriving DecidableEq, Repr, Inhabited

/-! ## Migration -/

/-- What a source sends to the target of a migration (R454): the front end's registers, its grids, teams, submissions and
binaries, each numbered from 0 within the parcel, the outstanding accesses, operations and task instructions of the teams, the saved
contexts, each with its place in the save area, bytes that have lost their values, and the tables of tickets and versions. -/
structure Parcel where
  regs : FrontEnd
  grids : List Grid
  teams : List Team
  subs : List Submission
  bins : List Binary
  log : List LogEntry
  ops : List MatrixOp
  tasks : List TaskOp
  area : List (Nat × List Byte)
  lost : List (Nat × Nat)
  tables : List (Nat × List Byte)
  deriving DecidableEq, Repr, Inhabited

/-- What crosses a Wenand link, beside the frames whose bytes R445 gives (log 34): an access to a byte of the other device's HBM or
its answer, an access that goes to the other side of a move, an atomic to be performed at the source or what a stub sends on to the
target, at a byte of the source's HBM, a page of a move that is asked for, sent or acknowledged, and the state of a move (R450 to
R457). -/
inductive FabricMsg where
  | access (offset : Nat) (op : PeerOp)
  | answer (bytes : Option (List Byte))
  | forward (offset : Nat) (op : PeerOp)
  | pull (page : Nat)
  | page (page : Nat) (bytes : List (Nat × Byte))
  | landed (page : Nat)
  | state (parcel : Parcel)
  deriving DecidableEq, Repr, Inhabited

/-- What has left on a link for the other device: a frame byte for byte (R445), or a message. -/
inductive WireFrame where
  | frame (bytes : List Byte)
  | message (m : FabricMsg)
  deriving DecidableEq, Repr, Inhabited

structure Link where
  trained : Bool
  tx : LinkDir
  rx : LinkDir
  /-- Flits accepted from the other device, in order, as (channel, format, bytes). -/
  received : List (Nat × Nat × List Byte)
  /-- Frames that have left, the oldest first. -/
  wire : List WireFrame
  deriving DecidableEq, Repr, Inhabited

end Sys2Proof.Machine
end

