-- ==== Sys2Proof/Syntax.lean ====
section
/-! DEFINITION. The steps of the Kerril: one constructor for each row of spec/opcode_table.json, first the
instructions that a word encodes (R59), then the events, which no word encodes and which carry what the
outside or the engines bring to them. -/

namespace Sys2Proof

open Sys2Proof.Machine in
inductive Instr where
  -- integer, address and predicate (R133)
  | iadd (g : Guard) (t : IntTy) (w sat : Bool) (d : Dst) (a b : Opnd)
  | iaddImm (g : Guard) (t : IntTy) (w sat : Bool) (d : Dst) (a : Opnd) (imm : BitVec 20)
  | isub (g : Guard) (t : IntTy) (w sat : Bool) (d : Dst) (a b : Opnd)
  | imul (g : Guard) (t : IntTy) (w : Bool) (d : Dst) (a b : Opnd)
  | imulhi (g : Guard) (signed w : Bool) (d : Dst) (a b : Opnd)
  | imad (g : Guard) (t : IntTy) (w sat : Bool) (d : Dst) (a b c : Opnd)
  | idiv (g : Guard) (signed w : Bool) (d : Dst) (a b : Opnd)
  | irem (g : Guard) (signed w : Bool) (d : Dst) (a b : Opnd)
  | imin (g : Guard) (signed w : Bool) (d : Dst) (a b : Opnd)
  | imax (g : Guard) (signed w : Bool) (d : Dst) (a b : Opnd)
  | iaddc (g : Guard) (w : Bool) (d : Dst) (a b : Opnd) (p : Fin 16)
  | isubb (g : Guard) (w : Bool) (d : Dst) (a b : Opnd) (p : Fin 16)
  | andL (g : Guard) (w : Bool) (d : Dst) (a b : Opnd)
  | orL (g : Guard) (w : Bool) (d : Dst) (a b : Opnd)
  | xorL (g : Guard) (w : Bool) (d : Dst) (a b : Opnd)
  | andnL (g : Guard) (w : Bool) (d : Dst) (a b : Opnd)
  | andImm (g : Guard) (w : Bool) (d : Dst) (a : Opnd) (imm : BitVec 20)
  | orImm (g : Guard) (w : Bool) (d : Dst) (a : Opnd) (imm : BitVec 20)
  | xorImm (g : Guard) (w : Bool) (d : Dst) (a : Opnd) (imm : BitVec 20)
  | andnImm (g : Guard) (w : Bool) (d : Dst) (a : Opnd) (imm : BitVec 20)
  | shl (g : Guard) (w : Bool) (d : Dst) (a b : Opnd)
  | shr (g : Guard) (w : Bool) (d : Dst) (a b : Opnd)
  | sar (g : Guard) (w : Bool) (d : Dst) (a b : Opnd)
  | rotl (g : Guard) (w : Bool) (d : Dst) (a b : Opnd)
  | rotr (g : Guard) (w : Bool) (d : Dst) (a b : Opnd)
  | ineg (g : Guard) (w sat : Bool) (d : Dst) (a : Opnd)
  | iabs (g : Guard) (w sat : Bool) (d : Dst) (a : Opnd)
  | notL (g : Guard) (w : Bool) (d : Dst) (a : Opnd)
  | popc (g : Guard) (w : Bool) (d : Dst) (a : Opnd)
  | clz (g : Guard) (w : Bool) (d : Dst) (a : Opnd)
  | ctz (g : Guard) (w : Bool) (d : Dst) (a : Opnd)
  | brev (g : Guard) (w : Bool) (d : Dst) (a : Opnd)
  | bfe (g : Guard) (signed w : Bool) (d : Dst) (a b c : Opnd)
  | bfi (g : Guard) (w : Bool) (d : Dst) (a b c : Opnd)
  | prmt (g : Guard) (d : Dst) (a b c : Opnd)
  | icmp (g : Guard) (t : IntTy) (w : Bool) (cond : ICond) (p : Fin 16) (a b : Opnd)
  | icmpImm (g : Guard) (t : IntTy) (w : Bool) (cond : ICond) (p : Fin 16) (a : Opnd) (imm : BitVec 20)
  | isel (g : Guard) (w : Bool) (d : Dst) (a b : Opnd) (p : Fin 16)
  | mov (g : Guard) (w : Bool) (d : Dst) (a : Opnd)
  | movi (g : Guard) (w : Bool) (d : Dst) (imm : BitVec 32)
  | lea (g : Guard) (signed : Bool) (scale : Fin 8) (d : Dst) (a b c : Opnd)
  | sext (g : Guard) (t : ExtTy) (w : Bool) (d : Dst) (a : Opnd)
  | zext (g : Guard) (t : ExtTy) (w : Bool) (d : Dst) (a : Opnd)
  | pand (g : Guard) (d a b : Fin 16)
  | por (g : Guard) (d a b : Fin 16)
  | pxor (g : Guard) (d a b : Fin 16)
  | pnot (g : Guard) (d a : Fin 16)
  | pmov (g : Guard) (d a : Fin 16)
  | pmovPack (g : Guard) (d : Dst) (a : Fin 16)
  | pmovUnpack (g : Guard) (d : Fin 16) (a : Opnd)
  -- floating point and conversion (R158)
  | fadd (g : Guard) (t : FTy) (r : Rnd) (d : Fin 768) (a b : Opnd)
  | fsub (g : Guard) (t : FTy) (r : Rnd) (d : Fin 768) (a b : Opnd)
  | fmul (g : Guard) (t : FTy) (r : Rnd) (d : Fin 768) (a b : Opnd)
  | ffma (g : Guard) (t : FTy) (r : Rnd) (d : Fin 768) (a b c : Opnd)
  | fmin (g : Guard) (t : FTy) (nan : Bool) (d : Fin 768) (a b : Opnd)
  | fmax (g : Guard) (t : FTy) (nan : Bool) (d : Fin 768) (a b : Opnd)
  | fdiv (g : Guard) (f64 : Bool) (r : Rnd) (d : Fin 768) (a b : Opnd)
  | fsqrt (g : Guard) (f64 : Bool) (r : Rnd) (d : Fin 768) (a : Opnd)
  | frcp (g : Guard) (f16 : Bool) (d : Fin 768) (a : Opnd)
  | frsq (g : Guard) (f16 : Bool) (d : Fin 768) (a : Opnd)
  | fexp2 (g : Guard) (f16 : Bool) (d : Fin 768) (a : Opnd)
  | flog2 (g : Guard) (f16 : Bool) (d : Fin 768) (a : Opnd)
  | fsin (g : Guard) (f16 : Bool) (d : Fin 768) (a : Opnd)
  | fcos (g : Guard) (f16 : Bool) (d : Fin 768) (a : Opnd)
  | fcmp (g : Guard) (t : FTy) (cond : FCond) (p : Fin 16) (a b : Opnd)
  | fclass (g : Guard) (t : FTy) (d : Fin 768) (a : Opnd)
  | frint (g : Guard) (t : FTy) (r : Rnd) (x : Bool) (d : Fin 768) (a : Opnd)
  | fcvt (g : Guard) (k : Cvt) (d : Fin 768) (a : Opnd)
  | icvt (g : Guard) (k : ICvt) (r : Rnd) (hi : Bool) (d : Fin 768) (a : Opnd)
  | fscale (g : Guard) (t : FTy) (r : Rnd) (d : Fin 768) (a b : Opnd)
  | fgetexp (g : Guard) (t : FTy) (d : Fin 768) (a : Opnd)
  | fgetman (g : Guard) (t : FTy) (d : Fin 768) (a : Opnd)
  | fslice (g : Guard) (slot : Fin 8) (d : Fin 768) (a b c : Opnd)
  | dp2h (g : Guard) (bf : Bool) (d : Fin 768) (a b c : Opnd)
  | dp4 (g : Guard) (f32 : Bool) (slot : Fin 8) (d : Fin 768) (a b c : Opnd)
  | dp8 (g : Guard) (f32 : Bool) (slot : Fin 8) (d : Fin 768) (a b c : Opnd)
  -- control (R183)
  | bra (g : Guard) (off : BitVec 20)
  | brx (g : Guard) (a : Opnd) (off : BitVec 20)
  | call (g : Guard) (d : Dst) (off : BitVec 20)
  | ret (g : Guard) (a : Dst)
  | join (g : Guard) (a : Opnd)
  | loop (g : Guard) (a : Opnd) (off : BitVec 20)
  | lbrk (g : Guard) (n : Fin 4)
  | exit (g : Guard)
  | bar (g : Guard) (sl : Bool) (id : Fin 4) (b : Opnd)
  | cbar (g : Guard)
  | launch (g : Guard) (d : Dst) (a : Dst)
  | waitChild (g : Guard) (a : Opnd)
  | elect (g : Guard) (p : Fin 16)
  | ldarg (g : Guard) (t : ArgTy) (d : Dst) (off : Fin 128)
  | mfs (g : Guard) (d : Dst) (r : SpecReg)
  | mts (g : Guard) (r : SpecReg) (a : Opnd)
  | trap (g : Guard) (cls : Fin 14) (code : BitVec 16)
  | brk (g : Guard) (code : BitVec 16)
  | nop (g : Guard)
  | yield (g : Guard)
  | rft (g : Guard)
  | ctxsave (g : Guard) (a : Dst) (b : Opnd)
  | ctxload (g : Guard) (a : Dst) (b : Opnd)
  | accsw (g : Guard)
  | hlt (g : Guard)
  -- cross-lane and random (R210)
  | bfly (g : Guard) (w : Bool) (d : Fin 768) (a b fill : Opnd)
  | shfl (g : Guard) (w : Bool) (m : ShflMode) (d : Fin 768) (a b fill : Opnd)
  | xbar (g : Guard) (d : Fin 768) (a : Opnd) (x : Fin 8) (fill : Opnd)
  | stload (g : Guard) (x : Fin 8) (a : Fin 128)
  | vote (g : Guard) (op : VoteOp) (p : Fin 16)
  | redux (g : Guard) (op : ReduxOp) (d : Dst) (a : Opnd)
  | scan (g : Guard) (op : ScanOp) (excl : Bool) (d : Fin 768) (a : Opnd)
  | matchOp (g : Guard) (w : Bool) (d : Fin 768) (a : Opnd)
  | rand (g : Guard) (k23 x4 : Bool) (d : Fin 768) (a b : Opnd)
  | randNext (g : Guard) (k23 x4 : Bool) (d : Fin 768) (b : Opnd)
  -- memory (R259)
  | ld (g : Guard) (sz : MSize) (ap : Aper) (o : Order) (sc : Scope) (d : Dst) (m : MemOp)
  | st (g : Guard) (sz : MSize) (ap : Aper) (o : Order) (sc : Scope) (d : Opnd) (m : MemOp)
  | ldx (g : Guard) (sz : MSize) (ap : Aper) (o : Order) (d : Fin 768) (base : Opnd) (idx : Dst) (n : Fin 16)
  | stx (g : Guard) (sz : MSize) (ap : Aper) (o : Order) (d : Dst) (base : Opnd) (idx : Dst) (n : Fin 16)
  | atom (g : Guard) (op : AOp) (t : ATy) (ap : Aper) (o : Order) (sc : Scope) (d : Fin 768) (base b : Opnd)
  | red (g : Guard) (op : AOp) (t : ATy) (ap : Aper) (o : Order) (sc : Scope) (base b : Opnd)
  | fence (g : Guard) (o : Order) (sc : Scope)
  | sealOp (g : Guard) (team : Bool)
  | prefetch (g : Guard) (near : Bool) (m : MemOp)
  | cinv (g : Guard) (m : Option MemOp)
  | cwb (g : Guard) (m : MemOp)
  | own (g : Guard) (shr : Bool) (a : Fin 128) (b : Opnd)
  | memoryAccessComplete (log lane : Nat)
  | presenceRelease (team line : Nat)
  -- copies, descriptors and rings (R326, R329, R331)
  | cp (g : Guard) (dir : CpDir) (x : CpXform) (d a : Fin 16) (ring : Option (Fin 16)) (b : Option Opnd)
  | copyEnterEngine (core : Nat)
  | copyLineLanded (copy : Nat)
  | copyComplete (copy : Nat)
  | copyPageFault (copy : Nat)
  | tdset (g : Guard) (d : Fin 16) (a : Fin 128)
  | tdmov (g : Guard) (d a : Fin 16)
  | tdmovGet (g : Guard) (d : Fin 128) (a : Fin 16)
  | tdmovBase (g : Guard) (d : Fin 16) (a : Fin 128)
  | tdmovAdd (g : Guard) (d : Fin 16) (a : Opnd)
  | ringadvInit (g : Guard) (r : Fin 16) (a : Opnd)
  | ringadv (g : Guard) (r : Fin 16)
  | ringadvCons (g : Guard) (r : Fin 16)
  | ringwait (g : Guard) (r : Fin 16) (ph : Bool)
  -- matrix and dendritic (R362, R393)
  | sign (g : Guard) (cv : Fin 8) (a : Opnd)
  | mma (g : Guard) (f32 : Bool) (fa fb : Fin 8) (d : Fin 256) (a b : Fin 768) (sct : Fin 16) (cv : Fin 8)
  | mmaSp (g : Guard) (f32 : Bool) (fa fb : Fin 8) (d : Fin 256) (a b : Fin 768) (sct : Fin 16) (cv : Fin 8)
  | mmaw (g : Guard) (slot : Fin 8) (d : Fin 256) (a b : Fin 768) (m : Fin 16) (cv : Fin 8)
  | acclr (g : Guard) (d : Fin 256) (a : Opnd)
  | accld (g : Guard) (d : Fin 256) (t : Fin 16)
  | accst (g : Guard) (t : Fin 16) (a : Fin 256)
  | accrd (g : Guard) (d : Fin 768) (a : Fin 256) (h : Bool)
  | acccvt (g : Guard) (f64 : Bool) (slot : Fin 8) (d : Fin 768) (a : Fin 256) (e : Fin 768) (h : Bool)
  | mwait (g : Guard) (a : Opnd)
  | mmaDn (g : Guard) (fin : Bool) (slot : Fin 8) (d : Fin 256) (a b : Fin 768) (sct : Fin 16) (cv : Fin 8)
  | mmaDnb (g : Guard) (db : Bool) (slot : Fin 8) (d : Fin 256) (frag : Fin 768) (t : Fin 256) (sct : Fin 16) (cv : Fin 8)
  | dntap (g : Guard) (m : TapMode) (slot : Fin 8) (d : Fin 768) (t : Fin 256) (h : Bool) (b : Fin 16)
  | dnload (g : Guard) (slot : Fin 8)
  | matrixOpStart (op : Nat)
  | matrixCommit (op : Nat)
  | residueRetry (op : Nat)
  | residueFallback (op : Nat)
  | curvePassEnd (op : Nat)
  | matrixFetchFault (op : Nat) (kind : Fin 3) (hard content : Bool) (addr : Word64)
  -- tickets and versions (R426)
  | tkissue (g : Guard) (d : Fin 128) (a : Opnd)
  | tkredeem (g : Guard) (d a b : Fin 128)
  | tkstateGet (g : Guard) (d a : Fin 128)
  | tkstateVoid (g : Guard) (d a : Fin 128)
  | tkstateFree (g : Guard) (d a : Fin 128)
  | wvcommitOpen (g : Guard) (d : Fin 128)
  | wvcommitCow (g : Guard) (d : Fin 128) (a : Opnd)
  | wvcommitFin (g : Guard) (d : Fin 128)
  | wvcommitDrop (g : Guard) (d : Fin 128)
  | taskResultReturn (op : Nat)
  -- crew engine events
  | launchStatusReturn (log lane : Nat)
  | selection (team crew : Nat)
  | clauseHeaderIssue (team crew : Nat)
  | coreIssueCycle (core : Nat)
  | crossLaneCompletion (op : Nat)
  | trapTaken (team crew : Nat) (cls : Fin 14) (lanes : Mask) (tinfo : Word32)
  | teamKill (team crew : Nat) (cls : Fin 14) (lanes : Mask) (pc : Word64) (tinfo : Word32)
  | driverResumeGrid (grid : Nat)
  | driverKillGrid (grid : Nat)
  | uncorrectableError (team : Nat) (storage : Fin 4)
  | crewRetire (team crew : Nat)
  | teamRetire (team : Nat)
  | gridRetire (grid : Nat)
  -- placement and contexts
  | teamPlacement (grid core : Nat)
  | kernelImageLoad (grid core : Nat)
  | compactorMove (core block first : Nat)
  | priorityPreempt (grid core : Nat)
  | instructionBoundaryStop (team : Nat)
  | teamRestore (team core : Nat)
  | quantumExpiry (core : Nat)
  | bankSpill (core : Nat)
  | coreFailure (core : Nat)
  | coreRestart (core : Nat)
  -- ordered execution
  | stageEntryWaitEnd (log lane : Nat)
  | plumbRelease (grid : Nat)
  | stagedLoadComplete (log lane : Nat)
  -- translation
  | atsTranslationResponse (die : Nat) (pasid : BitVec 20) (page : BitVec 44) (write : Bool)
      (grant : Option (Nat × Nat × Bool))
  | atsInvalidateRequest (die : Nat) (pasid : BitVec 20) (range : Option (Nat × Nat))
  | pageRequestGroupResponse (die entry : Nat) (resp : Fin 4)
  | fbufValidClear (die entry : Nat)
  | fstatDropClear (die : Nat)
  | replay (die : Nat)
  | replayEnd (die : Nat)
  -- front ends and graphs
  | ringwrDoorbell (fe : Nat) (w : BitVec 32)
  | ringctlEnable (fe : Nat) (value : BitVec 32)
  | ringEntryTaken (fe : Nat)
  | festatStoppedClear (fe : Nat)
  | recordPost (fe : Nat)
  | recrdWrite (fe : Nat) (value : BitVec 32)
  | recbaseWrite (fe : Nat) (base : Option Word64) (size : Option (BitVec 16))
  | nodeReadyLaunch (sub : Nat)
  | replayGridLaunch (sub block : Nat)
  | partWrite (fe : Nat) (value : Word64)
  | rangeShrinkComplete (fe : Nat)
  | coopDrainPoint (grid : Nat)
  | redemptionRun (sub : Nat)
  | updateNodeReady (sub : Nat)
  | updateNodeRetire (sub : Nat)
  -- die links
  | exportPerformed (die home : Nat)
  | clockAnnouncement (die : Nat)
  | announcementReceived (die src : Nat) (value : Word64)
  | releaseClockWaitEnd (log lane : Nat)
  | zeroLengthReadCompletion (log lane : Nat)
  -- Wenand links, peers and migration
  | wenandDataFrame (link : Nat) (incoming : Bool) (frame : List Byte)
  | wenandAcknowledgement (link : Nat) (frame : List Byte)
  | wenandRetryRequest (link : Nat) (frame : List Byte)
  | wenandRetrain (link : Nat)
  | wenandLinkTrained (link : Nat)
  | wenandLinkFailure (link : Nat)
  | peerAccess (log lane : Nat) (answer : Option (List Byte))
  | migctlGoSource (fe : Nat) (peer : BitVec 6) (other : BitVec 4)
  | migctlGoTarget (fe : Nat) (peer : BitVec 6) (other : BitVec 4)
  | migrationSendComplete (fe : Nat) (parcel : Parcel)
  | migctlResume (fe : Nat)
  | migctlAbort (fe : Nat)
  | migctlClear (fe : Nat)
  | pagePull (fe entry : Nat)
  | pageLanded (fe entry : Nat) (bytes : List (Nat × Byte))
  | forwardedAtomic (log lane : Nat) (answer : Option Word64)
  | forwardingStubAccess (link fe offset : Nat) (access : StubAccess)
  -- host
  | functionLevelReset (fe : Nat)
  | hostBar2Access (offset size : Nat) (write : Option Word64) (relaxed : Bool)
  | hostBar4Access (offset size : Nat) (write : Option Word64)
  | attestationRequest (pf : Fin 2) (vf : Option (Fin 8)) (nonce : List Byte)
  | fusedMinimumRaise (die : Nat) (svn : BitVec 32)
  | deviceResetBoot (die : Nat) (input : BootInput)
  | thermalLimit (die : Nat) (celsius : Nat)
  | registerWrite (pf : Fin 2) (vf : Option (Fin 8)) (offset : Nat) (value : Option Word64)
  deriving DecidableEq, Repr, Inhabited

end Sys2Proof
end

