-- ==== Sys2Proof/WellFormed.lean ====
section
/-! DEFINITION. Which instructions a word may encode: the operand classes, types and modifiers of the encoding
tables (R133, R158, R173, R183, R210, R259, R326, R329, R331, R362, R393, R426) and the refusals of R57, R58,
R66, R157, R182, R209, R226, R264, R274, R345, R380 and R397 that the word alone decides. What also needs the
launch record, a slot or a register is checked where the instruction executes. An event has no word and is
always well formed. -/

namespace Sys2Proof

/-- A single source register, special register (R56) or constant. -/
def Opnd.single : Opnd → Bool
  | .sp (.wctr _) => false
  | _ => true

/-- A vector, uniform or special register, and no wait counter (R56). -/
def Opnd.singleReg : Opnd → Bool
  | .v _ | .s _ => true
  | .sp (.wctr _) => false
  | .sp _ => true
  | .con _ => false

/-- A pair as a source, where the description admits a constant (R58). -/
def Opnd.pair : Opnd → Bool
  | .v n => n.val % 2 == 0
  | .s n => n.val % 2 == 0
  | .con _ => true
  | .sp _ => false

/-- A source of one register, or of a pair when `w`. -/
def Opnd.src (w : Bool) (o : Opnd) : Bool := if w then o.pair else o.single

/-- A register pair, with no constant allowed (R58). -/
def Opnd.regPair : Opnd → Bool
  | .v n => n.val % 2 == 0
  | .s n => n.val % 2 == 0
  | _ => false

/-- A single register or special register, or a register pair when `w`, with no constant (columns 1 and t of R210). -/
def Opnd.reg (w : Bool) (o : Opnd) : Bool :=
  match o with
  | .con _ => false
  | o => o.src w

/-- A uniform register or a constant (column u of R183 and R210). -/
def Opnd.isU : Opnd → Bool
  | .s _ => true
  | .con _ => true
  | _ => false

/-- An integer constant. -/
def Opnd.isIntCon : Opnd → Bool
  | .con c => c.val < 48
  | _ => false

/-- A floating constant (R57). -/
def Opnd.isFloatCon : Opnd → Bool
  | .con c => 48 ≤ c.val
  | _ => false

/-- A uniform register or an integer constant (column u of R362; R259 own). -/
def Opnd.isUInt (o : Opnd) : Bool := match o with
  | .s _ => true
  | o => o.isIntCon

/-- The special registers that a uniform form may read (R137). -/
def SpecReg.uniform : SpecReg → Bool
  | .teamX | .teamY | .teamZ | .crew | .depth | .cyc => true
  | _ => false

/-- A source of a uniform form (R137). -/
def Opnd.uniformSrc : Opnd → Bool
  | .s _ => true
  | .con _ => true
  | .sp r => r.uniform
  | .v _ => false

def Dst.isU : Dst → Bool
  | .s _ => true
  | .v _ => false

/-- A destination of one register, or of a pair when `w`. -/
def Dst.ok (w : Bool) : Dst → Bool
  | .v n => !w || n.val % 2 == 0
  | .s n => !w || n.val % 2 == 0

/-- R137: a uniform destination takes uniform sources. -/
def uniformForm (d : Dst) (srcs : List Opnd) : Bool := !d.isU || srcs.all Opnd.uniformSrc

/-- R133: destination `d` and sources of the width that `w` gives. -/
def aluForm (w : Bool) (d : Dst) (srcs : List Opnd) : Bool :=
  d.ok w && srcs.all (Opnd.src w) && uniformForm d srcs

/-- A vector register, or the even one of a pair for `.f64`. -/
def vecOk (t : FTy) (d : Fin 768) : Bool := t != .f64 || d.val % 2 == 0

/-- A source of column f of R158. -/
def Opnd.fsrc (t : FTy) (o : Opnd) : Bool := o.src (t == .f64)

def FTy.half : FTy → Bool
  | .f16 | .bf16 => true
  | _ => false

/-- A packed operand takes no floating constant (R57). -/
def Opnd.packed (o : Opnd) : Bool := o.single && !o.isFloatCon

/-- A base under R259: a register pair for a generic access; a register, special registers included (R56), or an integer
constant for an aperture. -/
def baseOk (ap : Aper) (o : Opnd) : Bool :=
  match ap, o with
  | .generic, o => o.regPair
  | _, o => o.singleReg || o.isIntCon

/-- An index under R259, a special register standing as any register may (R56). -/
def Opnd.indexOk (o : Opnd) : Bool := o.singleReg || o.isIntCon

/-- R53: a `.peer` form has an offset of 8 bits. -/
def MemOp.ok (ap : Aper) (m : MemOp) : Bool :=
  baseOk ap m.base && m.index.indexOk &&
  match ap with
  | .peer _ => -128 ≤ m.off.toInt && m.off.toInt ≤ 127
  | _ => true

/-- R261: a relaxed instruction names no scope. -/
def scopeOk (o : Order) (sc : Scope) : Bool :=
  match o with
  | .none | .rlx => sc == .none
  | _ => true

/-- Register width of an access size in registers. -/
def MSize.wide : MSize → Bool
  | .b64 => true
  | _ => false

/-- SIZE of an instruction that stores (R259). -/
def MSize.storable : MSize → Bool
  | .s8 | .s16 => false
  | _ => true

def ATy.wide : ATy → Bool
  | .b64 | .f64 => true
  | _ => false

/-- The pairs of R266. -/
def atomTypes (op : AOp) (t : ATy) : Bool :=
  match op with
  | .add | .min | .max => t == .s32 || t == .n32 || t == .b64
  | .andB | .orB | .xorB | .exch | .cas => t == .b32 || t == .b64
  | .fadd => t == .f16 || t == .bf16 || t == .f32 || t == .f64
  | .fmaxAbs => t == .f32

/-- Data of an atomic (R54, R266): the width of the datum, or the groups of a cas. -/
def atomData (op : AOp) (t : ATy) (b : Opnd) : Bool :=
  match op, b with
  | .cas, .v n => if t.wide then n.val % 4 == 0 else n.val % 2 == 0
  | .cas, .s n => if t.wide then n.val % 4 == 0 else n.val % 2 == 0
  | .cas, _ => false
  | _, b => b.src t.wide

/-- First register and count of the registers of a range, vector and uniform numbered apart. -/
def Dst.range (d : Dst) (n : Nat) : Bool × Nat × Nat :=
  match d with
  | .v k => (false, k.val, n)
  | .s k => (true, k.val, n)

def rangesMeet (a b : Bool × Nat × Nat) : Bool :=
  a.1 == b.1 && a.2.1 < b.2.1 + b.2.2 && b.2.1 < a.2.1 + a.2.2

/-- A range of `n` registers within the register file. -/
def Dst.fits (d : Dst) (n : Nat) : Bool :=
  match d with
  | .v k => k.val + n ≤ 768
  | .s k => k.val + n ≤ 128

/-- Registers that a base names. -/
def baseRange (ap : Aper) (o : Opnd) : Option (Bool × Nat × Nat) :=
  let n := match ap with
    | .generic => 2
    | _ => 1
  match o with
  | .v k => some (false, k.val, n)
  | .s k => some (true, k.val, n)
  | _ => none

/-- R264: the rules of a long gather or scatter that the word decides. `n` is the element count minus one. stx takes uniform store
data as st does (the model's choice, log 65). -/
def longOk (load : Bool) (sz : MSize) (ap : Aper) (o : Order) (d : Dst) (base : Opnd) (idx : Dst) (n : Fin 16) : Bool :=
  let per := if sz.wide then 2 else 1
  let len := n.val + 1
  (match ap with
    | .peer _ => false
    | _ => true) &&
  (o == .none || o == .rlx) && baseOk ap base && d.ok sz.wide && d.fits (per * len) && idx.fits len &&
  (!load || (!rangesMeet (d.range (per * len)) (idx.range len) &&
    match baseRange ap base with
    | some r => !rangesMeet (d.range (per * len)) r
    | none => true))

/-- R57: an operand of 8 bits takes no floating constant. -/
def Opnd.extSrc (t : ExtTy) (o : Opnd) : Bool := o.single && !(t == .b8 && o.isFloatCon)

/-- Well-formedness of every instruction; each arm follows the row of its encoding table. -/
def Instr.wf : Instr → Bool
  | .iadd _ t w sat d a b => aluForm w d [a, b] && !(sat && t == .b32)
  | .iaddImm _ t w sat d a _ => aluForm w d [a] && !(sat && t == .b32)
  | .isub _ t w sat d a b => aluForm w d [a, b] && !(sat && t == .b32)
  | .imul _ _ w d a b => aluForm w d [a, b]
  | .imulhi _ _ w d a b => aluForm w d [a, b]
  | .imad _ t w sat d a b c => aluForm w d [a, b, c] && !(sat && t == .b32)
  | .idiv _ _ w d a b => aluForm w d [a, b]
  | .irem _ _ w d a b => aluForm w d [a, b]
  | .imin _ _ w d a b => aluForm w d [a, b]
  | .imax _ _ w d a b => aluForm w d [a, b]
  | .iaddc _ w d a b _ => aluForm w d [a, b]
  | .isubb _ w d a b _ => aluForm w d [a, b]
  | .andL _ w d a b => aluForm w d [a, b]
  | .orL _ w d a b => aluForm w d [a, b]
  | .xorL _ w d a b => aluForm w d [a, b]
  | .andnL _ w d a b => aluForm w d [a, b]
  | .andImm _ w d a _ => aluForm w d [a]
  | .orImm _ w d a _ => aluForm w d [a]
  | .xorImm _ w d a _ => aluForm w d [a]
  | .andnImm _ w d a _ => aluForm w d [a]
  | .shl _ w d a b => d.ok w && a.src w && b.single && uniformForm d [a, b]
  | .shr _ w d a b => d.ok w && a.src w && b.single && uniformForm d [a, b]
  | .sar _ w d a b => d.ok w && a.src w && b.single && uniformForm d [a, b]
  | .rotl _ w d a b => d.ok w && a.src w && b.single && uniformForm d [a, b]
  | .rotr _ w d a b => d.ok w && a.src w && b.single && uniformForm d [a, b]
  | .ineg _ w _ d a => aluForm w d [a]
  | .iabs _ w _ d a => aluForm w d [a]
  | .notL _ w d a => aluForm w d [a]
  | .popc _ w d a => a.src w && uniformForm d [a]
  | .clz _ w d a => a.src w && uniformForm d [a]
  | .ctz _ w d a => a.src w && uniformForm d [a]
  | .brev _ w d a => aluForm w d [a]
  | .bfe _ _ w d a b c => d.ok w && a.src w && b.single && c.single && uniformForm d [a, b, c]
  | .bfi _ w d a b c => d.ok w && a.src w && b.single && c.single && uniformForm d [a, b, c]
  | .prmt _ d a b c => aluForm false d [a, b, c]
  | .icmp _ t w cond _ a b => a.src w && b.src w && (t != .b32 || cond == .eq || cond == .ne)
  | .icmpImm _ t w cond _ a _ => a.src w && (t != .b32 || cond == .eq || cond == .ne)
  | .isel _ w d a b _ => aluForm w d [a, b]
  | .mov _ w d a => aluForm w d [a]
  | .movi _ w d _ => d.ok w
  | .lea _ _ _ d a b c => d.ok true && a.regPair && b.single && c.single && uniformForm d [a, b, c]
  | .sext _ t w d a => d.ok w && a.extSrc t && (t != .b32 || w) && uniformForm d [a]
  | .zext _ t w d a => d.ok w && a.extSrc t && (t != .b32 || w) && uniformForm d [a]
  | .pand _ _ _ _ => true
  | .por _ _ _ _ => true
  | .pxor _ _ _ _ => true
  | .pnot _ _ _ => true
  | .pmov _ _ _ => true
  | .pmovPack _ _ _ => true
  | .pmovUnpack _ _ a => a.single
  | .fadd _ t _ d a b => vecOk t d && a.fsrc t && b.fsrc t
  | .fsub _ t _ d a b => vecOk t d && a.fsrc t && b.fsrc t
  | .fmul _ t _ d a b => vecOk t d && a.fsrc t && b.fsrc t
  | .ffma _ t _ d a b c => vecOk t d && a.fsrc t && b.fsrc t && c.fsrc t
  | .fmin _ t _ d a b => vecOk t d && a.fsrc t && b.fsrc t
  | .fmax _ t _ d a b => vecOk t d && a.fsrc t && b.fsrc t
  | .fdiv _ f64 _ d a b => (!f64 || d.val % 2 == 0) && a.src f64 && b.src f64
  | .fsqrt _ f64 _ d a => (!f64 || d.val % 2 == 0) && a.src f64
  | .frcp _ _ _ a => a.single
  | .frsq _ _ _ a => a.single
  | .fexp2 _ _ _ a => a.single
  | .flog2 _ _ _ a => a.single
  | .fsin _ _ _ a => a.single
  | .fcos _ _ _ a => a.single
  | .fcmp _ t _ _ a b => a.fsrc t && b.fsrc t
  | .fclass _ t _ a => a.fsrc t
  | .frint _ t _ _ d a => vecOk t d && a.fsrc t
  | .fcvt _ (.wide dt ft _ hi) d a => dt != ft && vecOk dt d && a.fsrc ft && (!hi || (dt.half != ft.half))
  | .fcvt _ (.pack _ _ draw) _ a => a.single && draw.single
  | .fcvt _ (.unpack _ _) _ a => a.packed
  | .icvt _ (.toFloat dt _ w) _ hi d a => vecOk dt d && a.src w && (!hi || dt.half)
  | .icvt _ (.toInt _ w ft) _ hi d a => (!w || d.val % 2 == 0) && a.fsrc ft && (!hi || ft.half)
  | .fscale _ t _ d a b => vecOk t d && a.fsrc t && b.single
  | .fgetexp _ t _ a => a.fsrc t
  | .fgetman _ t d a => vecOk t d && a.fsrc t
  | .fslice _ _ _ a b c => a.pair && b.single && c.single
  | .dp2h _ _ _ a b c => a.packed && b.packed && c.single
  | .dp4 _ _ _ _ a b c => a.packed && b.packed && c.single
  | .dp8 _ _ _ _ a b c => a.packed && b.packed && c.single
  | .bra _ _ => true
  | .brx _ a _ => a.single
  | .call _ d _ => d.ok true
  | .ret _ a => a.ok true
  | .join _ a => a.isU
  | .loop _ a _ => a.single
  | .lbrk _ _ => true
  | .exit _ => true
  | .bar _ _ _ b => b.isU
  | .cbar _ => true
  | .launch _ _ a => a.ok true
  | .waitChild _ a => a.isU
  | .elect _ _ => true
  | .ldarg _ t d off =>
    let w := match t with
      | .b8 => 1
      | .b16 => 2
      | .b32 => 4
      | .b64 => 8
    d.ok (t == .b64) && off.val % w == 0 && off.val + w ≤ 128
  | .mfs _ d r =>
    match r with
    | .wctr _ => true
    | r => !d.isU || r.uniform
  | .mts _ r a =>
    match r with
    | .wctr n => a.single && (n.val < 6 || a.isU)
    | _ => a.single
  | .trap _ _ _ => true
  | .brk _ _ => true
  | .nop _ => true
  | .yield _ => true
  | .rft _ => true
  | .ctxsave _ a b => a.ok true && b.isU
  | .ctxload _ a b => a.ok true && b.isU
  | .accsw _ => true
  | .hlt _ => true
  | .bfly _ w d a b f => (!w || d.val % 2 == 0) && a.reg w && b.isU && f.src w
  | .shfl _ w _ d a b f => (!w || d.val % 2 == 0) && a.reg w && b.single && f.src w
  | .xbar _ _ a _ f => a.reg false && f.single
  | .stload _ _ a => a.val % 2 == 0
  | .vote _ (.quorum _ k) _ => k.isU
  | .vote _ _ _ => true
  | .redux _ _ _ a => a.reg false
  | .scan _ _ _ _ a => a.reg false
  | .matchOp _ w _ a => a.reg w
  | .rand _ _ x4 d a b => a.single && b.isU && (!x4 || d.val % 4 == 0)
  | .randNext _ _ x4 d b => b.isU && (!x4 || d.val % 4 == 0)
  | .ld _ sz ap o sc d m =>
    d.ok sz.wide && m.ok ap && (o == .none || o == .rlx || o == .acq || o == .sc) && scopeOk o sc &&
    (!d.isU || (m.base.isU && m.index.isU))
  | .st _ sz ap o sc d m =>
    sz.storable && d.src sz.wide && !(sz == .b8 && d.isFloatCon) && m.ok ap &&
    (o == .none || o == .rlx || o == .rel || o == .sc) && scopeOk o sc
  | .ldx _ sz ap o d base idx n => longOk true sz ap o (.v d) base idx n
  | .stx _ sz ap o d base idx n => sz.storable && longOk false sz ap o d base idx n
  | .atom _ op t ap o sc d base b =>
    atomTypes op t && (!t.wide || d.val % 2 == 0) && baseOk ap base && atomData op t b && scopeOk o sc
  | .red _ op t ap o sc base b =>
    atomTypes op t && op != .exch && op != .cas && baseOk ap base && atomData op t b &&
    (o == .none || o == .rlx || o == .rel) && scopeOk o sc
  | .fence _ o _ => o != .none && o != .rlx
  | .sealOp _ _ => true
  | .prefetch _ _ m => m.ok .generic
  | .cinv _ none => true
  | .cinv _ (some m) => m.ok .generic
  | .cwb _ m => m.ok .generic
  | .own _ _ a b => a.val % 2 == 0 && b.isUInt
  | .cp _ _ x _ _ _ b =>
    match b with
    | none => true
    | some o => x == .q && (match o with
      | .s _ => true
      | o => o.isFloatCon)
  | .tdset _ _ a => a.val % 8 == 0
  | .tdmov _ _ _ => true
  | .tdmovGet _ d _ => d.val % 8 == 0
  | .tdmovBase _ _ a => a.val % 2 == 0
  | .tdmovAdd _ _ a => a.isU
  | .ringadvInit _ _ a => a.isU
  | .ringadv _ _ => true
  | .ringadvCons _ _ => true
  | .ringwait _ _ _ => true
  | .sign _ _ a => a.isUInt
  | .mma _ _ _ _ _ _ _ _ _ => true
  | .mmaSp _ _ _ _ _ _ _ _ _ => true
  | .mmaw _ _ _ _ _ _ _ => true
  | .acclr _ _ a => a.isUInt
  | .accld _ _ _ => true
  | .accst _ _ _ => true
  | .accrd _ _ _ _ => true
  | .acccvt _ f64 _ d _ _ _ => !f64 || d.val % 2 == 0
  | .mwait _ a => a.isUInt
  | .mmaDn _ _ _ _ _ _ _ _ => true
  | .mmaDnb _ _ _ _ _ _ _ _ => true
  | .dntap _ _ _ _ _ _ _ => true
  | .dnload _ _ => true
  | .tkissue _ d a => d.val % 2 == 0 && a.isU
  | .tkredeem _ _ a b => a.val % 2 == 0 && b.val % 2 == 0
  | .tkstateGet _ _ a => a.val % 2 == 0
  | .tkstateVoid _ _ a => a.val % 2 == 0
  | .tkstateFree _ _ a => a.val % 2 == 0
  | .wvcommitOpen _ _ => true
  | .wvcommitCow _ _ a => a.isU
  | .wvcommitFin _ _ => true
  | .wvcommitDrop _ _ => true
  | _ => true

end Sys2Proof
end

