-- ==== Sys2Proof/Decode.lean ====
section
/-! DEFINITION. The encoding of instruction words (R52 to R59 and the encoding tables), both ways: the fields of
a word, the decoder, which names its reason when it refuses a word (R66), and the encoder. -/

namespace Sys2Proof

/-- The fields of R52 and R53: every form divides bits [50:11] into four fields of ten bits. -/
structure Fields where
  sw : Bool
  major : BitVec 7
  pn : Bool
  pred : BitVec 4
  d : BitVec 10
  a : BitVec 10
  b : BitVec 10
  c : BitVec 10
  fn : BitVec 11
  deriving DecidableEq, Repr

/-- Why a word is no instruction (R66). -/
inductive DecodeError where
  /-- The major opcode is unassigned (R59). -/
  | unassignedMajor
  /-- A field holds a code that the row of the instruction does not list. -/
  | badField
  /-- A reserved bit or an unused field is not zero. -/
  | reservedBits
  /-- An operand breaks R57, R58 or the table of its instruction. -/
  | illFormed
  deriving DecidableEq, Repr

def Fields.pack (f : Fields) : Word64 :=
  BitVec.ofBool f.sw ++ f.major ++ BitVec.ofBool f.pn ++ f.pred ++ f.d ++ f.a ++ f.b ++ f.c ++ f.fn

def Fields.unpack (w : Word64) : Fields where
  sw := w.getLsbD 63
  major := w.extractLsb' 56 7
  pn := w.getLsbD 55
  pred := w.extractLsb' 51 4
  d := w.extractLsb' 41 10
  a := w.extractLsb' 31 10
  b := w.extractLsb' 21 10
  c := w.extractLsb' 11 10
  fn := w.extractLsb' 0 11

/-! ## Codes of the parts -/

def Bool.code (b : Bool) : Nat := if b then 1 else 0

def flag : Nat → Option Bool
  | 0 => some false
  | 1 => some true
  | _ => none

/-- A number below `n`, where `n` is the size of the index the field holds (R58). -/
def index (n : Nat) (k : Nat) : Option (Fin n) := if h : k < n then some ⟨k, h⟩ else none

def SpecReg.code : SpecReg → Nat
  | .lane => 896 | .tid => 897 | .teamX => 898 | .teamY => 899 | .teamZ => 900 | .crew => 901 | .depth => 902
  | .pix => 903 | .fpflags => 904 | .fptrap => 905 | .mflags => 906 | .cyc => 907 | .tcause => 908 | .tinfo => 909
  | .lc n => 910 + n.val
  | .ls n => 914 + n.val
  | .wctr n => 918 + n.val

def SpecReg.ofCode (k : Nat) : Option SpecReg :=
  match k with
  | 896 => some .lane | 897 => some .tid | 898 => some .teamX | 899 => some .teamY | 900 => some .teamZ
  | 901 => some .crew | 902 => some .depth | 903 => some .pix | 904 => some .fpflags | 905 => some .fptrap
  | 906 => some .mflags | 907 => some .cyc | 908 => some .tcause | 909 => some .tinfo
  | k =>
    if 910 ≤ k then
      if k < 914 then (index 4 (k - 910)).map SpecReg.lc
      else if k < 918 then (index 4 (k - 914)).map SpecReg.ls
      else (index 8 (k - 918)).map SpecReg.wctr
    else none

def Opnd.code : Opnd → Nat
  | .v n => n.val
  | .s n => 768 + n.val
  | .sp r => r.code
  | .con c => 960 + c.val

/-- R56: an operand field; codes 926 to 959 are unassigned. -/
def Opnd.ofCode (k : Nat) : Option Opnd :=
  if k < 768 then (index 768 k).map Opnd.v
  else if k < 896 then (index 128 (k - 768)).map Opnd.s
  else if k < 960 then (SpecReg.ofCode k).map Opnd.sp
  else (index 64 (k - 960)).map Opnd.con

def Dst.code : Dst → Nat
  | .v n => n.val
  | .s n => 768 + n.val

def Dst.ofCode (k : Nat) : Option Dst :=
  if k < 768 then (index 768 k).map Dst.v
  else (index 128 (k - 768)).map Dst.s

/-- A uniform register field. -/
def uniformCode (k : Nat) : Option (Fin 128) := if 768 ≤ k then index 128 (k - 768) else none

/-- The scale field of cp: zero names nothing (R331). -/
def scaleField (k : Nat) : Option (Option Opnd) := if k = 0 then some none else (Opnd.ofCode k).map some

/-- An integer constant field that holds a small index. -/
def constIndex (n k : Nat) : Option (Fin n) := if 960 ≤ k then index n (k - 960) else none

/-- TYPE (R55). -/
def IntTy.code : IntTy → Nat
  | .b32 => 2
  | .s32 => 6
  | .n32 => 10

def IntTy.ofCode : Nat → Option IntTy
  | 2 => some .b32
  | 6 => some .s32
  | 10 => some .n32
  | _ => none

/-- TYPE (R55). -/
def FTy.code : FTy → Nat
  | .f16 => 12
  | .bf16 => 13
  | .f32 => 14
  | .f64 => 15

def FTy.ofCode : Nat → Option FTy
  | 12 => some .f16
  | 13 => some .bf16
  | 14 => some .f32
  | 15 => some .f64
  | _ => none

/-- MOD of icmp (R150). -/
def ICond.code : ICond → Nat
  | .eq => 1
  | .ne => 2
  | .lt => 3
  | .le => 4
  | .gt => 5
  | .ge => 6

def ICond.ofCode : Nat → Option ICond
  | 1 => some .eq
  | 2 => some .ne
  | 3 => some .lt
  | 4 => some .le
  | 5 => some .gt
  | 6 => some .ge
  | _ => none

/-- MOD of fcmp (R167). -/
def FCond.code : FCond → Nat
  | .eq => 1
  | .ne => 2
  | .lt => 3
  | .le => 4
  | .gt => 5
  | .ge => 6
  | .un => 7

def FCond.ofCode : Nat → Option FCond
  | 1 => some .eq
  | 2 => some .ne
  | 3 => some .lt
  | 4 => some .le
  | 5 => some .gt
  | 6 => some .ge
  | 7 => some .un
  | _ => none

/-- Rounding code of MOD (R158). -/
def Rnd.code : Rnd → Nat
  | .rne => 0
  | .rz => 1
  | .rd => 2
  | .ru => 3

def Rnd.ofCode : Nat → Option Rnd
  | 0 => some .rne
  | 1 => some .rz
  | 2 => some .rd
  | 3 => some .ru
  | _ => none

/-- TYPE of sext and zext (R155). -/
def ExtTy.code : ExtTy → Nat
  | .b8 => 0
  | .b16 => 1
  | .b32 => 2

def ExtTy.ofCode : Nat → Option ExtTy
  | 0 => some .b8
  | 1 => some .b16
  | 2 => some .b32
  | _ => none

/-- ORDER (R54). -/
def Order.code : Order → Nat
  | .none => 0
  | .rlx => 1
  | .acq => 2
  | .rel => 3
  | .ar => 4
  | .sc => 5

def Order.ofCode : Nat → Option Order
  | 0 => some .none
  | 1 => some .rlx
  | 2 => some .acq
  | 3 => some .rel
  | 4 => some .ar
  | 5 => some .sc
  | _ => none

/-- SCOPE (R54). -/
def Scope.code : Scope → Nat
  | .none => 0
  | .team => 1
  | .cohort => 2
  | .die => 3
  | .dev => 4
  | .sys => 5

def Scope.ofCode : Nat → Option Scope
  | 0 => some .none
  | 1 => some .team
  | 2 => some .cohort
  | 3 => some .die
  | 4 => some .dev
  | 5 => some .sys
  | _ => none

/-- SIZE (R54). -/
def MSize.code : MSize → Nat
  | .b8 => 0
  | .b16 => 1
  | .b32 => 2
  | .b64 => 3
  | .s8 => 4
  | .s16 => 5

def MSize.ofCode : Nat → Option MSize
  | 0 => some .b8
  | 1 => some .b16
  | 2 => some .b32
  | 3 => some .b64
  | 4 => some .s8
  | 5 => some .s16
  | _ => none

/-- AOP (R54). -/
def AOp.code : AOp → Nat
  | .add => 0
  | .min => 1
  | .max => 2
  | .andB => 3
  | .orB => 4
  | .xorB => 5
  | .exch => 6
  | .cas => 7
  | .fadd => 8
  | .fmaxAbs => 9

def AOp.ofCode : Nat → Option AOp
  | 0 => some .add
  | 1 => some .min
  | 2 => some .max
  | 3 => some .andB
  | 4 => some .orB
  | 5 => some .xorB
  | 6 => some .exch
  | 7 => some .cas
  | 8 => some .fadd
  | 9 => some .fmaxAbs
  | _ => none

/-- TYPE of an atomic (R266). -/
def ATy.code : ATy → Nat
  | .b32 => 2
  | .b64 => 3
  | .s32 => 6
  | .n32 => 10
  | .f16 => 12
  | .bf16 => 13
  | .f32 => 14
  | .f64 => 15

def ATy.ofCode : Nat → Option ATy
  | 2 => some .b32
  | 3 => some .b64
  | 6 => some .s32
  | 10 => some .n32
  | 12 => some .f16
  | 13 => some .bf16
  | 14 => some .f32
  | 15 => some .f64
  | _ => none

/-- MOD of shfl (R210). -/
def ShflMode.code : ShflMode → Nat
  | .idx => 0
  | .up => 1
  | .down => 2

def ShflMode.ofCode : Nat → Option ShflMode
  | 0 => some .idx
  | 1 => some .up
  | 2 => some .down
  | _ => none

/-- TYPE of ldarg (R183). -/
def ArgTy.code : ArgTy → Nat
  | .b8 => 0
  | .b16 => 1
  | .b32 => 2
  | .b64 => 3

def ArgTy.ofCode : Nat → Option ArgTy
  | 0 => some .b8
  | 1 => some .b16
  | 2 => some .b32
  | 3 => some .b64
  | _ => none

/-- MOD of cp (R331). -/
def CpDir.code : CpDir → Nat
  | .g2s => 0
  | .s2g => 1
  | .s2s => 2
  | .mc => 3

def CpDir.ofCode : Nat → Option CpDir
  | 0 => some .g2s
  | 1 => some .s2g
  | 2 => some .s2s
  | 3 => some .mc
  | _ => none

/-- XFORM of cp (R331). -/
def CpXform.code : CpXform → Nat
  | .plain => 0
  | .t => 1
  | .q => 2
  | .sx => 3

def CpXform.ofCode : Nat → Option CpXform
  | 0 => some .plain
  | 1 => some .t
  | 2 => some .q
  | 3 => some .sx
  | _ => none

/-- MODE of dntap (R393). -/
def TapMode.code : TapMode → Nat
  | .pre => 0
  | .out => 1
  | .slope => 2

def TapMode.ofCode : Nat → Option TapMode
  | 0 => some .pre
  | 1 => some .out
  | 2 => some .slope
  | _ => none

/-- TYPE .s32 or .n32. -/
def signCode (s : Bool) : Nat := if s then 6 else 10

def signOf : Nat → Option Bool
  | 6 => some true
  | 10 => some false
  | _ => none

/-- TYPE .f16 or .f32, of the approximations (R158). -/
def halfCode (h : Bool) : Nat := if h then 12 else 14

def halfOf : Nat → Option Bool
  | 12 => some true
  | 14 => some false
  | _ => none

/-- TYPE .f64 or .f32. -/
def doubleCode (h : Bool) : Nat := if h then 15 else 14

def doubleOf : Nat → Option Bool
  | 15 => some true
  | 14 => some false
  | _ => none

/-- TYPE .b64 or .b32. -/
def wideCode (w : Bool) : Nat := if w then 3 else 2

def wideOf : Nat → Option Bool
  | 3 => some true
  | 2 => some false
  | _ => none

/-- TYPE .f32 or .s32. -/
def accCode (f : Bool) : Nat := if f then 14 else 6

def accOf : Nat → Option Bool
  | 14 => some true
  | 6 => some false
  | _ => none

/-- TYPE and MOD of redux (R210). -/
def ReduxOp.codes : ReduxOp → Nat × Nat
  | .add s => (signCode s, 0)
  | .min s => (signCode s, 1)
  | .max s => (signCode s, 2)
  | .andB => (2, 3)
  | .orB => (2, 4)
  | .xorB => (2, 5)
  | .fadd => (14, 6)
  | .fmax => (14, 7)

def ReduxOp.ofCodes (ty md : Nat) : Option ReduxOp :=
  match md with
  | 0 => (signOf ty).map .add
  | 1 => (signOf ty).map .min
  | 2 => (signOf ty).map .max
  | 3 => if ty = 2 then some .andB else none
  | 4 => if ty = 2 then some .orB else none
  | 5 => if ty = 2 then some .xorB else none
  | 6 => if ty = 14 then some .fadd else none
  | 7 => if ty = 14 then some .fmax else none
  | _ => none

/-- TYPE and MOD[1:0] of scan (R210). -/
def ScanOp.codes : ScanOp → Nat × Nat
  | .add s => (signCode s, 0)
  | .min s => (signCode s, 1)
  | .max s => (signCode s, 2)
  | .fadd => (14, 3)

def ScanOp.ofCodes (ty md : Nat) : Option ScanOp :=
  match md with
  | 0 => (signOf ty).map .add
  | 1 => (signOf ty).map .min
  | 2 => (signOf ty).map .max
  | 3 => if ty = 14 then some .fadd else none
  | _ => none

/-- APER and rank (R53, R54). -/
def Aper.code : Aper → Nat
  | .generic => 0
  | .pad => 1
  | .peer _ => 2
  | .stack => 3

def Aper.rank : Aper → Nat
  | .peer r => r.val
  | _ => 0

def Aper.ofCode (ap rank : Nat) : Option Aper :=
  match ap with
  | 0 => some .generic
  | 1 => some .pad
  | 2 => (index 4 rank).map .peer
  | 3 => some .stack
  | _ => none

/-- C of the mem form (R53). -/
def offCode (ap : Aper) (off : BitVec 10) : Nat :=
  match ap with
  | .peer r => r.val * 256 + off.toNat % 256
  | _ => off.toNat

def offOf (ap : Aper) (c : BitVec 10) : BitVec 10 :=
  match ap with
  | .peer _ => (c.extractLsb' 0 8).signExtend 10
  | _ => c

/-! ## The encoder -/

/-- FN in the alu layout (R54). -/
def aluFn (ty : Nat) (w : Bool) (op md : Nat) : Nat := ty * 128 + Bool.code w * 64 + op * 8 + md

/-- FN in the mem layout (R54). -/
def memFn (size ap order scope : Nat) : Nat := size * 256 + ap * 64 + order * 8 + scope

/-- A word with the given codes in its fields. -/
def Guard.word (g : Guard) (major d a b c fn : Nat) : Option Fields :=
  some ⟨g.sw, BitVec.ofNat 7 major, g.pn, BitVec.ofNat 4 g.pred.val, BitVec.ofNat 10 d, BitVec.ofNat 10 a,
    BitVec.ofNat 10 b, BitVec.ofNat 10 c, BitVec.ofNat 11 fn⟩

/-- A word with a 20-bit field in [30:11]: imm20 and branch forms (R53). -/
def Guard.word20 (g : Guard) (major d a : Nat) (imm : BitVec 20) (fn : Nat) : Option Fields :=
  some ⟨g.sw, BitVec.ofNat 7 major, g.pn, BitVec.ofNat 4 g.pred.val, BitVec.ofNat 10 d, BitVec.ofNat 10 a,
    imm.extractLsb' 10 10, imm.extractLsb' 0 10, BitVec.ofNat 11 fn⟩

/-- The wide form (R53): IMM32 in [40:9], W in [8]. -/
def Guard.wordWide (g : Guard) (major d : Nat) (imm : BitVec 32) (w : Bool) : Option Fields :=
  let low : BitVec 41 := imm ++ BitVec.ofBool w ++ (0 : BitVec 8)
  some ⟨g.sw, BitVec.ofNat 7 major, g.pn, BitVec.ofNat 4 g.pred.val, BitVec.ofNat 10 d, low.extractLsb' 31 10,
    low.extractLsb' 21 10, low.extractLsb' 11 10, low.extractLsb' 0 11⟩

/-- An atomic's word (R53, R54). -/
def Guard.wordAtomic (g : Guard) (major d a b : Nat) (op : AOp) (t : ATy) (ap : Aper) (o : Order) (sc : Scope) :
    Option Fields :=
  g.word major d a b (o.code * 128 + sc.code * 16 + ap.code * 4 + ap.rank) (t.code * 128 + op.code * 8)

/-- C of a matrix instruction with SCT in [9:6] and CV in [2:0]. -/
def sctCode (sct mid cv : Nat) : Nat := sct * 64 + mid * 8 + cv

/-- The fields of an instruction, from the encoding tables; none for an event, which no word encodes. -/
def Instr.encode : Instr → Option Fields
  | .iadd g t w sat d a b => g.word 0x01 d.code a.code b.code 0 (aluFn t.code w 0 (Bool.code sat))
  | .isub g t w sat d a b => g.word 0x02 d.code a.code b.code 0 (aluFn t.code w 0 (Bool.code sat))
  | .imul g t w d a b => g.word 0x03 d.code a.code b.code 0 (aluFn t.code w 0 0)
  | .imulhi g sg w d a b => g.word 0x04 d.code a.code b.code 0 (aluFn (signCode sg) w 0 0)
  | .idiv g sg w d a b => g.word 0x06 d.code a.code b.code 0 (aluFn (signCode sg) w 0 0)
  | .irem g sg w d a b => g.word 0x07 d.code a.code b.code 0 (aluFn (signCode sg) w 0 0)
  | .imin g sg w d a b => g.word 0x08 d.code a.code b.code 0 (aluFn (signCode sg) w 0 0)
  | .imax g sg w d a b => g.word 0x09 d.code a.code b.code 0 (aluFn (signCode sg) w 0 0)
  | .imad g t w sat d a b c => g.word 0x05 d.code a.code b.code c.code (aluFn t.code w 0 (Bool.code sat))
  | .iaddc g w d a b p => g.word 0x0A d.code a.code b.code p.val (aluFn 10 w 0 0)
  | .isubb g w d a b p => g.word 0x0B d.code a.code b.code p.val (aluFn 10 w 0 0)
  | .andL g w d a b => g.word 0x0C d.code a.code b.code 0 (aluFn 2 w 0 0)
  | .orL g w d a b => g.word 0x0C d.code a.code b.code 0 (aluFn 2 w 1 0)
  | .xorL g w d a b => g.word 0x0C d.code a.code b.code 0 (aluFn 2 w 2 0)
  | .andnL g w d a b => g.word 0x0C d.code a.code b.code 0 (aluFn 2 w 3 0)
  | .shl g w d a b => g.word 0x0D d.code a.code b.code 0 (aluFn 2 w 0 0)
  | .shr g w d a b => g.word 0x0D d.code a.code b.code 0 (aluFn 2 w 1 0)
  | .sar g w d a b => g.word 0x0D d.code a.code b.code 0 (aluFn 2 w 2 0)
  | .rotl g w d a b => g.word 0x0D d.code a.code b.code 0 (aluFn 2 w 3 0)
  | .rotr g w d a b => g.word 0x0D d.code a.code b.code 0 (aluFn 2 w 4 0)
  | .ineg g w sat d a => g.word 0x0E d.code a.code 0 0 (aluFn 6 w 0 (Bool.code sat))
  | .iabs g w sat d a => g.word 0x0E d.code a.code 0 0 (aluFn 6 w 1 (Bool.code sat))
  | .notL g w d a => g.word 0x0E d.code a.code 0 0 (aluFn 2 w 2 0)
  | .popc g w d a => g.word 0x0E d.code a.code 0 0 (aluFn 2 w 3 0)
  | .clz g w d a => g.word 0x0E d.code a.code 0 0 (aluFn 2 w 4 0)
  | .ctz g w d a => g.word 0x0E d.code a.code 0 0 (aluFn 2 w 5 0)
  | .brev g w d a => g.word 0x0E d.code a.code 0 0 (aluFn 2 w 6 0)
  | .bfe g sg w d a b c => g.word 0x0F d.code a.code b.code c.code (aluFn (signCode sg) w 0 0)
  | .bfi g w d a b c => g.word 0x0F d.code a.code b.code c.code (aluFn 2 w 1 0)
  | .prmt g d a b c => g.word 0x10 d.code a.code b.code c.code (aluFn 2 false 0 0)
  | .icmp g t w k p a b => g.word 0x11 p.val a.code b.code 0 (aluFn t.code w 0 k.code)
  | .isel g w d a b p => g.word 0x12 d.code a.code b.code p.val (aluFn 2 w 0 0)
  | .mov g w d a => g.word 0x13 d.code a.code 0 0 (aluFn 2 w 0 0)
  | .movi g w d imm => g.wordWide 0x14 d.code imm w
  | .lea g sg k d a b c => g.word 0x15 d.code a.code b.code c.code (aluFn (signCode sg) false 0 k.val)
  | .sext g t w d a => g.word 0x16 d.code a.code 0 0 (aluFn t.code w 0 0)
  | .zext g t w d a => g.word 0x16 d.code a.code 0 0 (aluFn t.code w 1 0)
  | .pand g d a b => g.word 0x17 d.val a.val b.val 0 (aluFn 0 false 0 0)
  | .por g d a b => g.word 0x17 d.val a.val b.val 0 (aluFn 0 false 1 0)
  | .pxor g d a b => g.word 0x17 d.val a.val b.val 0 (aluFn 0 false 2 0)
  | .pnot g d a => g.word 0x17 d.val a.val 0 0 (aluFn 0 false 3 0)
  | .pmov g d a => g.word 0x17 d.val a.val 0 0 (aluFn 0 false 4 0)
  | .pmovPack g d a => g.word 0x17 d.code a.val 0 0 (aluFn 0 false 4 1)
  | .pmovUnpack g d a => g.word 0x17 d.val a.code 0 0 (aluFn 0 false 4 2)
  | .iaddImm g t w sat d a imm => g.word20 0x18 d.code a.code imm (aluFn t.code w 0 (Bool.code sat))
  | .andImm g w d a imm => g.word20 0x19 d.code a.code imm (aluFn 2 w 0 0)
  | .orImm g w d a imm => g.word20 0x19 d.code a.code imm (aluFn 2 w 1 0)
  | .xorImm g w d a imm => g.word20 0x19 d.code a.code imm (aluFn 2 w 2 0)
  | .andnImm g w d a imm => g.word20 0x19 d.code a.code imm (aluFn 2 w 3 0)
  | .icmpImm g t w k p a imm => g.word20 0x1A p.val a.code imm (aluFn t.code w 0 k.code)
  | .fadd g t r d a b => g.word 0x20 d.val a.code b.code 0 (aluFn t.code false 0 r.code)
  | .fsub g t r d a b => g.word 0x21 d.val a.code b.code 0 (aluFn t.code false 0 r.code)
  | .fmul g t r d a b => g.word 0x22 d.val a.code b.code 0 (aluFn t.code false 0 r.code)
  | .ffma g t r d a b c => g.word 0x23 d.val a.code b.code c.code (aluFn t.code false 0 r.code)
  | .fmin g t nan d a b => g.word 0x24 d.val a.code b.code 0 (aluFn t.code false 0 (Bool.code nan))
  | .fmax g t nan d a b => g.word 0x25 d.val a.code b.code 0 (aluFn t.code false 0 (Bool.code nan))
  | .fdiv g h r d a b => g.word 0x26 d.val a.code b.code 0 (aluFn (doubleCode h) false 0 r.code)
  | .fsqrt g h r d a => g.word 0x27 d.val a.code 0 0 (aluFn (doubleCode h) false 0 r.code)
  | .frcp g h d a => g.word 0x28 d.val a.code 0 0 (aluFn (halfCode h) false 0 0)
  | .frsq g h d a => g.word 0x28 d.val a.code 0 0 (aluFn (halfCode h) false 1 0)
  | .fexp2 g h d a => g.word 0x28 d.val a.code 0 0 (aluFn (halfCode h) false 2 0)
  | .flog2 g h d a => g.word 0x28 d.val a.code 0 0 (aluFn (halfCode h) false 3 0)
  | .fsin g h d a => g.word 0x28 d.val a.code 0 0 (aluFn (halfCode h) false 4 0)
  | .fcos g h d a => g.word 0x28 d.val a.code 0 0 (aluFn (halfCode h) false 5 0)
  | .fcmp g t k p a b => g.word 0x29 p.val a.code b.code 0 (aluFn t.code false 0 k.code)
  | .fclass g t d a => g.word 0x2A d.val a.code 0 0 (aluFn t.code false 0 0)
  | .frint g t r x d a => g.word 0x2B d.val a.code 0 0 (aluFn t.code false 0 (r.code + Bool.code x * 4))
  | .fcvt g (.wide dt ft r hi) d a => g.word 0x2C d.val a.code 0 ft.code (aluFn dt.code false 0 (r.code + Bool.code hi * 4))
  | .fcvt g (.pack k e draw) d a => g.word 0x2C d.val a.code draw.code (k.val * 16 + 14) (aluFn 2 false 0 e.val)
  | .fcvt g (.unpack k e) d a => g.word 0x2C d.val a.code 0 (k.val * 16 + 2) (aluFn 14 false 0 e.val)
  | .icvt g (.toFloat dt sg w) r hi d a => g.word 0x2D d.val a.code 0 (Bool.code w * 16 + signCode sg) (aluFn dt.code false 0 (r.code + Bool.code hi * 4))
  | .icvt g (.toInt sg w ft) r hi d a => g.word 0x2D d.val a.code 0 (Bool.code w * 16 + ft.code) (aluFn (signCode sg) false 0 (r.code + Bool.code hi * 4))
  | .fscale g t r d a b => g.word 0x2E d.val a.code b.code 0 (aluFn t.code false 0 r.code)
  | .fgetexp g t d a => g.word 0x2F d.val a.code 0 0 (aluFn t.code false 0 0)
  | .fgetman g t d a => g.word 0x2F d.val a.code 0 0 (aluFn t.code false 1 0)
  | .fslice g k d a b c => g.word 0x30 d.val a.code b.code c.code (aluFn 15 false 0 k.val)
  | .dp2h g bf d a b c => g.word 0x31 d.val a.code b.code c.code (aluFn (12 + Bool.code bf) false 0 0)
  | .dp4 g x k d a b c => g.word 0x32 d.val a.code b.code c.code (aluFn (accCode x) false 0 k.val)
  | .dp8 g x k d a b c => g.word 0x33 d.val a.code b.code c.code (aluFn (accCode x) false 0 k.val)
  | .bra g off => g.word20 0x40 0 0 off (aluFn 0 false 0 0)
  | .brx g a off => g.word20 0x41 0 a.code off (aluFn 0 false 0 0)
  | .call g d off => g.word20 0x42 d.code 0 off (aluFn 0 false 0 0)
  | .ret g a => g.word 0x43 0 a.code 0 0 (aluFn 0 false 0 0)
  | .join g a => g.word 0x44 0 a.code 0 0 (aluFn 0 false 0 0)
  | .loop g a off => g.word20 0x45 0 a.code off (aluFn 0 false 0 0)
  | .lbrk g n => g.word 0x46 0 0 0 0 (aluFn 0 false 0 (n.val + 1))
  | .exit g => g.word 0x47 0 0 0 0 (aluFn 0 false 0 0)
  | .bar g sl n b => g.word 0x48 0 (960 + n.val) b.code 0 (aluFn 0 false 0 (Bool.code sl))
  | .cbar g => g.word 0x49 0 0 0 0 (aluFn 0 false 0 0)
  | .launch g d a => g.word 0x4A d.code a.code 0 0 (aluFn 0 false 0 0)
  | .waitChild g a => g.word 0x4B 0 a.code 0 0 (aluFn 0 false 0 0)
  | .elect g p => g.word 0x4C p.val 0 0 0 (aluFn 0 false 0 0)
  | .ldarg g t d off => g.word20 0x4D d.code 0 (BitVec.ofNat 20 off.val) (aluFn t.code false 0 0)
  | .mfs g d r => g.word 0x4E d.code r.code 0 0 (aluFn 0 false 0 0)
  | .mts g r a => g.word 0x4F r.code a.code 0 0 (aluFn 0 false 0 0)
  | .trap g k e => g.word20 0x50 0 0 (BitVec.ofNat 4 k.val ++ e) (aluFn 0 false 0 0)
  | .brk g e => g.word20 0x51 0 0 ((0 : BitVec 4) ++ e) (aluFn 0 false 0 0)
  | .nop g => g.word 0x52 0 0 0 0 (aluFn 0 false 0 0)
  | .yield g => g.word 0x53 0 0 0 0 (aluFn 0 false 0 0)
  | .rft g => g.word 0x7E 0 0 0 0 (aluFn 0 false 0 0)
  | .ctxsave g a b => g.word 0x7E 0 a.code b.code 0 (aluFn 0 false 1 0)
  | .ctxload g a b => g.word 0x7E 0 a.code b.code 0 (aluFn 0 false 2 0)
  | .accsw g => g.word 0x7E 0 0 0 0 (aluFn 0 false 3 0)
  | .hlt g => g.word 0x7E 0 0 0 0 (aluFn 0 false 4 0)
  | .bfly g w d a b e => g.word 0x58 d.val a.code b.code e.code (aluFn (wideCode w) false 0 0)
  | .shfl g w k d a b e => g.word 0x59 d.val a.code b.code e.code (aluFn (wideCode w) false 0 k.code)
  | .xbar g d a x e => g.word 0x5A d.val a.code x.val e.code (aluFn 2 false 0 0)
  | .stload g x a => g.word 0x5B x.val (768 + a.val) 0 0 (aluFn 0 false 0 0)
  | .vote g (.mask d) p => g.word 0x5C d.code p.val 0 0 (aluFn 0 false 0 0)
  | .vote g (.count d) p => g.word 0x5C d.code p.val 0 0 (aluFn 0 false 0 1)
  | .vote g (.quorum d k) p => g.word 0x5C d.val p.val k.code 0 (aluFn 0 false 0 2)
  | .vote g (.agree d) p => g.word 0x5C d.val p.val 0 0 (aluFn 0 false 0 3)
  | .redux g k d a => g.word 0x5D d.code a.code 0 0 (aluFn k.codes.1 false 0 k.codes.2)
  | .scan g k e d a => g.word 0x5E d.val a.code 0 0 (aluFn k.codes.1 false 0 (k.codes.2 + Bool.code e * 4))
  | .matchOp g w d a => g.word 0x5F d.val a.code 0 0 (aluFn (wideCode w) false 0 0)
  | .rand g k x d a b => g.word 0x60 d.val a.code b.code 0 (aluFn 0 false 0 (Bool.code k + Bool.code x * 2))
  | .randNext g k x d b => g.word 0x60 d.val 0 b.code 0 (aluFn 0 false 1 (Bool.code k + Bool.code x * 2))
  | .ld g z ap o q d m => g.word 0x64 d.code m.base.code m.index.code (offCode ap m.off) (memFn z.code ap.code o.code q.code)
  | .st g z ap o q d m => g.word 0x65 d.code m.base.code m.index.code (offCode ap m.off) (memFn z.code ap.code o.code q.code)
  | .ldx g z ap o d e x n => g.word 0x66 d.val e.code x.code (961 + n.val) (memFn z.code ap.code o.code 0)
  | .stx g z ap o d e x n => g.word 0x67 d.code e.code x.code (961 + n.val) (memFn z.code ap.code o.code 0)
  | .atom g k t ap o q d e b => g.wordAtomic 0x68 d.val e.code b.code k t ap o q
  | .red g k t ap o q e b => g.wordAtomic 0x69 0 e.code b.code k t ap o q
  | .fence g o q => g.word 0x6A 0 0 0 0 (memFn 0 0 o.code q.code)
  | .sealOp g t => g.word 0x6B 0 0 0 0 (memFn 0 0 0 (Bool.code t))
  | .prefetch g n m => g.word 0x6C 0 m.base.code m.index.code m.off.toNat (memFn (Bool.code n) 0 0 0)
  | .cinv g (some m) => g.word 0x6D 0 m.base.code m.index.code m.off.toNat (memFn 0 0 0 0)
  | .cinv g none => g.word 0x6D 0 0 0 0 (memFn 1 0 0 0)
  | .cwb g m => g.word 0x6E 0 m.base.code m.index.code m.off.toNat (memFn 0 0 0 0)
  | .own g k a b => g.word 0x6F 0 (768 + a.val) b.code 0 (memFn (Bool.code k) 0 0 0)
  | .cp g k x d a r b => g.word 0x70 d.val a.val (match b with
      | none => 0
      | some o => o.code)
      (match r with
      | none => x.code * 256
      | some n => x.code * 256 + 128 + n.val * 8) (aluFn 0 false 0 k.code)
  | .tdset g d a => g.word 0x71 d.val (768 + a.val) 0 0 (aluFn 0 false 0 0)
  | .tdmov g d a => g.word 0x72 d.val a.val 0 0 (aluFn 0 false 0 0)
  | .tdmovGet g d a => g.word 0x72 (768 + d.val) a.val 0 0 (aluFn 0 false 0 1)
  | .tdmovBase g d a => g.word 0x72 d.val (768 + a.val) 0 0 (aluFn 0 false 0 2)
  | .tdmovAdd g d a => g.word 0x72 d.val a.code 0 0 (aluFn 0 false 0 3)
  | .ringadv g r => g.word 0x73 r.val 0 0 0 (aluFn 0 false 0 0)
  | .ringadvCons g r => g.word 0x73 r.val 0 0 0 (aluFn 0 false 0 1)
  | .ringadvInit g r a => g.word 0x73 r.val a.code 0 0 (aluFn 0 false 0 2)
  | .ringwait g r ph => g.word 0x73 r.val 0 0 0 (aluFn 0 false 1 (Bool.code ph))
  | .sign g k a => g.word 0x74 k.val a.code 0 0 (aluFn 0 false 0 0)
  | .mma g x fa fb d a b k v => g.word 0x75 d.val a.val b.val (sctCode k.val fb.val v.val) (aluFn (accCode x) false 0 fa.val)
  | .mmaSp g x fa fb d a b k v => g.word 0x76 d.val a.val b.val (sctCode k.val fb.val v.val) (aluFn (accCode x) false 0 fa.val)
  | .mmaw g k d a b m v => g.word 0x77 d.val a.val b.val (m.val * 8 + v.val) (aluFn 0 false 0 k.val)
  | .acclr g d a => g.word 0x78 d.val a.code 0 0 (aluFn 0 false 0 0)
  | .accld g d t => g.word 0x78 d.val t.val 0 0 (aluFn 0 false 1 0)
  | .accst g t a => g.word 0x78 t.val a.val 0 0 (aluFn 0 false 2 0)
  | .accrd g d a h => g.word 0x78 d.val a.val (960 + Bool.code h) 0 (aluFn 0 false 3 0)
  | .acccvt g x k d a e h => g.word 0x78 d.val a.val e.val (960 + Bool.code h) (aluFn (doubleCode x) false 4 k.val)
  | .mwait g a => g.word 0x79 0 a.code 0 0 (aluFn 0 false 0 0)
  | .mmaDn g e k d a b t v => g.word 0x7A d.val a.val b.val (sctCode t.val (Bool.code e * 4) v.val) (aluFn 14 false 0 k.val)
  | .mmaDnb g e k d a b t v => g.word 0x7A d.val a.val b.val (sctCode t.val (Bool.code e * 4) v.val) (aluFn 14 false 1 k.val)
  | .dntap g x k d t h b => g.word 0x7B d.val t.val (960 + Bool.code h) (x.code * 16 + b.val) (aluFn 0 false 0 k.val)
  | .dnload g k => g.word 0x7B 0 0 0 0 (aluFn 0 false 1 k.val)
  | .tkissue g d a => g.word 0x7C (768 + d.val) a.code 0 0 (aluFn 0 false 0 0)
  | .tkredeem g d a b => g.word 0x7C (768 + d.val) (768 + a.val) (768 + b.val) 0 (aluFn 0 false 1 0)
  | .tkstateGet g d a => g.word 0x7C (768 + d.val) (768 + a.val) 0 0 (aluFn 0 false 2 0)
  | .tkstateVoid g d a => g.word 0x7C (768 + d.val) (768 + a.val) 0 0 (aluFn 0 false 2 1)
  | .tkstateFree g d a => g.word 0x7C (768 + d.val) (768 + a.val) 0 0 (aluFn 0 false 2 2)
  | .wvcommitOpen g d => g.word 0x7D (768 + d.val) 960 0 0 (aluFn 0 false 0 0)
  | .wvcommitCow g d a => g.word 0x7D (768 + d.val) a.code 0 0 (aluFn 0 false 0 1)
  | .wvcommitFin g d => g.word 0x7D (768 + d.val) 960 0 0 (aluFn 0 false 0 2)
  | .wvcommitDrop g d => g.word 0x7D (768 + d.val) 960 0 0 (aluFn 0 false 0 3)
  | _ => none

/-! ## The decoder -/

def Fields.guard (f : Fields) : Guard := ⟨f.sw, f.pn, ⟨f.pred.toNat, f.pred.isLt⟩⟩

/-- Bits [40:0], as the wide form divides them. -/
def Fields.low (f : Fields) : BitVec 41 := f.a ++ f.b ++ f.c ++ f.fn

/-- Bits [30:11]: IMM20 or OFF20. -/
def Fields.imm20 (f : Fields) : BitVec 20 := f.b ++ f.c

/-- fcvt by its descriptor (R173). -/
def Fields.fcvt (f : Fields) : Option Instr := do
  let ty := f.fn.toNat / 128
  let md := f.fn.toNat % 8
  let C := f.c.toNat
  let d ← index 768 f.d.toNat
  let a ← Opnd.ofCode f.a.toNat
  if 12 ≤ ty ∧ 12 ≤ C % 16 then
    some (.fcvt f.guard (.wide (← FTy.ofCode ty) (← FTy.ofCode (C % 16)) (← Rnd.ofCode (md % 4)) (← flag (md / 4))) d a)
  else if ty = 2 then
    some (.fcvt f.guard (.pack (← index 8 (C / 16 % 8)) (← index 8 md) (← Opnd.ofCode f.b.toNat)) d a)
  else
    some (.fcvt f.guard (.unpack (← index 8 (C / 16 % 8)) (← index 8 md)) d a)

/-- icvt by its descriptor (R173). -/
def Fields.icvt (f : Fields) : Option Instr := do
  let ty := f.fn.toNat / 128
  let md := f.fn.toNat % 8
  let C := f.c.toNat
  let d ← index 768 f.d.toNat
  let a ← Opnd.ofCode f.a.toNat
  let w ← flag (C / 16 % 2)
  let r ← Rnd.ofCode (md % 4)
  let hi ← flag (md / 4)
  if 12 ≤ ty then some (.icvt f.guard (.toFloat (← FTy.ofCode ty) (← signOf (C % 16)) w) r hi d a)
  else some (.icvt f.guard (.toInt (← signOf ty) w (← FTy.ofCode (C % 16))) r hi d a)

def Fields.shapeInteger (f : Fields) : Option Instr := do
  let g := f.guard
  let D := f.d.toNat
  let A := f.a.toNat
  let B := f.b.toNat
  let C := f.c.toNat
  let imm := f.imm20
  let fn := f.fn.toNat
  let ty := fn / 128
  let w := f.fn.getLsbD 6
  let op := fn / 8 % 8
  let md := fn % 8
  match f.major.toNat with
  | 0x01 => some (.iadd g (← IntTy.ofCode ty) w (← flag md) (← Dst.ofCode D) (← Opnd.ofCode A) (← Opnd.ofCode B))
  | 0x02 => some (.isub g (← IntTy.ofCode ty) w (← flag md) (← Dst.ofCode D) (← Opnd.ofCode A) (← Opnd.ofCode B))
  | 0x03 => some (.imul g (← IntTy.ofCode ty) w (← Dst.ofCode D) (← Opnd.ofCode A) (← Opnd.ofCode B))
  | 0x04 => some (.imulhi g (← signOf ty) w (← Dst.ofCode D) (← Opnd.ofCode A) (← Opnd.ofCode B))
  | 0x05 => some (.imad g (← IntTy.ofCode ty) w (← flag md) (← Dst.ofCode D) (← Opnd.ofCode A) (← Opnd.ofCode B) (← Opnd.ofCode C))
  | 0x06 => some (.idiv g (← signOf ty) w (← Dst.ofCode D) (← Opnd.ofCode A) (← Opnd.ofCode B))
  | 0x07 => some (.irem g (← signOf ty) w (← Dst.ofCode D) (← Opnd.ofCode A) (← Opnd.ofCode B))
  | 0x08 => some (.imin g (← signOf ty) w (← Dst.ofCode D) (← Opnd.ofCode A) (← Opnd.ofCode B))
  | 0x09 => some (.imax g (← signOf ty) w (← Dst.ofCode D) (← Opnd.ofCode A) (← Opnd.ofCode B))
  | 0x0A => some (.iaddc g w (← Dst.ofCode D) (← Opnd.ofCode A) (← Opnd.ofCode B) (← index 16 C))
  | 0x0B => some (.isubb g w (← Dst.ofCode D) (← Opnd.ofCode A) (← Opnd.ofCode B) (← index 16 C))
  | 0x0C =>
    match op with
    | 0 => some (.andL g w (← Dst.ofCode D) (← Opnd.ofCode A) (← Opnd.ofCode B))
    | 1 => some (.orL g w (← Dst.ofCode D) (← Opnd.ofCode A) (← Opnd.ofCode B))
    | 2 => some (.xorL g w (← Dst.ofCode D) (← Opnd.ofCode A) (← Opnd.ofCode B))
    | 3 => some (.andnL g w (← Dst.ofCode D) (← Opnd.ofCode A) (← Opnd.ofCode B))
    | _ => none
  | 0x0D =>
    match op with
    | 0 => some (.shl g w (← Dst.ofCode D) (← Opnd.ofCode A) (← Opnd.ofCode B))
    | 1 => some (.shr g w (← Dst.ofCode D) (← Opnd.ofCode A) (← Opnd.ofCode B))
    | 2 => some (.sar g w (← Dst.ofCode D) (← Opnd.ofCode A) (← Opnd.ofCode B))
    | 3 => some (.rotl g w (← Dst.ofCode D) (← Opnd.ofCode A) (← Opnd.ofCode B))
    | 4 => some (.rotr g w (← Dst.ofCode D) (← Opnd.ofCode A) (← Opnd.ofCode B))
    | _ => none
  | 0x0E =>
    match op with
    | 0 => some (.ineg g w (← flag md) (← Dst.ofCode D) (← Opnd.ofCode A))
    | 1 => some (.iabs g w (← flag md) (← Dst.ofCode D) (← Opnd.ofCode A))
    | 2 => some (.notL g w (← Dst.ofCode D) (← Opnd.ofCode A))
    | 3 => some (.popc g w (← Dst.ofCode D) (← Opnd.ofCode A))
    | 4 => some (.clz g w (← Dst.ofCode D) (← Opnd.ofCode A))
    | 5 => some (.ctz g w (← Dst.ofCode D) (← Opnd.ofCode A))
    | 6 => some (.brev g w (← Dst.ofCode D) (← Opnd.ofCode A))
    | _ => none
  | 0x0F =>
    match op with
    | 0 => some (.bfe g (← signOf ty) w (← Dst.ofCode D) (← Opnd.ofCode A) (← Opnd.ofCode B) (← Opnd.ofCode C))
    | 1 => some (.bfi g w (← Dst.ofCode D) (← Opnd.ofCode A) (← Opnd.ofCode B) (← Opnd.ofCode C))
    | _ => none
  | 0x10 => some (.prmt g (← Dst.ofCode D) (← Opnd.ofCode A) (← Opnd.ofCode B) (← Opnd.ofCode C))
  | 0x11 => some (.icmp g (← IntTy.ofCode ty) w (← ICond.ofCode md) (← index 16 D) (← Opnd.ofCode A) (← Opnd.ofCode B))
  | 0x12 => some (.isel g w (← Dst.ofCode D) (← Opnd.ofCode A) (← Opnd.ofCode B) (← index 16 C))
  | 0x13 => some (.mov g w (← Dst.ofCode D) (← Opnd.ofCode A))
  | 0x14 => some (.movi g (f.low.getLsbD 8) (← Dst.ofCode D) (f.low.extractLsb' 9 32))
  | 0x15 => some (.lea g (← signOf ty) (← index 8 md) (← Dst.ofCode D) (← Opnd.ofCode A) (← Opnd.ofCode B) (← Opnd.ofCode C))
  | 0x16 =>
    match op with
    | 0 => some (.sext g (← ExtTy.ofCode ty) w (← Dst.ofCode D) (← Opnd.ofCode A))
    | 1 => some (.zext g (← ExtTy.ofCode ty) w (← Dst.ofCode D) (← Opnd.ofCode A))
    | _ => none
  | 0x17 =>
    match op, md with
    | 0, _ => some (.pand g (← index 16 D) (← index 16 A) (← index 16 B))
    | 1, _ => some (.por g (← index 16 D) (← index 16 A) (← index 16 B))
    | 2, _ => some (.pxor g (← index 16 D) (← index 16 A) (← index 16 B))
    | 3, _ => some (.pnot g (← index 16 D) (← index 16 A))
    | 4, 0 => some (.pmov g (← index 16 D) (← index 16 A))
    | 4, 1 => some (.pmovPack g (← Dst.ofCode D) (← index 16 A))
    | 4, 2 => some (.pmovUnpack g (← index 16 D) (← Opnd.ofCode A))
    | _, _ => none
  | 0x18 => some (.iaddImm g (← IntTy.ofCode ty) w (← flag md) (← Dst.ofCode D) (← Opnd.ofCode A) imm)
  | 0x19 =>
    match op with
    | 0 => some (.andImm g w (← Dst.ofCode D) (← Opnd.ofCode A) imm)
    | 1 => some (.orImm g w (← Dst.ofCode D) (← Opnd.ofCode A) imm)
    | 2 => some (.xorImm g w (← Dst.ofCode D) (← Opnd.ofCode A) imm)
    | 3 => some (.andnImm g w (← Dst.ofCode D) (← Opnd.ofCode A) imm)
    | _ => none
  | 0x1A => some (.icmpImm g (← IntTy.ofCode ty) w (← ICond.ofCode md) (← index 16 D) (← Opnd.ofCode A) imm)
  | _ => none

def Fields.shapeFloat (f : Fields) : Option Instr := do
  let g := f.guard
  let D := f.d.toNat
  let A := f.a.toNat
  let B := f.b.toNat
  let C := f.c.toNat
  let fn := f.fn.toNat
  let ty := fn / 128
  let op := fn / 8 % 8
  let md := fn % 8
  match f.major.toNat with
  | 0x20 => some (.fadd g (← FTy.ofCode ty) (← Rnd.ofCode md) (← index 768 D) (← Opnd.ofCode A) (← Opnd.ofCode B))
  | 0x21 => some (.fsub g (← FTy.ofCode ty) (← Rnd.ofCode md) (← index 768 D) (← Opnd.ofCode A) (← Opnd.ofCode B))
  | 0x22 => some (.fmul g (← FTy.ofCode ty) (← Rnd.ofCode md) (← index 768 D) (← Opnd.ofCode A) (← Opnd.ofCode B))
  | 0x23 => some (.ffma g (← FTy.ofCode ty) (← Rnd.ofCode md) (← index 768 D) (← Opnd.ofCode A) (← Opnd.ofCode B) (← Opnd.ofCode C))
  | 0x24 => some (.fmin g (← FTy.ofCode ty) (← flag md) (← index 768 D) (← Opnd.ofCode A) (← Opnd.ofCode B))
  | 0x25 => some (.fmax g (← FTy.ofCode ty) (← flag md) (← index 768 D) (← Opnd.ofCode A) (← Opnd.ofCode B))
  | 0x26 => some (.fdiv g (← doubleOf ty) (← Rnd.ofCode md) (← index 768 D) (← Opnd.ofCode A) (← Opnd.ofCode B))
  | 0x27 => some (.fsqrt g (← doubleOf ty) (← Rnd.ofCode md) (← index 768 D) (← Opnd.ofCode A))
  | 0x28 =>
    match op with
    | 0 => some (.frcp g (← halfOf ty) (← index 768 D) (← Opnd.ofCode A))
    | 1 => some (.frsq g (← halfOf ty) (← index 768 D) (← Opnd.ofCode A))
    | 2 => some (.fexp2 g (← halfOf ty) (← index 768 D) (← Opnd.ofCode A))
    | 3 => some (.flog2 g (← halfOf ty) (← index 768 D) (← Opnd.ofCode A))
    | 4 => some (.fsin g (← halfOf ty) (← index 768 D) (← Opnd.ofCode A))
    | 5 => some (.fcos g (← halfOf ty) (← index 768 D) (← Opnd.ofCode A))
    | _ => none
  | 0x29 => some (.fcmp g (← FTy.ofCode ty) (← FCond.ofCode md) (← index 16 D) (← Opnd.ofCode A) (← Opnd.ofCode B))
  | 0x2A => some (.fclass g (← FTy.ofCode ty) (← index 768 D) (← Opnd.ofCode A))
  | 0x2B => some (.frint g (← FTy.ofCode ty) (← Rnd.ofCode (md % 4)) (← flag (md / 4)) (← index 768 D) (← Opnd.ofCode A))
  | 0x2C => f.fcvt
  | 0x2D => f.icvt
  | 0x2E => some (.fscale g (← FTy.ofCode ty) (← Rnd.ofCode md) (← index 768 D) (← Opnd.ofCode A) (← Opnd.ofCode B))
  | 0x2F =>
    match op with
    | 0 => some (.fgetexp g (← FTy.ofCode ty) (← index 768 D) (← Opnd.ofCode A))
    | 1 => some (.fgetman g (← FTy.ofCode ty) (← index 768 D) (← Opnd.ofCode A))
    | _ => none
  | 0x30 => some (.fslice g (← index 8 md) (← index 768 D) (← Opnd.ofCode A) (← Opnd.ofCode B) (← Opnd.ofCode C))
  | 0x31 => some (.dp2h g (← if 12 ≤ ty then flag (ty - 12) else none) (← index 768 D) (← Opnd.ofCode A) (← Opnd.ofCode B) (← Opnd.ofCode C))
  | 0x32 => some (.dp4 g (← accOf ty) (← index 8 md) (← index 768 D) (← Opnd.ofCode A) (← Opnd.ofCode B) (← Opnd.ofCode C))
  | 0x33 => some (.dp8 g (← accOf ty) (← index 8 md) (← index 768 D) (← Opnd.ofCode A) (← Opnd.ofCode B) (← Opnd.ofCode C))
  | _ => none

def Fields.shapeControl (f : Fields) : Option Instr := do
  let g := f.guard
  let D := f.d.toNat
  let A := f.a.toNat
  let B := f.b.toNat
  let imm := f.imm20
  let fn := f.fn.toNat
  let ty := fn / 128
  let md := fn % 8
  match f.major.toNat with
  | 0x40 => some (.bra g imm)
  | 0x41 => some (.brx g (← Opnd.ofCode A) imm)
  | 0x42 => some (.call g (← Dst.ofCode D) imm)
  | 0x43 => some (.ret g (← Dst.ofCode A))
  | 0x44 => some (.join g (← Opnd.ofCode A))
  | 0x45 => some (.loop g (← Opnd.ofCode A) imm)
  | 0x46 => some (.lbrk g (← if 1 ≤ md then index 4 (md - 1) else none))
  | 0x47 => some (.exit g)
  | 0x48 => some (.bar g (← flag md) (← constIndex 4 A) (← Opnd.ofCode B))
  | 0x49 => some (.cbar g)
  | 0x4A => some (.launch g (← Dst.ofCode D) (← Dst.ofCode A))
  | 0x4B => some (.waitChild g (← Opnd.ofCode A))
  | 0x4C => some (.elect g (← index 16 D))
  | 0x4D => some (.ldarg g (← ArgTy.ofCode ty) (← Dst.ofCode D) (← index 128 imm.toNat))
  | 0x4E => some (.mfs g (← Dst.ofCode D) (← SpecReg.ofCode A))
  | 0x4F => some (.mts g (← SpecReg.ofCode D) (← Opnd.ofCode A))
  | 0x50 => some (.trap g (← index 14 (imm.extractLsb' 16 4).toNat) (imm.extractLsb' 0 16))
  | 0x51 => some (.brk g (imm.extractLsb' 0 16))
  | 0x52 => some (.nop g)
  | 0x53 => some (.yield g)
  | _ => none

def Fields.shapeLanes (f : Fields) : Option Instr := do
  let g := f.guard
  let D := f.d.toNat
  let A := f.a.toNat
  let B := f.b.toNat
  let C := f.c.toNat
  let fn := f.fn.toNat
  let ty := fn / 128
  let op := fn / 8 % 8
  let md := fn % 8
  match f.major.toNat with
  | 0x58 => some (.bfly g (← wideOf ty) (← index 768 D) (← Opnd.ofCode A) (← Opnd.ofCode B) (← Opnd.ofCode C))
  | 0x59 => some (.shfl g (← wideOf ty) (← ShflMode.ofCode md) (← index 768 D) (← Opnd.ofCode A) (← Opnd.ofCode B) (← Opnd.ofCode C))
  | 0x5A => some (.xbar g (← index 768 D) (← Opnd.ofCode A) (← index 8 B) (← Opnd.ofCode C))
  | 0x5B => some (.stload g (← index 8 D) (← uniformCode A))
  | 0x5C =>
    match op, md with
    | 0, 0 => some (.vote g (.mask (← Dst.ofCode D)) (← index 16 A))
    | 0, 1 => some (.vote g (.count (← Dst.ofCode D)) (← index 16 A))
    | 0, 2 => some (.vote g (.quorum (← index 16 D) (← Opnd.ofCode B)) (← index 16 A))
    | 0, 3 => some (.vote g (.agree (← index 16 D)) (← index 16 A))
    | _, _ => none
  | 0x5D => some (.redux g (← ReduxOp.ofCodes ty md) (← Dst.ofCode D) (← Opnd.ofCode A))
  | 0x5E => some (.scan g (← ScanOp.ofCodes ty (md % 4)) (← flag (md / 4)) (← index 768 D) (← Opnd.ofCode A))
  | 0x5F => some (.matchOp g (← wideOf ty) (← index 768 D) (← Opnd.ofCode A))
  | 0x60 =>
    match op with
    | 0 => some (.rand g (← flag (md % 2)) (← flag (md / 2)) (← index 768 D) (← Opnd.ofCode A) (← Opnd.ofCode B))
    | 1 => some (.randNext g (← flag (md % 2)) (← flag (md / 2)) (← index 768 D) (← Opnd.ofCode B))
    | _ => none
  | _ => none

def Fields.shapeMemory (f : Fields) : Option Instr := do
  let g := f.guard
  let D := f.d.toNat
  let A := f.a.toNat
  let B := f.b.toNat
  let C := f.c.toNat
  let fn := f.fn.toNat
  let ty := fn / 128
  match f.major.toNat with
  | 0x64 => do
    let ap ← Aper.ofCode (fn / 64 % 4) (C / 256)
    some (.ld g (← MSize.ofCode (fn / 256)) ap (← Order.ofCode (fn / 8 % 8)) (← Scope.ofCode (fn % 8)) (← Dst.ofCode D) ⟨(← Opnd.ofCode A), (← Opnd.ofCode B), offOf ap f.c⟩)
  | 0x65 => do
    let ap ← Aper.ofCode (fn / 64 % 4) (C / 256)
    some (.st g (← MSize.ofCode (fn / 256)) ap (← Order.ofCode (fn / 8 % 8)) (← Scope.ofCode (fn % 8)) (← Opnd.ofCode D) ⟨(← Opnd.ofCode A), (← Opnd.ofCode B), offOf ap f.c⟩)
  | 0x66 => do
    let ap ← Aper.ofCode (fn / 64 % 4) 0
    some (.ldx g (← MSize.ofCode (fn / 256)) ap (← Order.ofCode (fn / 8 % 8)) (← index 768 D) (← Opnd.ofCode A) (← Dst.ofCode B) (← if 961 ≤ C then index 16 (C - 961) else none))
  | 0x67 => do
    let ap ← Aper.ofCode (fn / 64 % 4) 0
    some (.stx g (← MSize.ofCode (fn / 256)) ap (← Order.ofCode (fn / 8 % 8)) (← Dst.ofCode D) (← Opnd.ofCode A) (← Dst.ofCode B) (← if 961 ≤ C then index 16 (C - 961) else none))
  | 0x68 => some (.atom g (← AOp.ofCode (fn / 8 % 16)) (← ATy.ofCode ty) (← Aper.ofCode (C / 4 % 4) (C % 4)) (← Order.ofCode (C / 128)) (← Scope.ofCode (C / 16 % 8)) (← index 768 D) (← Opnd.ofCode A) (← Opnd.ofCode B))
  | 0x69 => some (.red g (← AOp.ofCode (fn / 8 % 16)) (← ATy.ofCode ty) (← Aper.ofCode (C / 4 % 4) (C % 4)) (← Order.ofCode (C / 128)) (← Scope.ofCode (C / 16 % 8)) (← Opnd.ofCode A) (← Opnd.ofCode B))
  | 0x6A => some (.fence g (← Order.ofCode (fn / 8 % 8)) (← Scope.ofCode (fn % 8)))
  | 0x6B => some (.sealOp g (← flag (fn % 8)))
  | 0x6C => some (.prefetch g (← flag (fn / 256)) ⟨(← Opnd.ofCode A), (← Opnd.ofCode B), f.c⟩)
  | 0x6D =>
    match fn / 256 with
    | 0 => some (.cinv g (some ⟨(← Opnd.ofCode A), (← Opnd.ofCode B), f.c⟩))
    | 1 => some (.cinv g none)
    | _ => none
  | 0x6E => some (.cwb g ⟨(← Opnd.ofCode A), (← Opnd.ofCode B), f.c⟩)
  | 0x6F => some (.own g (← flag (fn / 256)) (← uniformCode A) (← Opnd.ofCode B))
  | _ => none

def Fields.shapeEngines (f : Fields) : Option Instr := do
  let g := f.guard
  let D := f.d.toNat
  let A := f.a.toNat
  let B := f.b.toNat
  let C := f.c.toNat
  let fn := f.fn.toNat
  let ty := fn / 128
  let op := fn / 8 % 8
  let md := fn % 8
  match f.major.toNat with
  | 0x70 => some (.cp g (← CpDir.ofCode md) (← CpXform.ofCode (C / 256)) (← index 16 D) (← index 16 A)
        (if C / 128 % 2 = 1 then some (Fin.ofNat 16 (C / 8 % 16)) else none) (← scaleField B))
  | 0x71 => some (.tdset g (← index 16 D) (← uniformCode A))
  | 0x72 =>
    match op, md with
    | 0, 0 => some (.tdmov g (← index 16 D) (← index 16 A))
    | 0, 1 => some (.tdmovGet g (← uniformCode D) (← index 16 A))
    | 0, 2 => some (.tdmovBase g (← index 16 D) (← uniformCode A))
    | 0, 3 => some (.tdmovAdd g (← index 16 D) (← Opnd.ofCode A))
    | _, _ => none
  | 0x73 =>
    match op, md with
    | 0, 0 => some (.ringadv g (← index 16 D))
    | 0, 1 => some (.ringadvCons g (← index 16 D))
    | 0, 2 => some (.ringadvInit g (← index 16 D) (← Opnd.ofCode A))
    | 1, _ => some (.ringwait g (← index 16 D) (← flag md))
    | _, _ => none
  | 0x74 => some (.sign g (← index 8 D) (← Opnd.ofCode A))
  | 0x75 => some (.mma g (← accOf ty) (← index 8 md) (← index 8 (C / 8 % 8)) (← index 256 D) (← index 768 A) (← index 768 B) (← index 16 (C / 64)) (← index 8 (C % 8)))
  | 0x76 => some (.mmaSp g (← accOf ty) (← index 8 md) (← index 8 (C / 8 % 8)) (← index 256 D) (← index 768 A) (← index 768 B) (← index 16 (C / 64)) (← index 8 (C % 8)))
  | 0x77 => some (.mmaw g (← index 8 md) (← index 256 D) (← index 768 A) (← index 768 B) (← index 16 (C / 8)) (← index 8 (C % 8)))
  | 0x78 =>
    match op with
    | 0 => some (.acclr g (← index 256 D) (← Opnd.ofCode A))
    | 1 => some (.accld g (← index 256 D) (← index 16 A))
    | 2 => some (.accst g (← index 16 D) (← index 256 A))
    | 3 => some (.accrd g (← index 768 D) (← index 256 A) (← if 960 ≤ B then flag (B - 960) else none))
    | 4 => some (.acccvt g (← doubleOf ty) (← index 8 md) (← index 768 D) (← index 256 A) (← index 768 B) (← if 960 ≤ C then flag (C - 960) else none))
    | _ => none
  | 0x79 => some (.mwait g (← Opnd.ofCode A))
  | 0x7A =>
    match op with
    | 0 => some (.mmaDn g (← flag (C / 32 % 2)) (← index 8 md) (← index 256 D) (← index 768 A) (← index 768 B) (← index 16 (C / 64)) (← index 8 (C % 8)))
    | 1 => some (.mmaDnb g (← flag (C / 32 % 2)) (← index 8 md) (← index 256 D) (← index 768 A) (← index 256 B) (← index 16 (C / 64)) (← index 8 (C % 8)))
    | _ => none
  | 0x7B =>
    match op with
    | 0 => some (.dntap g (← TapMode.ofCode (C / 16)) (← index 8 md) (← index 768 D) (← index 256 A) (← if 960 ≤ B then flag (B - 960) else none) (← index 16 (C % 16)))
    | 1 => some (.dnload g (← index 8 md))
    | _ => none
  | 0x7C =>
    match op, md with
    | 0, 0 => some (.tkissue g (← uniformCode D) (← Opnd.ofCode A))
    | 1, 0 => some (.tkredeem g (← uniformCode D) (← uniformCode A) (← uniformCode B))
    | 2, 0 => some (.tkstateGet g (← uniformCode D) (← uniformCode A))
    | 2, 1 => some (.tkstateVoid g (← uniformCode D) (← uniformCode A))
    | 2, 2 => some (.tkstateFree g (← uniformCode D) (← uniformCode A))
    | _, _ => none
  | 0x7D =>
    match op, md with
    | 0, 0 => some (.wvcommitOpen g (← uniformCode D))
    | 0, 1 => some (.wvcommitCow g (← uniformCode D) (← Opnd.ofCode A))
    | 0, 2 => some (.wvcommitFin g (← uniformCode D))
    | 0, 3 => some (.wvcommitDrop g (← uniformCode D))
    | _, _ => none
  | 0x7E =>
    match op with
    | 0 => some (.rft g)
    | 1 => some (.ctxsave g (← Dst.ofCode A) (← Opnd.ofCode B))
    | 2 => some (.ctxload g (← Dst.ofCode A) (← Opnd.ofCode B))
    | 3 => some (.accsw g)
    | 4 => some (.hlt g)
    | _ => none
  | _ => none

/-- R59: the assigned majors. -/
def assigned (m : Nat) : Bool :=
  (0x01 ≤ m && m ≤ 0x1A) || (0x20 ≤ m && m ≤ 0x33) || (0x40 ≤ m && m ≤ 0x53) || (0x58 ≤ m && m ≤ 0x60) ||
  (0x64 ≤ m && m ≤ 0x7E)

/-- The instruction whose codes stand in the fields, with no check yet of unused fields and operand classes. -/
def Fields.shape (f : Fields) : Option Instr :=
  let m := f.major.toNat
  if m < 0x20 then f.shapeInteger
  else if m < 0x40 then f.shapeFloat
  else if m < 0x58 then f.shapeControl
  else if m < 0x64 then f.shapeLanes
  else if m < 0x70 then f.shapeMemory
  else f.shapeEngines

/-- The fields without the rank of an atomic whose aperture has none: no rule gives those bits a meaning or asks that
they are zero (R54, R259; log 44). -/
def Fields.meant (f : Fields) : Fields :=
  if (f.major.toNat = 0x68 ∨ f.major.toNat = 0x69) ∧ f.c.toNat / 4 % 4 ≠ 2 then
    { f with c := f.c.extractLsb' 2 8 ++ (0 : BitVec 2) }
  else f

/-- The decoder (R52 to R59, R66): a word is legal exactly when it is the encoding of a well-formed instruction, but for
bits without a meaning, so that every unused field and reserved bit is zero. -/
def decodeFields (f : Fields) : Except DecodeError Instr :=
  if assigned f.major.toNat then
    match f.shape with
    | none => .error .badField
    | some i =>
      if i.encode = some f.meant then
        if i.wf then .ok i else .error .illFormed
      else .error .reservedBits
  else .error .unassignedMajor

def decode (w : Word64) : Except DecodeError Instr := decodeFields (Fields.unpack w)

/-- A word without the bits that have no meaning. -/
def meantWord (w : Word64) : Word64 := (Fields.unpack w).meant.pack

/-- The word of an instruction. -/
def encode (i : Instr) : Option Word64 := i.encode.map Fields.pack

/-- Little-endian bytes of a word (R4), lowest address first. -/
def Word64.bytes (w : Word64) : List Byte :=
  [w.extractLsb' 0 8, w.extractLsb' 8 8, w.extractLsb' 16 8, w.extractLsb' 24 8,
   w.extractLsb' 32 8, w.extractLsb' 40 8, w.extractLsb' 48 8, w.extractLsb' 56 8]

/-- A number from little-endian bytes (R4). -/
def natOfBytes : List Byte → Nat
  | [] => 0
  | b :: bs => b.toNat + 256 * natOfBytes bs

/-- The instruction at the head of a list of bytes, with the rest of the list. -/
def decodeBytes (bs : List Byte) : Except DecodeError (Instr × List Byte) :=
  if bs.length < 8 then .error .badField
  else (decode (BitVec.ofNat 64 (natOfBytes (bs.take 8)))).map fun i => (i, bs.drop 8)

/-- The instruction that the decoder reads from the bits `w`, bit 0 the least significant of the first word. -/
def decodeTableWord (_nbits w : Nat) : Option Instr :=
  match decodeBytes (Word64.bytes (BitVec.ofNat 64 w)) with
  | .ok r => some r.1
  | .error _ => none

end Sys2Proof
end

