-- ==== Sys2Proof/Machine/Sparse.lean ====
section
/-! DEFINITION. Reading and writing sparse storage, lists by number, and the lanes of a mask. -/

namespace Sys2Proof.Machine

/-- The cell of number `k`; a cell not listed reads zero. -/
def Sparse.get {w : Nat} (m : Sparse w) (k : Nat) : BitVec w :=
  match m with
  | [] => 0
  | (j, v) :: r => if j = k then v else Sparse.get r k

/-- Put `(k, v)` before the first larger key. -/
def Sparse.insert {w : Nat} (m : Sparse w) (k : Nat) (v : BitVec w) : Sparse w :=
  match m with
  | [] => [(k, v)]
  | (j, u) :: r => if k < j then (k, v) :: (j, u) :: r else (j, u) :: Sparse.insert r k v

/-- Drop the cell of number `k`. -/
def Sparse.erase {w : Nat} (m : Sparse w) (k : Nat) : Sparse w := m.filter fun c => c.1 != k

/-- Write the cell of number `k`; zero is held by no entry. -/
def Sparse.set {w : Nat} (m : Sparse w) (k : Nat) (v : BitVec w) : Sparse w :=
  if v = 0 then Sparse.erase m k else Sparse.insert (Sparse.erase m k) k v

/-- The canonical form: keys strictly rising from `lo`, no zero listed. -/
def Sparse.wfFrom {w : Nat} (lo : Nat) (m : Sparse w) : Bool :=
  match m with
  | [] => true
  | (j, v) :: r => decide (lo ≤ j) && v != 0 && Sparse.wfFrom (j + 1) r

def Sparse.wf {w : Nat} (m : Sparse w) : Bool := Sparse.wfFrom 0 m

/-- Write consecutive cells from `k`. -/
def Sparse.setList {w : Nat} (m : Sparse w) (k : Nat) (vs : List (BitVec w)) : Sparse w :=
  match vs with
  | [] => m
  | v :: r => Sparse.setList (Sparse.set m k v) (k + 1) r

/-- Read `n` consecutive cells from `k`. -/
def Sparse.getList {w : Nat} (m : Sparse w) (k n : Nat) : List (BitVec w) :=
  match n with
  | 0 => []
  | n + 1 => Sparse.get m k :: Sparse.getList m (k + 1) n

/-- The item of number `i`, the default beyond the end. -/
def nth {α : Type} [Inhabited α] (l : List α) (i : Nat) : α :=
  match l, i with
  | [], _ => default
  | a :: _, 0 => a
  | _ :: r, i + 1 => nth r i

/-- Replace the item of number `i`; nothing changes beyond the end. -/
def upd {α : Type} (l : List α) (i : Nat) (f : α → α) : List α :=
  match l, i with
  | [], _ => []
  | a :: r, 0 => f a :: r
  | a :: r, i + 1 => a :: upd r i f

/-- Replace the items whose numbers, counted from `i`, are lanes of `m`. -/
def updLanes {α : Type} (l : List α) (i : Nat) (m : Mask) (f : Nat → α → α) : List α :=
  match l with
  | [] => []
  | a :: r => (if m.getLsbD i then f i a else a) :: updLanes r (i + 1) m f

/-- The lanes of a mask in ascending order. -/
def lanesOf (m : Mask) : List Nat := (List.range 16).filter fun l => m.getLsbD l

/-- The mask of the lanes below 16 that satisfy `p`. -/
def maskOf (p : Nat → Bool) : Mask :=
  (List.range 16).foldl (fun m l => if p l then m ||| ((1 : Mask) <<< l) else m) 0

/-- The lowest lane of a mask; 0 of an empty one. -/
def lowestLane (m : Mask) : Nat := (lanesOf m).headD 0

/-- One lane as a mask. -/
def laneBit (l : Nat) : Mask := (1 : Mask) <<< l

/-- Little-endian bytes of a number (R4). -/
def bytesOf (n v : Nat) : List Byte :=
  match n with
  | 0 => []
  | n + 1 => BitVec.ofNat 8 v :: bytesOf n (v / 256)

/-- A number from little-endian bytes (R4). -/
def ofBytes : List Byte → Nat
  | [] => 0
  | b :: bs => b.toNat + 256 * ofBytes bs

/-- Two's-complement reading of the low `n` bits. -/
def signed (n v : Nat) : Int :=
  let u := v % 2 ^ n
  if u < 2 ^ (n - 1) then (u : Int) else (u : Int) - 2 ^ n

/-- An integer modulo `2^n`. -/
def wrap (n : Nat) (x : Int) : Nat := (x % (2 ^ n : Int)).toNat

end Sys2Proof.Machine
end

