-- ==== Sys2Proof/Machine/State.lean ====
section
/-! DEFINITION. The state of the whole device as plain data, its faults and refusals, and the state after a device
reset (R5). -/

namespace Sys2Proof.Machine

/-- Where the model stops because the spec leaves nothing to go on with. -/
inductive Fault where
  /-- Raised by the meaning of an instruction in a state in which no crew issues it. `step` never gives it: it
  calls an instruction's meaning only for the crew that issues the instruction. Safe. -/
  | noIssuer
  deriving DecidableEq, Repr

inductive Refusal where
  /-- The instruction has no meaning in this model. No arm gives it. -/
  | notModelled (mnemonic : String)
  deriving DecidableEq, Repr

/-- The instruction that is issuing: its crew, the header of its clause, its address and word, and whether it
stalls at issue (R48). -/
structure Cur where
  team : Nat
  crew : Nat
  header : Word64
  pc : Word64
  word : Word64
  stalled : Bool
  deriving DecidableEq, Repr, Inhabited

/-- The device. -/
structure State where
  /-- Device-physical memory; a byte not listed reads 0 (log 1). -/
  mem : Sparse 8
  /-- Stamps of the writes that memory holds, where not zero (R439, R441). -/
  stamps : List Stamp
  /-- Lines of each die's last-level cache, the most recently used first (R252 to R254). -/
  llc : List (List CacheLine)
  cores : List CoreState
  dies : List DieState
  fes : List FrontEnd
  grids : List Grid
  teams : List Team
  copies : List Copy
  mops : List MatrixOp
  log : List LogEntry
  cross : List CrossOp
  tasks : List TaskOp
  subs : List Submission
  bins : List Binary
  links : List Link
  /-- DEVSTAT (R462). -/
  ready : Bool
  boot : BitVec 3
  therm : BitVec 4
  cxlBase : List Word64
  cxlLimit : List Word64
  peers : List Word64
  /-- BAR2 and BAR4 bases of the two physical functions (R460). -/
  bars : List Word64
  /-- BAR0 bases of the two physical functions, then of the sixteen virtual ones (R460). -/
  bar0 : List Word64
  /-- Page requests that the host allocates to each physical function (R459). -/
  prAlloc : List Nat
  /-- Data of the last completion given to the host: a read of HBM, of a register or an attestation report (R461, R469, R472). -/
  reply : List Byte
  /-- That completion, or that of a write, was Unsupported Request (R460). -/
  unsupported : Bool
  /-- Messages to peers that wait for a trained link of their route (R450), as (die, peer, message). -/
  outbox : List (Nat × Nat × FabricMsg)
  /-- Bytes of evicted blocks of which no translation is at hand, as (front end, first address, bytes), each within one page of
  4 KiB (R415). -/
  lost : List (Nat × Nat × Nat)
  /-- Device sequencer of R443. -/
  sequencer : Word64
  /-- For each .sc fence that has its place in the order of its instance, the accesses that it stands after (R287). -/
  scOwed : List ((Nat × Nat) × List Nat)
  /-- Steps that come next, first first: outside events and chosen internal ones (log 3). -/
  agenda : List Instr
  /-- Crews that may still issue in the core cycle under way, in the order of R78, as (team, crew). -/
  slots : List (Nat × Nat)
  /-- Issues left in that cycle (R78). -/
  budget : Nat
  cur : Option Cur
  /-- Free values taken so far (logs 3, 8, 9). -/
  freeCtr : Nat
  /-- Next number of an operation, and of a lane's access. -/
  nextId : Nat
  nextAcc : Nat
  /-- Core cycles so far, which order crews by their last issue (R78). -/
  issues : Nat
  deriving DecidableEq, Repr, Inhabited

/-! ## Parts after a device reset -/

def CoreState.reset : CoreState where
  cyc := 0
  images := []
  partition := none
  blocks := []
  failed := false
  halted := false
  bank := 0
  tlb := []
  rcache := []
  cpQueue := []
  cpGrant := none
  holder := none
  count := 0
  draining := false
  loading := none
  charges := []

def FaultEntry.reset : FaultEntry :=
  ⟨false, 0, 0, 0, 0, 0, 0, false, false, 0, false⟩

def DieState.reset : DieState where
  fbuf := List.replicate 8 FaultEntry.reset
  drop := false
  replaying := false
  replayAgain := false
  replayAccs := []
  replayWaits := []
  invals := []
  fills := []
  tlb := []
  requests := []
  asking := []
  waiting := []
  refused := []
  prefetches := []
  exports := 0
  performed := 0
  vector := [0, 0, 0, 0]
  sequencer := 0
  clusterSeq := List.replicate 16 0
  routes := List.replicate 64 0
  dieFail := 0
  written := [none, none]
  accepted := none
  minSvn := 0
  inReset := false
  up := false
  thermal := false
  thermalHold := false

def FrontEnd.reset : FrontEnd where
  ringBase := 0
  ringEn := false
  ringSize := 0
  ringWr := 0
  ringRd := 0
  recBase := 0
  recSize := 0
  sized := false
  recWr := 0
  recRd := 0
  part := 0
  quantum := 0
  saveBase := 0
  saveSize := 0
  stopped := false
  halted := false
  shrinking := false
  removed := []
  cut := false
  recRefused := false
  tsoBase := List.replicate 8 0
  tsoLast := List.replicate 8 0
  migPeer := 0
  migFe := 0
  migState := .idle
  migLand := 0
  migCount := 0
  hbmBase := 0
  hbmLimit := 0
  pending := []
  binaries := []
  landing := []
  resuming := false
  stubs := []
  cleared := []
  freed := []
  early := []
  sentOn := []
  sentRecords := []
  tables := []

def LinkDir.reset : LinkDir := ⟨[], 0, []⟩

def Link.reset : Link := ⟨false, LinkDir.reset, LinkDir.reset, [], []⟩

/-- The device after a reset (R5): every register at its reset value, no grid, no team, memory with nothing
listed. -/
def State.reset : State where
  mem := []
  stamps := []
  llc := [[], [], [], []]
  cores := List.replicate 256 CoreState.reset
  dies := List.replicate 4 DieState.reset
  fes := List.replicate 16 FrontEnd.reset
  grids := []
  teams := []
  copies := []
  mops := []
  log := []
  cross := []
  tasks := []
  subs := []
  bins := []
  links := List.replicate 12 Link.reset
  ready := false
  boot := 0
  therm := 0
  cxlBase := List.replicate 8 0
  cxlLimit := List.replicate 8 0
  peers := List.replicate 64 0
  bars := [0, 0, 0, 0]
  bar0 := List.replicate 18 0
  prAlloc := [16, 16]
  reply := []
  unsupported := false
  outbox := []
  lost := []
  sequencer := 0
  scOwed := []
  agenda := []
  slots := []
  budget := 0
  cur := none
  freeCtr := 0
  nextId := 1
  nextAcc := 0
  issues := 0

end Sys2Proof.Machine
end

