-- ==== Sys2Proof/Machine/Access.lean ====
section
/-! DEFINITION. Reading and updating the parts of the state by their numbers, and the registers of a crew (R93 to
R95). -/

namespace Sys2Proof.Machine

def State.team (s : State) (t : Nat) : Team := nth s.teams t
def State.crew (s : State) (t c : Nat) : Crew := nth (s.team t).crews c
def State.grid (s : State) (g : Nat) : Grid := nth s.grids g
def State.core (s : State) (c : Nat) : CoreState := nth s.cores c
def State.die (s : State) (d : Nat) : DieState := nth s.dies d
def State.fe (s : State) (f : Nat) : FrontEnd := nth s.fes f
def State.link (s : State) (l : Nat) : Link := nth s.links l

def State.modTeam (s : State) (t : Nat) (f : Team → Team) : State := { s with teams := upd s.teams t f }

def Team.modCrew (tm : Team) (c : Nat) (f : Crew → Crew) : Team := { tm with crews := upd tm.crews c f }

def State.modCrew (s : State) (t c : Nat) (f : Crew → Crew) : State := s.modTeam t fun tm => tm.modCrew c f

def State.modGrid (s : State) (g : Nat) (f : Grid → Grid) : State := { s with grids := upd s.grids g f }
def State.modCore (s : State) (c : Nat) (f : CoreState → CoreState) : State := { s with cores := upd s.cores c f }
def State.modDie (s : State) (d : Nat) (f : DieState → DieState) : State := { s with dies := upd s.dies d f }
def State.modFe (s : State) (n : Nat) (f : FrontEnd → FrontEnd) : State := { s with fes := upd s.fes n f }
def State.modLink (s : State) (l : Nat) (f : Link → Link) : State := { s with links := upd s.links l f }

/-- The grid of a team. -/
def State.gridOf (s : State) (t : Nat) : Grid := s.grid (s.team t).grid

/-! ## Registers of a crew -/

def Crew.v (cr : Crew) (n l : Nat) : Word32 := Sparse.get cr.vregs (16 * n + l)

def Crew.s (cr : Crew) (n : Nat) : Word32 := Sparse.get cr.sregs n

/-- R95: p15 reads 1 in every lane. -/
def Crew.p (cr : Crew) (n : Nat) : Mask := if n = 15 then BitVec.allOnes 16 else Sparse.get cr.preds n

/-- The pair whose even register is `n` (R34). -/
def Crew.v64 (cr : Crew) (n l : Nat) : Word64 := cr.v (n + 1) l ++ cr.v n l

def Crew.s64 (cr : Crew) (n : Nat) : Word64 := cr.s (n + 1) ++ cr.s n

def Crew.setV (cr : Crew) (n l : Nat) (x : Word32) : Crew := { cr with vregs := Sparse.set cr.vregs (16 * n + l) x }

def Crew.setS (cr : Crew) (n : Nat) (x : Word32) : Crew := { cr with sregs := Sparse.set cr.sregs n x }

/-- Write a predicate in the lanes of `m`; p15 discards the write (R95). -/
def Crew.setP (cr : Crew) (n : Nat) (m val : Mask) : Crew :=
  if n = 15 then cr
  else { cr with preds := Sparse.set cr.preds n ((Sparse.get cr.preds n &&& ~~~m) ||| (val &&& m)) }

def Crew.setV64 (cr : Crew) (n l : Nat) (x : Word64) : Crew :=
  (cr.setV n l (x.extractLsb' 0 32)).setV (n + 1) l (x.extractLsb' 32 32)

def Crew.setS64 (cr : Crew) (n : Nat) (x : Word64) : Crew :=
  (cr.setS n (x.extractLsb' 0 32)).setS (n + 1) (x.extractLsb' 32 32)

/-- Write lane `l` of a destination register or, when `w`, of a pair. -/
def Crew.setD (cr : Crew) (d : Dst) (w : Bool) (l : Nat) (x : Nat) : Crew :=
  match d with
  | .v n => if w then cr.setV64 n.val l (BitVec.ofNat 64 x) else cr.setV n.val l (BitVec.ofNat 32 x)
  | .s n => if w then cr.setS64 n.val (BitVec.ofNat 64 x) else cr.setS n.val (BitVec.ofNat 32 x)

/-- Write a destination in the lanes of `m`, or a uniform one once with the value of the lowest lane (R137). -/
def Crew.write (cr : Crew) (d : Dst) (w : Bool) (m : Mask) (f : Nat → Nat) : Crew :=
  match d with
  | .v _ => (lanesOf m).foldl (fun cr l => cr.setD d w l (f l)) cr
  | .s _ => if m = 0 then cr else cr.setD d w 0 (f (lowestLane m))

def Crew.th (cr : Crew) (l : Nat) : Thread := nth cr.threads l

def Crew.modTh (cr : Crew) (l : Nat) (f : Thread → Thread) : Crew := { cr with threads := upd cr.threads l f }

def Crew.modLanes (cr : Crew) (m : Mask) (f : Nat → Thread → Thread) : Crew :=
  { cr with threads := updLanes cr.threads 0 m f }

/-- Lanes that have exited. -/
def Crew.exited (cr : Crew) : Mask := maskOf fun l => (cr.th l).state == .exited

/-- Lanes in a state. -/
def Crew.inState (cr : Crew) (p : Thread → Bool) : Mask := maskOf fun l => l < cr.threads.length && p (cr.th l)

/-- Whether some thread has not exited (R192). -/
def Crew.live (cr : Crew) : Bool := cr.threads.any fun t => t.state != .exited

/-! ## Fields of a launch record (R20, R21) -/

def Launch.crews (r : Launch) : Nat := (r.teamShape.extractLsb' 0 7).toNat
def Launch.cohort (r : Launch) : Nat := (r.teamShape.extractLsb' 8 2).toNat + 1
def Launch.role (r : Launch) (c : Nat) : Nat := (r.roles.extractLsb' (2 * c) 2).toNat
def Launch.schedEntry (r : Launch) (i : Nat) : Nat := (r.sched.extractLsb' (2 * i) 2).toNat
def Launch.disposition (r : Launch) (cls : Nat) : Nat := (r.disp.extractLsb' (2 * cls) 2).toNat
def Launch.ord (r : Launch) : Bool := r.mode.getLsbD 0
def Launch.idem (r : Launch) : Bool := r.mode.getLsbD 1
def Launch.coop (r : Launch) : Bool := r.mode.getLsbD 2
def Launch.minCl (r : Launch) : Nat := (r.mode.extractLsb' 3 7).toNat
def Launch.prio (r : Launch) : Nat := (r.mode.extractLsb' 10 3).toNat
def Launch.depth (r : Launch) : Nat := (r.mode.extractLsb' 13 4).toNat
def Launch.fptrap (r : Launch) : BitVec 5 := r.mode.extractLsb' 17 5
def Launch.teams (r : Launch) : Nat := r.gx.toNat * r.gy.toNat * r.gz.toNat
def Launch.key (r : Launch) (i : Nat) : Word32 := nth r.keys i
def Launch.slot (r : Launch) (i : Nat) : Word32 := nth r.fslots i

/-- Tiles per bank (R98). -/
def Launch.bankTiles (r : Launch) : Nat := min 256 ((r.partition.extractLsb' 10 5).toNat * 16)

/-! ## Kernel images and clause headers (R47 to R50) -/

/-- Whether an image is that of a grid's kernel: the same address of the same front end. -/
def State.imageIs (s : State) (g : Nat) (im : Image) : Bool :=
  im.entry == (s.grid g).record.entry && (s.grid im.grid).fe == (s.grid g).fe

/-- The image of a grid's kernel in a core's clause store. -/
def State.imageOn (s : State) (g core : Nat) : Option Image := (s.core core).images.find? fun im => s.imageIs g im

/-- The image of a team's kernel on its core. -/
def State.image (s : State) (t : Nat) : Image := (s.imageOn (s.team t).grid (s.team t).core).getD default

/-- Whether a team's core holds the image of its kernel: before that no thread of it moves (R26, R27). -/
def State.imageHere (s : State) (t : Nat) : Bool := (s.imageOn (s.team t).grid (s.team t).core).isSome

/-- The word at an address of the image, if it holds one. -/
def Image.word (im : Image) (pc : Word64) : Option Word64 :=
  if im.entry.toNat ≤ pc.toNat ∧ pc.toNat % 8 = 0 then im.words[(pc.toNat - im.entry.toNat) / 8]? else none

/-- Whether the word at an address carries a header mark (R50). -/
def Image.marked (im : Image) (pc : Word64) : Bool :=
  decide (im.entry.toNat ≤ pc.toNat) && pc.toNat % 8 == 0 && im.marks.contains ((pc.toNat - im.entry.toNat) / 8)

/-- The header of the clause that holds an address: the last marked word at or below it. -/
def Image.headerOf (im : Image) (pc : Word64) : Word64 :=
  let i := (pc.toNat - im.entry.toNat) / 8
  let k := im.marks.foldl (fun b m => if m ≤ i ∧ b ≤ m then m else b) 0
  im.entry + BitVec.ofNat 64 (8 * k)

abbrev Header := Word64

def Header.cls (h : Header) : Nat := (h.extractLsb' 61 3).toNat
def Header.count (h : Header) : Nat := (h.extractLsb' 57 4).toNat
def Header.isJoin (h : Header) : Bool := h.getLsbD 56
def Header.rwait (h : Header) : Bool := h.getLsbD 55
def Header.ring (h : Header) : Nat := (h.extractLsb' 51 4).toNat
def Header.phase (h : Header) : Bool := h.getLsbD 50
def Header.bound (h : Header) (n : Nat) : Nat := (h.extractLsb' (6 * n) 6).toNat

/-- R66: a header with a reserved bit set, or ring fields without a ring wait. -/
def Header.malformed (h : Header) : Bool :=
  decide (4 < h.cls) || h.extractLsb' 48 2 != 0 || (!h.rwait && (h.ring != 0 || h.phase))

/-- The header word at an address. -/
def Image.header (im : Image) (pc : Word64) : Header := (im.word pc).getD 0

/-- The address that follows the clause whose header stands at `h` (R49). -/
def Image.nextClause (im : Image) (h : Word64) : Word64 :=
  h + BitVec.ofNat 64 (8 * ((im.header h).count + 2))

end Sys2Proof.Machine
end

