-- ==== Sys2Proof/Machine/Operands.lean ====
section
/-! DEFINITION. What an operand field delivers (R56, R57, R68, R89, R134, R137, R160), and which registers an
instruction names, for the scoreboard, for seals and for the limits of R99. -/

namespace Sys2Proof.Machine

/-- Value of a wait counter (R13): the operations counted and not yet completed in order, or w6 and w7. -/
def Crew.counter (cr : Crew) (n : Nat) : Nat :=
  if n = 6 then cr.w6 else if n = 7 then cr.w7 else cr.counted.countP fun k => k.ctr == n

/-- A special register or wait counter in one lane (R56, R68, R69, R89); %ls0 to %ls3 give the low 32 bits of a start address
(log 51). -/
def State.special (s : State) (t c l : Nat) (r : SpecReg) : Word32 :=
  let cr := s.crew t c
  let th := cr.th l
  let rcd := (s.gridOf t).record
  let i := (s.team t).index
  match r with
  | .lane => BitVec.ofNat 32 l
  | .tid => BitVec.ofNat 32 (16 * c + l)
  | .teamX => BitVec.ofNat 32 (i % rcd.gx.toNat)
  | .teamY => BitVec.ofNat 32 (i / rcd.gx.toNat % rcd.gy.toNat)
  | .teamZ => BitVec.ofNat 32 (i / rcd.gx.toNat / rcd.gy.toNat)
  | .crew => BitVec.ofNat 32 c
  | .depth => BitVec.ofNat 32 rcd.depth
  | .pix => th.pix
  | .fpflags => th.fpflags
  | .fptrap => th.fptrap
  | .mflags => th.mflags
  | .cyc => (s.core (s.team t).core).cyc
  | .tcause => th.tcause
  | .tinfo => th.tinfo
  | .lc n => match th.loops[n.val]? with
    | some e => e.count
    | none => 0
  | .ls n => match th.loops[n.val]? with
    | some e => e.start.extractLsb' 0 32
    | none => 0
  | .wctr n => BitVec.ofNat 32 (cr.counter n.val)

/-- The patterns of the floating constants (R57), as (FP64, FP32, FP16, BF16). -/
def floatConst : Nat → Nat × Nat × Nat × Nat
  | 0 => (0x3FE0000000000000, 0x3F000000, 0x3800, 0x3F00)
  | 1 => (0x3FF0000000000000, 0x3F800000, 0x3C00, 0x3F80)
  | 2 => (0x4000000000000000, 0x40000000, 0x4000, 0x4000)
  | 3 => (0x4010000000000000, 0x40800000, 0x4400, 0x4080)
  | 4 => (0xBFE0000000000000, 0xBF000000, 0xB800, 0xBF00)
  | 5 => (0xBFF0000000000000, 0xBF800000, 0xBC00, 0xBF80)
  | 6 => (0xC000000000000000, 0xC0000000, 0xC000, 0xC000)
  | 7 => (0xC010000000000000, 0xC0800000, 0xC400, 0xC080)
  | 8 => (0x3FD45F306DC9C883, 0x3EA2F983, 0x3518, 0x3EA3)
  | 9 => (0x400921FB54442D18, 0x40490FDB, 0x4248, 0x4049)
  | 10 => (0x3FE62E42FEFA39EF, 0x3F317218, 0x398C, 0x3F31)
  | 11 => (0x3FF71547652B82FE, 0x3FB8AA3B, 0x3DC5, 0x3FB9)
  | 12 => (0x7FF0000000000000, 0x7F800000, 0x7C00, 0x7F80)
  | 13 => (0x7FF8000000000000, 0x7FC00000, 0x7E00, 0x7FC0)
  | 14 => (0x7FEFFFFFFFFFFFFF, 0x7F7FFFFF, 0x7BFF, 0x7F7F)
  | _ => (0x0010000000000000, 0x00800000, 0x0400, 0x0080)

/-- The value of an integer constant code (R33). -/
def intConst (c : Fin 64) : Int := if c.val < 32 then c.val else (c.val : Int) - 48

/-- A constant at 64 bits (R57, R58). -/
def const64 (c : Fin 64) : Nat := if c.val < 48 then wrap 64 (intConst c) else (floatConst (c.val - 48)).1

/-- A constant at 32 bits (R57). -/
def const32 (c : Fin 64) : Nat := if c.val < 48 then wrap 32 (intConst c) else (floatConst (c.val - 48)).2.1

/-- A constant at 16 or 8 bits (R57). -/
def const16 (c : Fin 64) : Nat := if c.val < 48 then wrap 16 (intConst c) else (floatConst (c.val - 48)).2.2.1

/-- A constant as a packed .f16 or .bf16 operand (R160). -/
def constHalf (bf : Bool) (c : Fin 64) : Nat :=
  if c.val < 48 then wrap 32 (intConst c)
  else
    let k := floatConst (c.val - 48)
    let h := if bf then k.2.2.2 else k.2.2.1
    h + 65536 * h

/-- The 32-bit pattern that a field delivers in a lane of a crew (R134). -/
def State.rd32 (s : State) (t c : Nat) (o : Opnd) (l : Nat) : Nat :=
  match o with
  | .v n => ((s.crew t c).v n.val l).toNat
  | .s n => ((s.crew t c).s n.val).toNat
  | .sp r => (s.special t c l r).toNat
  | .con k => const32 k

/-- The 64-bit pattern that a pair field delivers. -/
def State.rd64 (s : State) (t c : Nat) (o : Opnd) (l : Nat) : Nat :=
  match o with
  | .v n => ((s.crew t c).v64 n.val l).toNat
  | .s n => ((s.crew t c).s64 n.val).toNat
  | .sp r => (s.special t c l r).toNat
  | .con k => const64 k

/-- Bits(F, l) (R134): 64 bits when `w`, else 32. -/
def State.bits (s : State) (t c : Nat) (w : Bool) (o : Opnd) (l : Nat) : Nat :=
  if w then s.rd64 t c o l else s.rd32 t c o l

/-- Bits of a packed .f16 or .bf16 operand (R160). -/
def State.rdHalf (s : State) (t c : Nat) (bf : Bool) (o : Opnd) (l : Nat) : Nat :=
  match o with
  | .con k => constHalf bf k
  | o => s.rd32 t c o l

/-- A 16-bit or 8-bit operand: the low bits of a register, or a constant truncated (R57). -/
def State.rd16 (s : State) (t c : Nat) (o : Opnd) (l : Nat) : Nat :=
  match o with
  | .con k => const16 k
  | o => s.rd32 t c o l

/-- Operand of column f of R158 in a lane. -/
def State.fbits (s : State) (t c : Nat) (ty : FTy) (o : Opnd) (l : Nat) : Nat :=
  match ty with
  | .f64 => s.rd64 t c o l
  | .f32 => s.rd32 t c o l
  | .f16 => s.rdHalf t c false o l
  | .bf16 => s.rdHalf t c true o l

/-! ## The registers that an instruction names -/

end Sys2Proof.Machine

namespace Sys2Proof
open Machine

/-- Registers of a source of `n` registers. -/
def Opnd.regs (o : Opnd) (n : Nat) : List Res :=
  match o with
  | .v k => (List.range n).map fun i => .v (k.val + i)
  | .s k => (List.range n).map fun i => .s (k.val + i)
  | _ => []

def Dst.regs (d : Dst) (n : Nat) : List Res :=
  match d with
  | .v k => (List.range n).map fun i => .v (k.val + i)
  | .s k => (List.range n).map fun i => .s (k.val + i)

end Sys2Proof

namespace Sys2Proof.Machine

def vregs (k n : Nat) : List Res := (List.range n).map fun i => .v (k + i)
def sregs (k n : Nat) : List Res := (List.range n).map fun i => .s (k + i)

def two (w : Bool) : Nat := if w then 2 else 1

def fwide (t : FTy) : Nat := if t == .f64 then 2 else 1

def baseRegs (ap : Aper) (o : Opnd) : List Res :=
  match ap with
  | .generic => o.regs 2
  | _ => o.regs 1

def memRegs (ap : Aper) (m : MemOp) : List Res := baseRegs ap m.base ++ m.index.regs 1

/-- What an instruction names: its guard, major opcode, class of engine (R47: 0 alu, 1 mem, 2 copy, 3 mat, 4 task),
the registers it reads and writes, and the accumulator tiles of its operand fields (R99). `frags` are vector registers that
its fields name and that others supply at a signature (R353): they bound the field (R58) and are not read here. -/
structure Info where
  guard : Guard
  major : Nat
  cls : Nat
  srcs : List Res
  dsts : List Res
  tiles : List Nat
  frags : List Nat
  deriving Repr

/-- An alu instruction. -/
def aluInfo (g : Guard) (major : Nat) (srcs dsts : List Res) : Option Info := some ⟨g, major, 0, srcs, dsts, [], []⟩

/-- A memory instruction. -/
def memInfo (g : Guard) (major : Nat) (srcs dsts : List Res) : Option Info := some ⟨g, major, 1, srcs, dsts, [], []⟩

/-- A matrix instruction. -/
def matInfo (g : Guard) (major : Nat) (srcs dsts : List Res) (tiles : List Nat) : Option Info :=
  some ⟨g, major, 3, srcs, dsts, tiles, []⟩

/-- An instruction that arms a convergence register, with its fragment fields. -/
def armInfo (g : Guard) (major : Nat) (tiles frags : List Nat) : Option Info := some ⟨g, major, 3, [], [], tiles, frags⟩

/-- A task instruction. -/
def taskInfo (g : Guard) (major : Nat) (srcs dsts : List Res) : Option Info := some ⟨g, major, 4, srcs, dsts, [], []⟩

/-- Registers of an atomic's data operand (R54). -/
def atomRegs (op : AOp) (t : ATy) (b : Opnd) : List Res :=
  let n := two t.wide
  if op == .cas then b.regs (2 * n) else b.regs n

/-- The operand fields of an instruction; none for an event. -/
def info : Instr → Option Info
  | .iadd g _ w _ d a b => aluInfo g 0x01 (a.regs (two w) ++ b.regs (two w)) (d.regs (two w))
  | .iaddImm g _ w _ d a _ => aluInfo g 0x18 (a.regs (two w)) (d.regs (two w))
  | .isub g _ w _ d a b => aluInfo g 0x02 (a.regs (two w) ++ b.regs (two w)) (d.regs (two w))
  | .imul g _ w d a b => aluInfo g 0x03 (a.regs (two w) ++ b.regs (two w)) (d.regs (two w))
  | .imulhi g _ w d a b => aluInfo g 0x04 (a.regs (two w) ++ b.regs (two w)) (d.regs (two w))
  | .imad g _ w _ d a b c => aluInfo g 0x05 (a.regs (two w) ++ b.regs (two w) ++ c.regs (two w)) (d.regs (two w))
  | .idiv g _ w d a b => aluInfo g 0x06 (a.regs (two w) ++ b.regs (two w)) (d.regs (two w))
  | .irem g _ w d a b => aluInfo g 0x07 (a.regs (two w) ++ b.regs (two w)) (d.regs (two w))
  | .imin g _ w d a b => aluInfo g 0x08 (a.regs (two w) ++ b.regs (two w)) (d.regs (two w))
  | .imax g _ w d a b => aluInfo g 0x09 (a.regs (two w) ++ b.regs (two w)) (d.regs (two w))
  | .iaddc g w d a b _ => aluInfo g 0x0A (a.regs (two w) ++ b.regs (two w)) (d.regs (two w))
  | .isubb g w d a b _ => aluInfo g 0x0B (a.regs (two w) ++ b.regs (two w)) (d.regs (two w))
  | .andL g w d a b => aluInfo g 0x0C (a.regs (two w) ++ b.regs (two w)) (d.regs (two w))
  | .orL g w d a b => aluInfo g 0x0C (a.regs (two w) ++ b.regs (two w)) (d.regs (two w))
  | .xorL g w d a b => aluInfo g 0x0C (a.regs (two w) ++ b.regs (two w)) (d.regs (two w))
  | .andnL g w d a b => aluInfo g 0x0C (a.regs (two w) ++ b.regs (two w)) (d.regs (two w))
  | .andImm g w d a _ => aluInfo g 0x19 (a.regs (two w)) (d.regs (two w))
  | .orImm g w d a _ => aluInfo g 0x19 (a.regs (two w)) (d.regs (two w))
  | .xorImm g w d a _ => aluInfo g 0x19 (a.regs (two w)) (d.regs (two w))
  | .andnImm g w d a _ => aluInfo g 0x19 (a.regs (two w)) (d.regs (two w))
  | .shl g w d a b => aluInfo g 0x0D (a.regs (two w) ++ b.regs 1) (d.regs (two w))
  | .shr g w d a b => aluInfo g 0x0D (a.regs (two w) ++ b.regs 1) (d.regs (two w))
  | .sar g w d a b => aluInfo g 0x0D (a.regs (two w) ++ b.regs 1) (d.regs (two w))
  | .rotl g w d a b => aluInfo g 0x0D (a.regs (two w) ++ b.regs 1) (d.regs (two w))
  | .rotr g w d a b => aluInfo g 0x0D (a.regs (two w) ++ b.regs 1) (d.regs (two w))
  | .ineg g w _ d a => aluInfo g 0x0E (a.regs (two w)) (d.regs (two w))
  | .iabs g w _ d a => aluInfo g 0x0E (a.regs (two w)) (d.regs (two w))
  | .notL g w d a => aluInfo g 0x0E (a.regs (two w)) (d.regs (two w))
  | .popc g w d a => aluInfo g 0x0E (a.regs (two w)) (d.regs 1)
  | .clz g w d a => aluInfo g 0x0E (a.regs (two w)) (d.regs 1)
  | .ctz g w d a => aluInfo g 0x0E (a.regs (two w)) (d.regs 1)
  | .brev g w d a => aluInfo g 0x0E (a.regs (two w)) (d.regs (two w))
  | .bfe g _ w d a b c => aluInfo g 0x0F (a.regs (two w) ++ b.regs 1 ++ c.regs 1) (d.regs (two w))
  | .bfi g w d a b c => aluInfo g 0x0F (d.regs (two w) ++ a.regs (two w) ++ b.regs 1 ++ c.regs 1) (d.regs (two w))
  | .prmt g d a b c => aluInfo g 0x10 (a.regs 1 ++ b.regs 1 ++ c.regs 1) (d.regs 1)
  | .icmp g _ w _ _ a b => aluInfo g 0x11 (a.regs (two w) ++ b.regs (two w)) []
  | .icmpImm g _ w _ _ a _ => aluInfo g 0x1A (a.regs (two w)) []
  | .isel g w d a b _ => aluInfo g 0x12 (a.regs (two w) ++ b.regs (two w)) (d.regs (two w))
  | .mov g w d a => aluInfo g 0x13 (a.regs (two w)) (d.regs (two w))
  | .movi g w d _ => aluInfo g 0x14 [] (d.regs (two w))
  | .lea g _ _ d a b c => aluInfo g 0x15 (a.regs 2 ++ b.regs 1 ++ c.regs 1) (d.regs 2)
  | .sext g _ w d a => aluInfo g 0x16 (a.regs 1) (d.regs (two w))
  | .zext g _ w d a => aluInfo g 0x16 (a.regs 1) (d.regs (two w))
  | .pand g _ _ _ => aluInfo g 0x17 [] []
  | .por g _ _ _ => aluInfo g 0x17 [] []
  | .pxor g _ _ _ => aluInfo g 0x17 [] []
  | .pnot g _ _ => aluInfo g 0x17 [] []
  | .pmov g _ _ => aluInfo g 0x17 [] []
  | .pmovPack g d _ => aluInfo g 0x17 [] (d.regs 1)
  | .pmovUnpack g _ a => aluInfo g 0x17 (a.regs 1) []
  | .fadd g t _ d a b => aluInfo g 0x20 (a.regs (fwide t) ++ b.regs (fwide t)) (vregs d (fwide t))
  | .fsub g t _ d a b => aluInfo g 0x21 (a.regs (fwide t) ++ b.regs (fwide t)) (vregs d (fwide t))
  | .fmul g t _ d a b => aluInfo g 0x22 (a.regs (fwide t) ++ b.regs (fwide t)) (vregs d (fwide t))
  | .ffma g t _ d a b c =>
    aluInfo g 0x23 (a.regs (fwide t) ++ b.regs (fwide t) ++ c.regs (fwide t)) (vregs d (fwide t))
  | .fmin g t _ d a b => aluInfo g 0x24 (a.regs (fwide t) ++ b.regs (fwide t)) (vregs d (fwide t))
  | .fmax g t _ d a b => aluInfo g 0x25 (a.regs (fwide t) ++ b.regs (fwide t)) (vregs d (fwide t))
  | .fdiv g f64 _ d a b => aluInfo g 0x26 (a.regs (two f64) ++ b.regs (two f64)) (vregs d (two f64))
  | .fsqrt g f64 _ d a => aluInfo g 0x27 (a.regs (two f64)) (vregs d (two f64))
  | .frcp g _ d a => aluInfo g 0x28 (a.regs 1) (vregs d 1)
  | .frsq g _ d a => aluInfo g 0x28 (a.regs 1) (vregs d 1)
  | .fexp2 g _ d a => aluInfo g 0x28 (a.regs 1) (vregs d 1)
  | .flog2 g _ d a => aluInfo g 0x28 (a.regs 1) (vregs d 1)
  | .fsin g _ d a => aluInfo g 0x28 (a.regs 1) (vregs d 1)
  | .fcos g _ d a => aluInfo g 0x28 (a.regs 1) (vregs d 1)
  | .fcmp g t _ _ a b => aluInfo g 0x29 (a.regs (fwide t) ++ b.regs (fwide t)) []
  | .fclass g t d a => aluInfo g 0x2A (a.regs (fwide t)) (vregs d 1)
  | .frint g t _ _ d a => aluInfo g 0x2B (a.regs (fwide t)) (vregs d (fwide t))
  | .fcvt g k d a =>
    match k with
    | .wide dt st _ _ =>
      aluInfo g 0x2C (a.regs (fwide st) ++ (if dt.half && !st.half then vregs d 1 else []))
        (vregs d (fwide dt))
    | .pack _ _ draw => aluInfo g 0x2C (vregs d 1 ++ a.regs 1 ++ draw.regs 1) (vregs d 1)
    | .unpack _ _ => aluInfo g 0x2C (a.regs 1) (vregs d 1)
  | .icvt g k _ _ d a =>
    match k with
    | .toFloat dt _ w => aluInfo g 0x2D (a.regs (two w) ++ (if dt.half then vregs d 1 else [])) (vregs d (fwide dt))
    | .toInt _ w st => aluInfo g 0x2D (a.regs (fwide st)) (vregs d (two w))
  | .fscale g t _ d a b => aluInfo g 0x2E (a.regs (fwide t) ++ b.regs 1) (vregs d (fwide t))
  | .fgetexp g t d a => aluInfo g 0x2F (a.regs (fwide t)) (vregs d 1)
  | .fgetman g t d a => aluInfo g 0x2F (a.regs (fwide t)) (vregs d (fwide t))
  | .fslice g _ d a b c => aluInfo g 0x30 (a.regs 2 ++ b.regs 1 ++ c.regs 1) (vregs d 1)
  | .dp2h g _ d a b c => aluInfo g 0x31 (a.regs 1 ++ b.regs 1 ++ c.regs 1) (vregs d 1)
  | .dp4 g _ _ d a b c => aluInfo g 0x32 (a.regs 1 ++ b.regs 1 ++ c.regs 1) (vregs d 1)
  | .dp8 g _ _ d a b c => aluInfo g 0x33 (a.regs 1 ++ b.regs 1 ++ c.regs 1) (vregs d 1)
  | .bra g _ => aluInfo g 0x40 [] []
  | .brx g a _ => aluInfo g 0x41 (a.regs 1) []
  | .call g d _ => aluInfo g 0x42 [] (d.regs 2)
  | .ret g a => aluInfo g 0x43 (a.regs 2) []
  | .join g a => aluInfo g 0x44 (a.regs 1) []
  | .loop g a _ => aluInfo g 0x45 (a.regs 1) []
  | .lbrk g _ => aluInfo g 0x46 [] []
  | .exit g => aluInfo g 0x47 [] []
  | .bar g _ _ b => aluInfo g 0x48 (b.regs 1) []
  | .cbar g => aluInfo g 0x49 [] []
  | .launch g d a => aluInfo g 0x4A (a.regs 2) (d.regs 1)
  | .waitChild g a => aluInfo g 0x4B (a.regs 1) []
  | .elect g _ => aluInfo g 0x4C [] []
  | .ldarg g t d _ => aluInfo g 0x4D [] (d.regs (two (t == .b64)))
  | .mfs g d _ => aluInfo g 0x4E [] (d.regs 1)
  | .mts g _ a => aluInfo g 0x4F (a.regs 1) []
  | .trap g _ _ => aluInfo g 0x50 [] []
  | .brk g _ => aluInfo g 0x51 [] []
  | .nop g => aluInfo g 0x52 [] []
  | .yield g => aluInfo g 0x53 [] []
  | .rft g => aluInfo g 0x7E [] []
  | .ctxsave g a b => aluInfo g 0x7E (a.regs 2 ++ b.regs 1) []
  | .ctxload g a b => aluInfo g 0x7E (a.regs 2 ++ b.regs 1) []
  | .accsw g => aluInfo g 0x7E [] []
  | .hlt g => aluInfo g 0x7E [] []
  | .bfly g w d a b f => aluInfo g 0x58 (a.regs (two w) ++ b.regs 1 ++ f.regs (two w)) (vregs d (two w))
  | .shfl g w _ d a b f => aluInfo g 0x59 (a.regs (two w) ++ b.regs 1 ++ f.regs (two w)) (vregs d (two w))
  | .xbar g d a x f => aluInfo g 0x5A (.stencil x.val :: (a.regs 1 ++ f.regs 1)) (vregs d 1)
  | .stload g _ a => aluInfo g 0x5B (sregs a 2) []
  | .vote g op _ =>
    match op with
    | .mask d => aluInfo g 0x5C [] (d.regs 1)
    | .count d => aluInfo g 0x5C [] (d.regs 1)
    | .quorum _ k => aluInfo g 0x5C (k.regs 1) []
    | .agree _ => aluInfo g 0x5C [] []
  | .redux g _ d a => aluInfo g 0x5D (a.regs 1) (d.regs 1)
  | .scan g _ _ d a => aluInfo g 0x5E (a.regs 1) (vregs d 1)
  | .matchOp g w d a => aluInfo g 0x5F (a.regs (two w)) (vregs d 1)
  | .rand g _ x4 d a b => aluInfo g 0x60 (a.regs 1 ++ b.regs 1) (vregs d (if x4 then 4 else 1))
  | .randNext g _ x4 d b => aluInfo g 0x60 (b.regs 1) (vregs d (if x4 then 4 else 1))
  | .ld g sz ap _ _ d m => memInfo g 0x64 (memRegs ap m) (d.regs (two sz.wide))
  | .st g sz ap _ _ d m => memInfo g 0x65 (memRegs ap m ++ d.regs (two sz.wide)) []
  | .ldx g sz ap _ d base idx n =>
    memInfo g 0x66 (baseRegs ap base ++ idx.regs (n.val + 1)) (vregs d ((n.val + 1) * two sz.wide))
  | .stx g sz ap _ d base idx n =>
    memInfo g 0x67 (baseRegs ap base ++ idx.regs (n.val + 1) ++ d.regs ((n.val + 1) * two sz.wide)) []
  | .atom g op t ap _ _ d base b => memInfo g 0x68 (baseRegs ap base ++ atomRegs op t b) (vregs d (two t.wide))
  | .red g op t ap _ _ base b => memInfo g 0x69 (baseRegs ap base ++ atomRegs op t b) []
  | .fence g _ _ => memInfo g 0x6A [] []
  | .sealOp g _ => memInfo g 0x6B [] []
  | .prefetch g _ m => memInfo g 0x6C (memRegs .generic m) []
  | .cinv g m => memInfo g 0x6D (match m with
    | some m => memRegs .generic m
    | none => []) []
  | .cwb g m => memInfo g 0x6E (memRegs .generic m) []
  | .own g _ a b => memInfo g 0x6F (sregs a 2 ++ b.regs 1) []
  | .cp g _ _ _ _ _ b => some ⟨g, 0x70, 2, match b with
    | some o => o.regs 1
    | none => [], [], [], []⟩
  | .tdset g _ a => aluInfo g 0x71 (sregs a 8) []
  | .tdmov g _ _ => aluInfo g 0x72 [] []
  | .tdmovGet g d _ => aluInfo g 0x72 [] (sregs d 8)
  | .tdmovBase g _ a => aluInfo g 0x72 (sregs a 2) []
  | .tdmovAdd g _ a => aluInfo g 0x72 (a.regs 1) []
  | .ringadvInit g _ a => aluInfo g 0x73 (a.regs 1) []
  | .ringadv g _ => aluInfo g 0x73 [] []
  | .ringadvCons g _ => aluInfo g 0x73 [] []
  | .ringwait g _ _ => aluInfo g 0x73 [] []
  | .sign g _ a => matInfo g 0x74 (a.regs 1) [] []
  | .mma g _ _ _ d a b _ _ => armInfo g 0x75 [d.val] [a.val, b.val]
  | .mmaSp g _ _ _ d a b _ _ => armInfo g 0x76 [d.val] [a.val, b.val]
  | .mmaw g _ d a b _ _ => armInfo g 0x77 [d.val] [a.val, b.val]
  | .acclr g d a => matInfo g 0x78 (a.regs 1) [] [d.val]
  | .accld g d _ => matInfo g 0x78 [] [] [d.val]
  | .accst g _ a => matInfo g 0x78 [] [] [a.val]
  | .accrd g d a _ => matInfo g 0x78 [] (vregs d 32) [a.val]
  | .acccvt g f64 _ d a e _ => matInfo g 0x78 (vregs e 4) (vregs d (if f64 then 64 else 32)) [a.val]
  | .mwait g a => matInfo g 0x79 (a.regs 1) [] []
  | .mmaDn g _ _ d a b _ _ => armInfo g 0x7A [d.val] [a.val, b.val]
  | .mmaDnb g _ _ d k t _ _ => armInfo g 0x7A [d.val, t.val] [k.val]
  | .dntap g _ _ d t _ _ => matInfo g 0x7B [] (vregs d 32) [t.val]
  | .dnload g _ => matInfo g 0x7B [] [] []
  | .tkissue g d a => taskInfo g 0x7C (a.regs 1) (sregs d 2)
  | .tkredeem g d a b => taskInfo g 0x7C (sregs a 2 ++ sregs b 2) (sregs d 1)
  | .tkstateGet g d a => taskInfo g 0x7C (sregs a 2) (sregs d 1)
  | .tkstateVoid g d a => taskInfo g 0x7C (sregs a 2) (sregs d 1)
  | .tkstateFree g d a => taskInfo g 0x7C (sregs a 2) (sregs d 1)
  | .wvcommitOpen g d => taskInfo g 0x7D [] (sregs d 1)
  | .wvcommitCow g d a => taskInfo g 0x7D (a.regs 1) (sregs d 1)
  | .wvcommitFin g d => taskInfo g 0x7D [] (sregs d 1)
  | .wvcommitDrop g d => taskInfo g 0x7D [] (sregs d 1)
  | _ => none

/-- R60, R138: whether the instruction belongs to the scalar part. -/
def Info.scalarPart (i : Info) : Bool :=
  (0x40 ≤ i.major && i.major ≤ 0x53) || (0x71 ≤ i.major && i.major ≤ 0x73) || i.major == 0x7E || i.major == 0x17 ||
  (0x01 ≤ i.major && i.major ≤ 0x1A && (i.srcs ++ i.dsts).all fun r => match r with
    | .v _ => false
    | _ => true)

/-- R24: whether a crew of the role may issue the instruction. -/
def Info.roleOk (i : Info) (role : Nat) : Bool :=
  match role with
  | 0 => i.cls == 2 || i.scalarPart
  | 1 => i.cls == 3 || i.scalarPart
  | 2 => i.cls != 2 && i.cls != 3
  | _ => true

/-- Greatest vector register that the instruction names, plus one (R99). -/
def Info.vlimit (i : Info) : Nat := (i.srcs ++ i.dsts ++ i.frags.map Res.v).foldl (fun m r => match r with
  | .v n => max m (n + 1)
  | _ => m) 0

end Sys2Proof.Machine
end

