-- ==== Sys2Proof/Machine/Ops.lean ====
section
/-! DEFINITION. The operations that the meanings share: identifiers, wait counters, the scoreboard and seals,
records, joins and barriers, killing a team, TAKING A TRAP and returning from one, and the frame of every crew
instruction (`crewOp`). -/

namespace Sys2Proof.Machine

abbrev Result := Host.Outcome State Fault Refusal

/-! ## Stalls, counters, scoreboard, seals -/

/-- A stall at issue (R48): the instruction has no effect and the bundle keeps its place. -/
def State.stall (s : State) : State := { s with cur := s.cur.map fun x => { x with stalled := true } }

/-- Count an operation in `w<ctr>` (R13). -/
def Crew.raise (cr : Crew) (ctr id : Nat) : Crew := { cr with counted := cr.counted ++ [⟨id, ctr, false⟩] }

/-- Drop the completed operations that no older one of their counter holds back (R13). -/
def dropDone (l : List Counted) (blocked : List Nat) : List Counted :=
  match l with
  | [] => []
  | k :: r =>
    if k.done && !blocked.contains k.ctr then dropDone r blocked
    else k :: dropDone r (k.ctr :: blocked)

/-- An operation completes (R13). -/
def Crew.lower (cr : Crew) (id : Nat) : Crew :=
  { cr with counted := dropDone (cr.counted.map fun k => if k.id = id then { k with done := true } else k) [] }

/-- A result becomes outstanding to the scoreboard (R77). -/
def Crew.await (cr : Crew) (id : Nat) (res : List Res) : Crew := { cr with outs := cr.outs ++ [⟨id, res, none, 0⟩] }

/-- A division or square root writes its result, which stays outstanding for a number of core cycles (R136, R163), with the flags of
some lanes (R162). -/
def Crew.awaitCycles (cr : Crew) (id : Nat) (res : List Res) (cycles : Nat) (fp : Mask) : Crew :=
  { cr with outs := cr.outs ++ [⟨id, res, some cycles, fp⟩] }

/-- A core cycle passes for the results that take a number of them. -/
def Crew.passCycle (cr : Crew) : Crew :=
  { cr with outs := (cr.outs.filter fun o => o.left != some 0).map fun o => { o with left := o.left.map fun n => n - 1 } }

/-- A result has returned. -/
def Crew.returned (cr : Crew) (id : Nat) : Crew := { cr with outs := cr.outs.filter fun o => o.id != id }

/-- Whether the scoreboard holds an instruction that names the registers (R139). -/
def Crew.held (cr : Crew) (rs : List Res) : Bool := cr.outs.any fun o => o.res.any rs.contains

/-- Seal resources for an operation counted by `w<ctr>` that has just been issued (R17). -/
def Crew.sealUp (cr : Crew) (ctr : Nat) (rs : List Res) : Crew :=
  { cr with seals := cr.seals ++ rs.map fun r => ⟨r, ctr, cr.counter ctr⟩ }

/-- A wait with the bound on `w<ctr>` lifts the seals that it covers (R17). -/
def Crew.lift (cr : Crew) (ctr bound : Nat) : Crew :=
  { cr with seals := cr.seals.filter fun k => !(k.ctr == ctr && decide (bound < k.level)) }

def Crew.isSealed (cr : Crew) (r : Res) : Bool := cr.seals.any fun k => k.res == r

/-- A fresh number for an operation. -/
def State.fresh (s : State) : Nat × State := (s.nextId, { s with nextId := s.nextId + 1 })

/-! ## Records (R236, R402) -/

/-- A record waits in its front end until RECORD_POST writes it (R403). -/
def State.post (s : State) (fe : Nat) (rcd : BitVec 256) : State :=
  s.modFe fe fun f => { f with pending := f.pending ++ [rcd] }

/-- Bits of a trap record other than its detail (R236). -/
structure TrapBits where
  sw : Bool := false
  imprecise : Bool := false
  double : Bool := false
  unrecoverable : Bool := false
  killed : Bool := false
  brk : Bool := false
  deriving DecidableEq, Repr

def bit1 (b : Bool) : BitVec 1 := BitVec.ofBool b

/-- A trap or breakpoint record (R236). -/
def trapRecord (pc : Word64) (tinfo : Word32) (team : Nat) (grid : BitVec 32) (lanes : Mask) (crew cls : Nat)
    (b : TrapBits) : BitVec 256 :=
  pc ++ tinfo ++ BitVec.ofNat 32 team ++ grid ++ lanes ++ BitVec.ofNat 6 crew ++ BitVec.ofNat 4 cls ++
    bit1 b.sw ++ bit1 b.imprecise ++ bit1 b.double ++ bit1 b.unrecoverable ++ bit1 b.killed ++ bit1 b.brk ++
    (0 : BitVec 64)

/-- An ownership-conflict record (R402); no team held the line when `i` is none. -/
def conflictRecord (line : Word64) (j : Nat) (i : Option Nat) (grid : BitVec 32) : BitVec 256 :=
  line ++ BitVec.ofNat 32 j ++ (match i with
    | some i => BitVec.ofNat 32 i
    | none => BitVec.allOnes 32) ++ grid ++ (0 : BitVec 88) ++ (3 : BitVec 8)

/-- INDEX and origin of a record of kinds 1 and 4 (R402). -/
def originIndex (index : Word64) (origin : Nat) (grid : BitVec 32) (mid : BitVec 8) (kind : BitVec 8) : BitVec 256 :=
  index ++ (0 : BitVec 64) ++ grid ++ (0 : BitVec 78) ++ BitVec.ofNat 2 origin ++ mid ++ kind

/-- A malformed-launch record with the failed check (R402). -/
def malformedLaunch (index : Word64) (origin : Nat) (check : Nat) : BitVec 256 :=
  originIndex index origin 0 (BitVec.ofNat 8 check) 1

/-- A grid-retired record (R402). -/
def gridRetired (index : Word64) (origin : Nat) (grid : BitVec 32) (failed : Bool) : BitVec 256 :=
  originIndex index origin grid ((0 : BitVec 7) ++ bit1 failed) 4

/-- A malformed-ring record (R402). -/
def malformedRing (value : Word64) (which : Nat) : BitVec 256 :=
  value ++ (0 : BitVec 182) ++ BitVec.ofNat 2 which ++ (2 : BitVec 8)

/-- A range-changed record (R402); the place given to CLBASE lies inside KIND, which every record keeps (log 13). -/
def rangeChanged (limit : Nat) : BitVec 256 := (0 : BitVec 242) ++ BitVec.ofNat 6 limit ++ (5 : BitVec 8)

/-- A change of MIGCTL.STATE (R452). -/
def stateChanged (st : Nat) : BitVec 256 := (0 : BitVec 244) ++ BitVec.ofNat 4 st ++ (6 : BitVec 8)

/-! ## Where a thread goes on (R65, R80, R85, R86) -/

/-- R86: act on the top loop entry while its end is the address reached. -/
def loopReturn (fuel : Nat) (loops : List LoopEntry) (p : Word64) : List LoopEntry × Word64 :=
  match fuel, loops with
  | fuel + 1, e :: r =>
    if e.stop = p then
      if 1 < e.count.toNat then ({ e with count := e.count - 1 } :: r, e.start) else loopReturn fuel r p
    else (loops, p)
  | _, _ => (loops, p)

/-- A thread reaches an address by fall-through: a loop of count 0 sends it to that loop's end (R85), where no outer entry
with the same end is acted on (log 45); else R86. -/
def Thread.fall (th : Thread) (p : Word64) : Thread :=
  match th.loopSkip with
  | some e => { th with pc := e, loopSkip := none }
  | none =>
    let r := loopReturn 5 th.loops p
    { th with loops := r.1, pc := r.2 }

/-- A thread stands at its address: it arrives when that is a join header (R80). -/
def Thread.land (im : Image) (th : Thread) : Thread :=
  if im.marked th.pc && (im.header th.pc).isJoin then
    { th with state := .held, holdAt := .join, joinSet := BitVec.allOnes 16 }
  else { th with state := .active }

/-- The address after an instruction at `pc`, and whether it is reached as a fall-through (R65). -/
def Image.after (im : Image) (pc : Word64) : Word64 × Bool :=
  let n := pc + 8
  (n, n == im.nextClause (im.headerOf pc))

/-- Whether an address stands inside a clause, after its header. -/
def Image.inside (im : Image) (p : Word64) : Bool :=
  !im.marked p && decide (p.toNat < (im.nextClause (im.headerOf p)).toNat) && (im.word p).isSome

/-! ## Killing a team (R235, R302, R319, R344) -/

def Thread.start (pc : Word64) (fptrap : BitVec 5) : Thread where
  state := .active
  pc := pc
  holdAt := .join
  joinSet := 0
  parkWhy := .presence
  loops := []
  loopSkip := none
  inh := false
  hpc := 0
  hloops := []
  hskip := none
  draw := 0
  pix := 0
  tcause := 0
  tinfo := 0
  fptrap := fptrap.setWidth 32
  fpflags := 0
  mflags := 0
  late := false
  hlate := false
  awaits := []
  runWait := none
  beforeAll := []
  beforeWrites := []
  carried := []

def Crew.start (pc : Word64) (fptrap : BitVec 5) : Crew where
  threads := List.replicate 16 (Thread.start pc fptrap)
  bundle := 0
  fcount := 0
  fpc := 0
  sregs := []
  vregs := []
  preds := []
  counted := []
  w6 := 0
  w7 := 0
  outs := []
  seals := []
  yielding := 0
  retired := false
  age := 0
  lastIssue := 0
  clock := [0, 0, 0, 0]
  ports := []
  copyAfter := []
  vbase := 0
  headed := none
  long := none
  stale := []

def Barrier.zero : Barrier := ⟨false, 0, false, 0, false⟩
def Conv.zero : Conv := ⟨0, 0, .idle, 0, 0, 0⟩
def Ring.zero : Ring := ⟨0, 0, 0, 0, 0⟩

/-- A team with the state it has at placement (R249, R323, R364, R398): crews at the kernel's entry. -/
def Team.start (grid index : Nat) (r : Launch) : Team where
  grid := grid
  index := index
  status := .waiting
  core := 0
  placed := 0
  crews := List.replicate r.crews (Crew.start r.entry r.fptrap)
  tregs := List.replicate 16 0
  accs := []
  conv := List.replicate 8 Conv.zero
  rings := List.replicate 16 Ring.zero
  stencils := List.replicate 8 0
  dnslots := List.replicate 8 ⟨false, 0⟩
  spad := []
  unsealed := []
  absent := []
  bars := List.replicate 5 Barrier.zero
  guard := none
  escaped := false
  kills := 0
  blocked := none
  owed := []
  stop := false
  saving := false
  resumed := false
  tilesAt := .area
  claims := []
  notes := []
  seqNext := 0
  staged := []
  spadBase := 0
  accBase := 0
  bank := 0
  saveAt := 0

/-- Whether a team has ended and every one of its entries has been released (R297, R302). -/
def Team.phaseDone (tm : Team) : Bool :=
  tm.status == .dead || (tm.status == .retired && tm.staged.isEmpty)

/-- Whether an access holds back what is ordered after it: it is not performed, nor staged (R291). -/
def AccStatus.pends : AccStatus → Bool
  | .done | .staged => false
  | _ => true

/-- A launch is answered by LAUNCH_STATUS_RETURN. -/
def MemKind.isLaunch : MemKind → Bool
  | .launch _ => true
  | _ => false

/-- Whether a launch of a team has still to be answered: one that has may stage an entry, also after the team has retired. -/
def State.launching (s : State) (t : Nat) : Bool :=
  s.log.any fun e => e.team == t && e.kind.isLaunch && e.lanes.any fun a => a.status.pends

/-- Whether an access that the release sequencer has sent on its way, of a team that satisfies `p`, is still to be performed. -/
def State.releasing (s : State) (p : Nat → Bool) : Bool :=
  s.log.any fun e => p e.team && e.lanes.any fun a => a.released && a.status.pends

/-- Whether the phase of a team has completed (R297, R302). -/
def State.teamDone (s : State) (t : Nat) : Bool :=
  (s.team t).phaseDone && !s.launching t && ((s.team t).status == .dead || !s.releasing (· == t))

/-- R297: move the head past every team whose phase has completed. -/
def State.headLoop (fuel : Nat) (s : State) (g h : Nat) : Nat :=
  match fuel with
  | 0 => h
  | fuel + 1 =>
    if (List.range s.teams.length).any fun t => (s.team t).grid == g && (s.team t).index == h && s.teamDone t then
      State.headLoop fuel s g (h + 1) else h

def State.advanceHead (s : State) (g : Nat) : State :=
  s.modGrid g fun gr => { gr with head := State.headLoop (s.teams.length + 1) s g gr.head }

/-- The head moves on where a retired team's last launch has been answered (R297). -/
def State.launchOver (s : State) (t : Nat) : State :=
  if (s.team t).status = .retired then s.advanceHead (s.team t).grid else s

/-- Set presence bits: take one clearing of each line off the teams that hold them (R16, R344). -/
def State.setPresence (s : State) (lines : List (Nat × Nat)) : State :=
  lines.foldl (fun s p => s.modTeam p.1 fun tm => { tm with absent := tm.absent.erase p.2 }) s

/-- Clear presence bits (R16, R339). -/
def State.clearPresence (s : State) (lines : List (Nat × Nat)) : State :=
  lines.foldl (fun s p => s.modTeam p.1 fun tm => { tm with absent := p.2 :: tm.absent }) s

/-- What waits for a page for a team: its releases, copies, matrix operations and task instructions. -/
def State.pageUsers (s : State) (t : Nat) : List PageUser :=
  .plumb t :: ((s.copies.filter fun c => c.team == t && !c.peers).map fun c => .copy c.id) ++
    ((s.mops.filter fun m => m.team == t).map fun m => .op m.id) ++
    (s.tasks.filter fun x => x.team == t).map fun x => .op x.id

/-- Nothing more waits for a page for some users; what the fault buffer holds stands (R319). -/
def State.forgetWaits (s : State) (us : List PageUser) : State :=
  let keep (l : List PageWait) := l.filter fun w => !us.contains w.user
  { s with dies := s.dies.map fun d => { d with
    asking := keep d.asking, waiting := d.waiting.filter fun w => !us.contains w.1.user, refused := keep d.refused,
    replayWaits := keep d.replayWaits } }

/-- Whether the kind writes memory, and so needs write permission (R304). -/
def MemKind.writes : MemKind → Bool
  | .st _ | .stx _ _ _ _ _ _ | .atom _ _ _ | .red _ _ => true
  | _ => false

/-- Whether an access has left its core: to another die, a peer, or the source of a move (R439, R451, R455). -/
def AccStatus.sent : AccStatus → Bool
  | .exported _ _ _ | .peer _ | .forwarded _ _ _ => true
  | _ => false

/-- What of an entry a kill of its team does not reach: writes that have left the core, which no crew waits for any more; an
atomic returns nothing. -/
def LogEntry.survives (e : LogEntry) : Option LogEntry :=
  if e.posted then some { e with crew := 64 }
  else
    match e.lanes.filter fun a => e.kind.writes && a.status.sent with
    | [] => none
    | l => some { e with
        crew := 64, posted := true, lanes := l.map fun a => { a with parked := false }
        kind := match e.kind with
          | .atom op ty _ => .red op ty
          | .stx sz _ _ _ _ _ => .st sz
          | k => k }

/-- What a team has handed to engines and what its kill cancels: log entries and releases (R319), copies that write no
other team's scratchpad (R344), matrix and crossbar operations, task instructions. A write that has left its core is performed
(R439). A copy that outlives the team reads the scratchpad as it is now, and keeps no presence bit of it. -/
def State.cancel (s : State) (t : Nat) : State :=
  let mine := s.copies.filter fun c => c.team == t && !c.peers
  let lines := (mine.flatMap Copy.lines) ++ (s.mops.filter fun m => m.team == t).flatMap MatrixOp.lines
  let s := (s.forgetWaits (s.pageUsers t)).setPresence lines
  let pad := (s.team t).spad
  { s with
    log := s.log.filterMap fun e => if e.team = t then e.survives else some e
    copies := (s.copies.filter fun c => !(mine.any fun k => k.id == c.id)).map fun c =>
      { c with
        orphan := if c.team = t ∧ c.orphan.isNone then some pad else c.orphan
        lines := c.lines.filter fun p => p.1 != t }
    mops := s.mops.filter fun m => m.team != t
    cross := s.cross.filter fun x => x.team != t
    tasks := s.tasks.filter fun x => x.team != t
    slots := s.slots.filter fun x => x.1 != t }

/-- A crew leaves the queue of a core's copy engine (R322). -/
def State.yieldEngine (s : State) (core t c : Nat) : State :=
  s.modCore core fun co => { co with
    cpQueue := co.cpQueue.filter fun q => q != (t, c)
    cpGrant := if co.cpGrant = some (t, c) then none else co.cpGrant }

/-- Give a team's blocks back to the buddy allocator (R72, R235). -/
def State.freeBlocks (s : State) (t : Nat) : State :=
  s.modCore (s.team t).core fun c => { c with
    blocks := c.blocks.filter fun b => b.team != t
    partition := if c.blocks.any fun b => b.team != t && decide (b.share < 2) then c.partition else none
    cpQueue := c.cpQueue.filter fun q => q.1 != t
    cpGrant := match c.cpGrant with
      | some q => if q.1 = t then none else some q
      | none => none }

/-- Child grids whose staged launch dies with its team leave no trace (R198). -/
def State.dropChildren (s : State) (t : Nat) : State :=
  let kids := ((s.team t).staged.filter fun k => k.kind == .launch).map Staged.acc
  let s := s.modGrid (s.team t).grid fun g => { g with children := g.children - kids.length }
  kids.foldl (fun s k => s.modGrid k fun g => { g with staged := false, retired := true }) s

/-- A team stops in every crew, what it handed to engines is cancelled, and its place becomes free; it starts afresh
or is dead (R235). -/
def State.discardTeam (s : State) (t : Nat) (f : Team → Team) : State :=
  let tm := s.team t
  (((s.dropChildren t).cancel t).freeBlocks t).modTeam t fun _ => f (Team.start tm.grid tm.index (s.grid tm.grid).record)

/-- R235: whether a killed team is relaunched, the kills before this one counted. -/
def State.relaunchable (s : State) (t : Nat) : Bool :=
  (s.gridOf t).record.idem && !(s.team t).escaped && decide ((s.team t).kills < 2) && !(s.gridOf t).noMore

/-- A failed grid gets no further team (R235): one of it that waits to be relaunched ends for good, with the record that
its kill still owes, and so the head passes it (R302). -/
def State.stopPlacing (s : State) (g : Nat) : State :=
  let s := s.modGrid g fun gr => { gr with failed := true, noMore := true }
  let gone := (List.range s.teams.length).filter fun t => (s.team t).grid == g && (s.team t).status == .waiting
  (gone.foldl (fun s t =>
    let s := match (s.team t).owed[2]? with
      | some rcd => s.post (s.grid g).fe rcd
      | none => s
    (s.modTeam t fun tm => { tm with status := .dead, blocked := none, owed := [] }).modGrid g fun gr =>
      { gr with ended := gr.ended + 1 }) s).advanceHead g

/-- Kill a team (R235), also one that has retired and still holds staged entries (R318), with one record of the cause;
`retry` withholds the relaunch when false. A relaunch that waits for a page owes its record in three forms: relaunched, refused
with HARD of R361, and not relaunched because the grid has failed meanwhile. -/
def State.killTeam (s : State) (t c cls : Nat) (lanes : Mask) (pc : Word64) (tinfo : Word32) (b : TrapBits)
    (retry : Bool) (wait : Option (Nat × Nat)) : State :=
  let tm := s.team t
  let g := s.grid tm.grid
  if s.teamDone t ∨ tm.status = .waiting then s
  else
    let again := retry && s.relaunchable t
    let rcd := trapRecord pc tinfo tm.index g.handle lanes c cls { b with killed := again, unrecoverable := !again }
    let s := s.discardTeam t fun k =>
      { k with
        status := if again then .waiting else .dead
        kills := tm.kills + 1
        blocked := if again then wait else none
        owed := if again && wait.isSome then
            let rec_ (k : Bool) := trapRecord pc (if k then tinfo else tinfo ||| 4) tm.index g.handle lanes c cls
              { b with killed := k, unrecoverable := !k }
            [rec_ true, rec_ false, trapRecord pc tinfo tm.index g.handle lanes c cls { b with unrecoverable := true }]
          else [] }
    let was := if tm.status = .retired then 1 else 0
    let s := if again then s.modGrid tm.grid fun g => { g with ended := g.ended - was }
      else (s.modGrid tm.grid fun g => { g with ended := g.ended + 1 - was }).stopPlacing tm.grid
    if again && wait.isSome then s else s.post g.fe rcd

/-- The answer to the page request that a relaunch waits for (R361): the owed record goes out, and a refusal withholds
the relaunch. -/
def State.decideRelaunch (s : State) (t : Nat) (granted : Bool) : State :=
  let tm := s.team t
  let g := s.grid tm.grid
  let rcd := nth tm.owed (if granted then 0 else 1)
  let s := s.modTeam t fun tm => { tm with
    blocked := none, owed := [], status := if granted then tm.status else .dead }
  let s := if granted then s
    else (s.modGrid tm.grid fun g => { g with ended := g.ended + 1 }).stopPlacing tm.grid
  s.post g.fe rcd

/-! ## Taking a trap (R228 to R236) -/

/-- The handler's address (R234). -/
def Grid.handlerAt (g : Grid) : Word64 := g.record.entry + BitVec.ofNat 64 g.needs.handler

/-- Park(lanes) (R74) for a reason, at the recorded addresses. -/
def Crew.park (cr : Crew) (lanes : Mask) (why : ParkWhy) (pc : Nat → Word64) : Crew :=
  { cr.modLanes lanes fun l th => { th with state := .parked, parkWhy := why, pc := pc l } with
    bundle := cr.bundle &&& ~~~lanes }

/-- Handler entry of the lanes (R234): they arrive when the handler's header is a join (R80). -/
def Crew.enter (cr : Crew) (im : Image) (lanes : Mask) (at_ : Word64) (pc : Nat → Word64) : Crew :=
  { cr.modLanes lanes fun l th =>
      { th with
        hpc := pc l, hloops := th.loops, loops := [], hskip := th.loopSkip
        loopSkip := none, inh := true, hlate := th.late, late := false, pc := at_ }.land im with
    bundle := cr.bundle &&& ~~~lanes }

/-- %tcause and %tinfo of the lanes (R228). -/
def Crew.cause (cr : Crew) (lanes : Mask) (cls : Nat) (b : TrapBits) (tinfo : Nat → Word32) : Crew :=
  cr.modLanes lanes fun l th =>
    { th with
      tcause := BitVec.ofNat 32 (cls + (if b.sw then 16 else 0) + (if b.imprecise then 32 else 0))
      tinfo := tinfo l
      late := b.sw
      awaits := []
      runWait := none }

/-- What a disposition does for a class (R231): the handler disposition acts as park-and-report for class 12 (R233). -/
def actsAs (cls disp : Nat) : Nat := if cls = 12 ∧ disp = 1 then 0 else disp

/-- TAKING A TRAP of a class in some lanes of a crew of a resident team: %tcause and %tinfo are written; lanes inside the handler are
parked with DOUBLE; the others follow the disposition (R231), or `force` where a rule gives one. A thread that has exited
since stays exited (R73); the record names its lane. -/
def State.trapWith (s : State) (t c cls : Nat) (lanes : Mask) (tinfo : Nat → Word32) (pc : Nat → Word64) (b : TrapBits)
    (force : Option Nat) : State :=
  if lanes = 0 ∨ (s.team t).status ≠ .resident then s
  else
    let g := s.gridOf t
    let im := s.image t
    let here := ~~~(s.crew t c).exited
    let dbl := lanes &&& (s.crew t c).inState Thread.inh
    let rest := lanes &&& ~~~dbl
    let rcd (m : Mask) (b : TrapBits) :=
      trapRecord (pc (lowestLane m)) (tinfo (lowestLane m)) (s.team t).index g.handle m c cls b
    let s := s.modCrew t c fun cr => cr.cause (lanes &&& here) cls b tinfo
    let s := if dbl = 0 then s
      else (s.modCrew t c fun cr => cr.park (dbl &&& here) .report pc).post g.fe (rcd dbl { b with double := true })
    if rest = 0 then s
    else
      match force.getD (actsAs cls (g.record.disposition cls)) with
      | 1 => s.modCrew t c fun cr => cr.enter im (rest &&& here) g.handlerAt pc
      | 2 => s.killTeam t c cls rest (pc (lowestLane rest)) (tinfo (lowestLane rest)) b true none
      | _ => (s.modCrew t c fun cr => cr.park (rest &&& here) .report pc).post g.fe (rcd rest b)

/-- A precise trap at one address (R229), by the class's own disposition. -/
def State.trap (s : State) (t c cls : Nat) (lanes : Mask) (tinfo : Nat → Word32) (pc : Word64) : State :=
  s.trapWith t c cls lanes tinfo (fun _ => pc) {} none

/-! ## Settling threads, joins (R80, R82, R190) -/

/-- Lanes of a crew that have just been given addresses leave the bundle: fall-throughs pass R85 and R86, and each stands
at its address. One without a mark is reported by `State.evalFalls`. -/
def State.settle (s : State) (t c : Nat) (lanes falls : Mask) : State :=
  let im := s.image t
  s.modCrew t c fun cr =>
    { cr.modLanes lanes fun l th => (if falls.getLsbD l then th.fall th.pc else th).land im with
      bundle := cr.bundle &&& ~~~lanes }

/-- Lanes that an access stands for: all of Active() for a uniform one (R263). Element `j` of a long gather or scatter has
the number 16 * j above its lane's (R264). -/
def LogEntry.lanesFor (e : LogEntry) (lane : Nat) : Mask := if e.uniform then e.active else laneBit (lane % 16)

/-- Numbers of the accesses of a crew's lanes that have not been performed, of the entries that satisfy `p`. -/
def State.pendingOf (s : State) (t c : Nat) (lanes : Mask) (p : LogEntry → Bool) : List Nat :=
  (s.log.filter fun e => e.team == t && e.crew == c && !e.posted && p e).flatMap fun e =>
    (e.lanes.filter fun a => e.lanesFor a.lane &&& lanes != 0 && a.status.pends).map LaneAcc.acc

def State.pendingAccs (s : State) (t c : Nat) (lanes : Mask) : List Nat := s.pendingOf t c lanes fun _ => true

/-- Whether no crossbar result of some lanes is still to be written. -/
def State.crossDone (s : State) (t c : Nat) (lanes : Mask) : Bool :=
  lanes == 0 || s.cross.all fun k => k.team != t || k.crew != c || (match k.d with
    | .v _ => k.vals.all fun p => !lanes.getLsbD p.1
    | .s _ => false)

/-- Whether a matrix operation writes registers of its lanes. -/
def MKind.returns : MKind → Bool
  | .accrd .. | .acccvt .. | .dntap .. => true
  | _ => false

/-- Whether no matrix operation has still to write registers of some lanes. -/
def State.readsDone (s : State) (t c : Nat) (lanes : Mask) : Bool :=
  s.mops.all fun m => m.team != t || m.crew != c || !m.kind.returns || m.lanes &&& lanes == 0

/-- Whether no task instruction that some lanes have gone past is outstanding (R428). -/
def State.tasksDone (s : State) (t c : Nat) (lanes : Mask) : Bool :=
  s.tasks.all fun x => x.team != t || x.crew != c || !x.past || x.lanes &&& lanes == 0

/-- R229: whether every instruction that some lanes issued earlier has taken full effect: no access of theirs is still to
be performed, and no crossbar, matrix or task result of theirs to be written (log 20). -/
def State.effected (s : State) (t c : Nat) (lanes : Mask) : Bool :=
  (s.pendingAccs t c lanes).isEmpty && s.crossDone t c lanes && s.readsDone t c lanes && s.tasksDone t c lanes

/-! ## Runs that wait after an instruction that released the crew's issue (R199, R329, R342, R357, R378) -/

/-- Phase bit of the consumer stage of a ring (R329). -/
def Ring.shows (r : Ring) (ph : Bool) : Bool := r.ph.getLsbD r.cons == ph

/-- Whether what the run of a thread waits for has come. -/
def State.waitOver (s : State) (t c : Nat) (th : Thread) : Bool :=
  match th.runWait with
  | none => true
  | some (.matrix b _ _ _) => decide ((s.crew t c).counter 3 ≤ b)
  | some (.child b) => decide ((s.crew t c).counter 5 ≤ b)
  | some (.ring g ph) => (nth (s.team t).rings g.val).shows ph
  | some (.copy id) => !(s.copies.any fun k => k.id == id)

def State.waitsOver (s : State) (t c : Nat) (m : Mask) : Bool := (lanesOf m).all fun l => s.waitOver t c ((s.crew t c).th l)

/-- The lanes at a completed mwait with a condition of R357. -/
def Crew.matrixTraps (cr : Crew) (m : Mask) : Mask :=
  m &&& maskOf fun l =>
    let th := cr.th l
    (match th.runWait with
     | some (.matrix _ _ _ _) => true
     | _ => false) && ((th.mflags &&& th.fptrap).extractLsb' 0 5 != 0 || th.mflags.getLsbD 5)

/-- Address of the mwait that a lane has waited at. -/
def Thread.mwaitAt (th : Thread) : Word64 :=
  match th.runWait with
  | some (.matrix _ p _ _) => p
  | _ => th.pc

/-- The thread as it stood at the mwait that it has waited at, but for its address; OVT is cleared as its trap is taken. -/
def Thread.atMwait (th : Thread) : Thread :=
  match th.runWait with
  | some (.matrix _ _ loops skip) => { th with loops := loops, loopSkip := skip, mflags := th.mflags &&& ~~~32 }
  | _ => th

/-- Lift the seals that the completed mwaits of some lanes cover (R17, R378). -/
def Crew.liftWaits (cr : Crew) (m : Mask) : Crew :=
  (lanesOf m).foldl (fun cr l => match (cr.th l).runWait with
    | some (.matrix b _ _ _) => cr.lift 3 b
    | _ => cr) cr

/-- The runs of some lanes have waited to the end: their mwaits lift seals, and what they waited for is forgotten. -/
def Crew.endWaits (cr : Crew) (m : Mask) : Crew :=
  (cr.liftWaits m).modLanes m fun _ th => { th with awaits := [], runWait := none }

/-- Lanes whose mwait is over take the trap of R357 at it. -/
def State.mwaitTrap (s : State) (t c : Nat) (bad : Mask) : State :=
  let cr := s.crew t c
  (s.modCrew t c fun cr => (cr.modLanes bad fun _ th => th.atMwait).endWaits bad).trapWith t c 0 bad
    (fun l => ((cr.th l).mflags &&& 31) ||| 32) (fun l => (cr.th l).mwaitAt) { imprecise := true } none

/-- Whether the last instruction before an address has completed in some lanes that have gone past it (R65). -/
def State.lastDone (s : State) (t c : Nat) (m : Mask) (p : Word64) : Bool :=
  s.effected t c m && s.waitsOver t c m && ((s.crew t c).outs.all fun o => o.left.isNone) &&
    (s.copies.all fun k => k.team != t || k.crew != c || k.orphan.isSome || k.pc + 8 != p || k.lanes &&& m == 0) &&
    s.mops.all fun k => k.team != t || k.crew != c || k.pc + 8 != p || k.lanes &&& m == 0

/-- Fall-throughs to a word without a mark raise the illegal-instruction trap there with reason 2, once the last instruction
of the lanes that stand there has completed (R65), in all of them together (R231). -/
def State.evalFalls (s : State) (t c : Nat) : State :=
  let im := s.image t
  let cr := s.crew t c
  let lost := cr.inState fun th => th.state == .active && !im.inside th.pc && !im.marked th.pc
  (((lanesOf lost).map fun l => (cr.th l).pc).eraseDups).foldl (fun s p =>
    let m := lost &&& maskOf fun l => (cr.th l).pc == p
    if !s.lastDone t c m p then s
    else
      let bad := cr.matrixTraps m
      ((s.mwaitTrap t c bad).modCrew t c fun cr => cr.endWaits (m &&& ~~~bad)).trapWith t c 3 (m &&& ~~~bad) (fun _ => 2)
        (fun _ => p) {} none) s

/-- The lanes of the join set of lane `l` that are held at its address, whatever set they arrived with (log 43). -/
def Crew.joinGroup (cr : Crew) (l : Nat) : Mask :=
  let k := cr.th l
  k.joinSet &&& cr.inState fun th => th.state == .held && th.holdAt == .join && th.pc == k.pc

/-- Whether the join at which lane `l` is held completes (R80). -/
def Crew.joinDone (cr : Crew) (l : Nat) : Bool :=
  let k := cr.th l
  k.state == .held && k.holdAt == .join &&
    (k.joinSet &&& ~~~cr.exited &&& ~~~cr.joinGroup l) == 0

/-- Complete joins until none completes (R80, R190); a run that still waits, as after an mwait (R378), completes none. -/
def State.joinLoop (fuel : Nat) (s : State) (t c : Nat) : State :=
  match fuel with
  | 0 => s
  | fuel + 1 =>
    let cr := s.crew t c
    match (List.range 16).find? fun l => cr.joinDone l && s.waitsOver t c (cr.joinGroup l) with
    | none => s
    | some l =>
      let im := s.image t
      let grp := cr.joinGroup l
      let p := (cr.th l).pc
      if im.marked p then
        State.joinLoop fuel (s.modCrew t c fun cr => cr.modLanes grp fun _ th => { th with state := .active }) t c
      else
        let (n, fallen) := im.after p
        let s := s.modCrew t c fun cr => cr.modLanes grp fun _ th => { th with state := .active, pc := n }
        State.joinLoop fuel (if fallen then s.settle t c grp grp else s) t c

/-- Evaluate the joins of a crew again, and report a crew that holds every thread at joins none of which can
complete (R80, R82), when what they issued earlier has taken effect (R229). A thread held at a barrier is not held in the
sense of R82 (log 46). -/
def State.evalJoins (s : State) (t c : Nat) : State :=
  let s := s.mwaitTrap t c ((s.crew t c).matrixTraps ((s.crew t c).inState fun th =>
    th.state == .held && th.holdAt == .join && s.waitOver t c th))
  let s := s.joinLoop 64 t c
  let cr := s.crew t c
  let live := maskOf (fun l => l < cr.threads.length) &&& ~~~cr.exited
  let held := cr.inState fun th => th.state == .held && th.holdAt == .join
  if live != 0 && held == live && s.effected t c held && s.waitsOver t c held then
    let low := (lanesOf held).foldl (fun m l => if (cr.th l).pc.toNat < (cr.th m).pc.toNat then l else m)
      (lowestLane held)
    let off := ((cr.th low).pc.toNat - (s.gridOf t).record.entry.toNat) % 2 ^ 18
    s.trapWith t c 10 held (fun _ => BitVec.ofNat 32 off) (fun l => (cr.th l).pc) {} none
  else s

/-- The lanes reach addresses: settle them, then evaluate the joins. -/
def State.reach (s : State) (t c : Nat) (lanes falls : Mask) : State := (s.settle t c lanes falls).evalJoins t c

/-- The lanes go on at the word after the instruction at their own addresses (R74, R320). -/
def State.goOn (s : State) (t c : Nat) (lanes : Mask) : State :=
  let im := s.image t
  let cr := s.crew t c
  let falls := lanes &&& maskOf fun l => (im.after (cr.th l).pc).2
  let s := s.modCrew t c fun cr => cr.modLanes lanes fun _ th => { th with state := .active, pc := (im.after th.pc).1 }
  s.reach t c falls falls

/-- The lanes go on at recorded addresses: at the word itself, or, for the word after a software trap that stands outside the
clause, by a fall-through (R232). -/
def State.resume (s : State) (t c : Nat) (lanes : Mask) (pc : Nat → Word64) : State :=
  let im := s.image t
  let outside := lanes &&& maskOf fun l => !im.inside (pc l)
  let late := outside &&& (s.crew t c).inState Thread.late
  let s := s.modCrew t c fun cr =>
    { cr.modLanes lanes fun l th => { th with state := .active, late := false, pc := pc l } with
      bundle := cr.bundle &&& ~~~lanes }
  s.reach t c outside late

/-- RETURN FROM A TRAP (R234): rft in lanes inside the handler. -/
def State.returnFromTrap (s : State) (t c : Nat) (lanes : Mask) : State :=
  let cr := s.crew t c
  let s := s.modCrew t c fun cr => cr.modLanes lanes fun _ th =>
    { th with loops := th.hloops, loopSkip := th.hskip, late := th.hlate, inh := false }
  s.resume t c lanes fun l => (cr.th l).hpc

/-! ## Outstanding accesses and barriers (R192 to R195) -/

/-- Apply `f` to every store that a scratchpad notes as not sealed (R270). -/
def State.mapUnsealed (s : State) (f : Unsealed → Unsealed) : State :=
  { s with teams := s.teams.map fun tm => { tm with unsealed := tm.unsealed.map f } }

/-- A seal of a crew orders its accesses before the copies that it issues next (R340), which read what the crew's registers
and its scratchpad stores hold now (R270); with `all`, so do those of every crew after a later barrier phase. -/
def State.sealCopies (s : State) (t c : Nat) (all : Bool) : State :=
  let out := s.pendingOf t c (BitVec.allOnes 16) fun _ => true
  let s := s.modCrew t c fun cr => { cr with copyAfter := out ++ cr.threads.flatMap Thread.beforeAll, stale := [] }
  s.mapUnsealed fun u => if u.team = t ∧ u.crew = c then { u with own := true, all := u.all || all } else u

/-- A barrier phase at which some crews arrived: what they had sealed for the team is sealed for every crew (R270). -/
def State.sealPhase (s : State) (arrived : Nat → Nat → Bool) : State :=
  { s with teams := s.teams.map fun tm =>
      { tm with unsealed := tm.unsealed.filter fun u => !(u.all && arrived u.team u.crew) } }

/-- Old words of the vector cells of some registers and lanes that have changed, for the operations that read registers
later (R270, R354). -/
def State.noteStale (s old : State) (t c : Nat) (rs : List Res) (lanes : Mask) : State :=
  if (s.gridOf t).needs.atiles = 0 then s
  else
    let was := (old.crew t c).vregs
    s.modCrew t c fun cr =>
      let cells := (rs.flatMap fun r => match r with
        | .v n => (lanesOf lanes).map fun l => 16 * n + l
        | _ => []).filter fun k => Sparse.get was k != Sparse.get cr.vregs k
      let new := (cells.map fun k => (k, Sparse.get was k)).filter fun p => !cr.stale.contains p
      { cr with stale := new ++ cr.stale }

/-- Whether an entry reads memory. -/
def LogEntry.loads (e : LogEntry) : Bool :=
  match e.kind with
  | .ld _ _ | .ldx _ _ _ _ _ _ | .atom _ _ _ | .red _ _ | .stload _ | .launch _ => true
  | _ => false

/-- Whether an entry counts as a load or an atomic for a fence (R269). -/
def LogEntry.loadOrAtomic (e : LogEntry) : Bool :=
  match e.kind with
  | .red _ _ | .launch _ => false
  | _ => e.loads

/-- Fences of some lanes at an instruction with order .acq, .rel or .sc, each ordered after what R269 names of its thread's
accesses, and what follows ordered after it. One of order .sc stands in the total order of its instance (`State.takeNumber`), and
comes after loads and before all, as one of order .acq. -/
def State.oneFence (s : State) (t c : Nat) (pc word : Word64) (lanes : Mask) (o : Order) (sc : Scope) : State :=
  let (id, s) := s.fresh
  let cr := s.crew t c
  let acc (l : Nat) : LaneAcc :=
    let th := cr.th l
    { lane := l, acc := s.nextAcc + l, addr := 0, data := 0, data2 := 0, elem := 0, parked := false, order := o,
      scope := sc, status := .ready (.phys 0)
      after := th.beforeAll ++ (s.pendingOf t c (laneBit l) fun e => o == .rel || e.loadOrAtomic) ++
        (if o == .rel then th.carried else [])
      stamp := cr.clock, tso := false }
  let e : LogEntry := ⟨id, (s.team t).core, t, c, pc, word, .fence, false, lanes, (lanesOf lanes).map acc, false⟩
  let ns := (lanesOf lanes).map fun l => s.nextAcc + l
  { s.modCrew t c fun cr =>
      { cr.modLanes lanes fun l th =>
          if o = .rel then { th with beforeWrites := th.beforeWrites ++ [s.nextAcc + l] }
          else { th with beforeAll := th.beforeAll ++ [s.nextAcc + l] } with
        copyAfter := if o = .acq then cr.copyAfter else cr.copyAfter ++ ns } with
    log := s.log ++ [e]
    nextAcc := s.nextAcc + 16 }

/-- A fence of some lanes (R269): .ar is .acq and .rel side by side, which leave an earlier store and a later load
unordered, and .sc is .rel and a place in the order of its instance. -/
def State.addFence (s : State) (t c : Nat) (pc word : Word64) (lanes : Mask) (o : Order) (sc : Scope) : State :=
  match o with
  | .ar => (s.oneFence t c pc word lanes .acq sc).oneFence t c pc word lanes .rel sc
  | .sc => (s.oneFence t c pc word lanes .rel sc).oneFence t c pc word lanes .sc sc
  | o => s.oneFence t c pc word lanes o sc

def BitVec.popcount {w : Nat} (x : BitVec w) : Nat := (List.range w).countP fun i => x.getLsbD i

/-- Lanes of a crew that are held at a barrier. -/
def Crew.heldAt (cr : Crew) (h : HoldAt) : Mask := cr.inState fun th => th.state == .held && th.holdAt == h

/-- Apply `f` to every crew of a team with lanes held at a barrier. -/
def State.forHeld (s : State) (t : Nat) (h : HoldAt) (f : State → Nat → Mask → State) : State :=
  (List.range (s.team t).crews.length).foldl (fun s c =>
    let m := (s.crew t c).heldAt h
    if m = 0 then s else f s c m) s

/-- The accesses that the lanes held at a barrier have outstanding, and those they were already ordered behind. -/
def State.barrierAccs (s : State) (t : Nat) (h : HoldAt) : List Nat :=
  (List.range (s.team t).crews.length).flatMap fun c =>
    let m := (s.crew t c).heldAt h
    s.pendingAccs t c m ++ (lanesOf m).flatMap fun l => ((s.crew t c).th l).beforeAll

/-- A completed phase: the held lanes go on, ordered after every access of the phase (R192, R194); a cohort's phase is an acquire
at .cohort, performed after these (R195, R284). -/
def State.releaseBarrier (s : State) (t : Nat) (h : HoldAt) (accs : List Nat) : State :=
  s.forHeld t h fun s c m =>
    let s := s.modCrew t c fun cr => cr.modLanes m fun _ th => { th with beforeAll := (th.beforeAll ++ accs).eraseDups }
    (if h = .cohort then s.oneFence t c ((s.crew t c).th (lowestLane m)).pc 0 m .acq .cohort else s).goOn t c m

/-- R233: the guard-touch report in place of a phase that would complete, in every lane held at the barrier. -/
def State.reportGuard (s : State) (t : Nat) (h : HoldAt) (info : Word32) : State :=
  let s := s.modTeam t fun tm => { tm with guard := none }
  s.forHeld t h fun s c m =>
    let cr := s.crew t c
    s.trapWith t c 7 m (fun _ => info) (fun l => (cr.th l).pc) { imprecise := true } none

/-- Record what the advance of a stage is ordered after: every access that a crew has still to perform (R330, R340). -/
def State.noteStage (s : State) (t c : Nat) (r : Fin 16) (stage : Nat) (release : Bool) : State :=
  let cr := s.crew t c
  let accs := s.pendingAccs t c (BitVec.allOnes 16) ++ cr.threads.flatMap Thread.beforeAll
  let old (k : StageNote) : Bool := k.ring == r && k.stage == stage && k.release == release
  s.modTeam t fun tm => { tm with
    notes := ⟨r, stage, release, accs.eraseDups⟩ :: tm.notes.filter fun k => !old k }

/-- What an advance of a stage is ordered after. -/
def Team.noted (tm : Team) (r : Fin 16) (stage : Nat) (release : Bool) : List Nat :=
  (tm.notes.filter fun k => k.ring == r && k.stage == stage && k.release == release).flatMap StageNote.accs

/-- The stores that a crew has sealed will be released by the next toggle of a stage (R330). -/
def State.tagStage (s : State) (t c : Nat) (r : Fin 16) (stage : Nat) : State :=
  s.mapUnsealed fun u => if u.team = t ∧ u.crew = c ∧ u.own then { u with stages := (r.val, stage) :: u.stages } else u

/-- Lanes that have observed the toggle of a ring's consumer stage are ordered after what it is ordered after, and their crew's
engines see the stores that it released (R330). -/
def State.observeStage (s : State) (t c : Nat) (r : Fin 16) (lanes : Mask) : State :=
  let stage := (nth (s.team t).rings r.val).cons
  let s := s.mapUnsealed fun u => if u.team = t ∧ u.stages.contains (r.val, stage) then { u with seen := c :: u.seen } else u
  match (s.team t).noted r stage false with
  | [] => s
  | accs => s.modCrew t c fun cr => cr.modLanes lanes fun _ th => { th with beforeAll := (th.beforeAll ++ accs).eraseDups }

/-- R442: the die's vector covers the crew's dependency clock. -/
def State.clocksHold (s : State) (t c : Nat) : Bool :=
  let cr := s.crew t c
  let d := s.die ((s.team t).core / 64)
  (List.range 4).all fun j => decide ((nth cr.clock j).toNat ≤ (nth d.vector j).toNat)

/-- R442: every crew with lanes held at a barrier has performed its arrival, its clock being covered. A restored team whose
image has not come yet does not go on. -/
def State.arrivalsDone (s : State) (t : Nat) (h : HoldAt) : Bool :=
  s.imageHere t && (List.range (s.team t).crews.length).all fun c => (s.crew t c).heldAt h == 0 || s.clocksHold t c

/-- R229: every instruction that the lanes held at a barrier issued earlier has taken full effect. -/
def State.heldEffected (s : State) (t : Nat) (h : HoldAt) : Bool :=
  (List.range (s.team t).crews.length).all fun c => s.effected t c ((s.crew t c).heldAt h)

def barInfo (b : Nat) : Word32 := BitVec.ofNat 32 (b + 2 ^ 20)

/-- Crews of a team that still have a non-exited thread, as a set. -/
def Team.liveCrews (tm : Team) : BitVec 64 :=
  (List.range tm.crews.length).foldl (fun m c => if (nth tm.crews c).live then m ||| ((1 : BitVec 64) <<< c) else m) 0

/-- Evaluate barrier `b` of a team (R192, R193). What the arrived lanes have issued orders what is issued after the phase
(R194, R281), and does not hold the phase up beyond R442. A mismatch cancels the arrivals and the target of
the phase, as a report of R233 does (log 47). -/
def State.evalBar (s : State) (t : Nat) (b : Fin 4) : State :=
  let tm := s.team t
  let br := nth tm.bars b.val
  let live := tm.liveCrews
  let target := if br.target = 0 then BitVec.popcount live else br.target
  let h := HoldAt.bar b
  let cancelled (s : State) := s.modTeam t fun tm =>
    { tm with bars := upd tm.bars b.val fun br => { br with arrived := 0, tset := false, target := 0 } }
  if !br.tset then s
  else if target ≤ BitVec.popcount br.arrived then
    if !s.arrivalsDone t h then s
    else match tm.guard with
    | some info => (cancelled s).reportGuard t h info
    | none =>
      let accs := s.barrierAccs t h
      let s := (cancelled s).modTeam t fun tm =>
        { tm with bars := upd tm.bars b.val fun br => { br with phase := !br.phase } }
      (s.sealPhase fun k c => k == t && br.arrived.getLsbD c).releaseBarrier t h accs
  else if BitVec.popcount (br.arrived ||| live) < target && s.heldEffected t h then
    (cancelled s).forHeld t h fun s c m =>
      let cr := s.crew t c
      s.trapWith t c 10 m (fun _ => barInfo b.val) (fun l => (cr.th l).pc) {} none
  else s

/-- The teams of a team's cohort that have not retired (R70, R195); one that is killed for good counts as retired, and one
that waits to be relaunched does not (log 48). -/
def State.cohort (s : State) (t : Nat) : List Nat :=
  let tm := s.team t
  let c := (s.grid tm.grid).record.cohort
  (List.range s.teams.length).filter fun k =>
    let o := s.team k
    o.grid == tm.grid && o.index / c == tm.index / c && o.status != .retired && o.status != .dead

/-- %tinfo of the report of a cohort's phase in the lanes of one team: its own touch, or else the first touch of its mates
(R233, log 49). -/
def State.cohortTouch (s : State) (mates : List Nat) (t : Nat) : Word32 :=
  match (s.team t).guard with
  | some info => info
  | none => (mates.findSome? fun k => (s.team k).guard).getD 0

/-- Whether an access has to be performed before what the other teams of a cohort order after it: it is not, and does not wait for
its own team's turn in an ordered grid (R295, R298). -/
def AccStatus.holdsPhase : AccStatus → Bool
  | .ordered _ | .stageWait _ _ => false
  | st => st.pends

/-- Whether an access of the list holds back what a team orders after it: it is still to be performed, and does not wait for the
turn of another team. -/
def State.holdsBack (s : State) (t n : Nat) : Bool :=
  s.log.any fun e => e.lanes.any fun a => a.acc == n && (if e.team = t then a.status.pends else a.status.holdsPhase)

/-- Evaluate the cohort barrier (R195), as R194 has it. A phase does not complete while a team of the cohort is being saved or is
saved, since its lanes could not be released. -/
def State.evalCohort (s : State) (t : Nat) : State :=
  let arrive (s : State) (k : Nat) := s.modTeam k fun tm =>
    { tm with bars := upd tm.bars 4 fun br =>
      { br with teamArr := br.tset && (tm.liveCrews &&& ~~~br.arrived) == 0 } }
  let mates := s.cohort t
  let s := mates.foldl arrive s
  let clear (flip : Bool) (s : State) (k : Nat) := s.modTeam k fun tm =>
    { tm with bars := upd tm.bars 4 fun br =>
      ⟨if flip then !br.phase else br.phase, 0, false, 0, false⟩ }
  if mates.isEmpty || mates.any fun k => !(nth (s.team k).bars 4).teamArr || (s.team k).status != .resident then s
  else
    if mates.any fun k => !s.arrivalsDone k .cohort then s
    else if mates.all fun k => (s.team k).guard.isNone then
      let accs := mates.flatMap fun k => s.barrierAccs k .cohort
      let arrived (k c : Nat) : Bool := mates.contains k && (nth (s.team k).bars 4).arrived.getLsbD c
      let s := s.sealPhase arrived
      let s := mates.foldl (clear true) s
      mates.foldl (fun s k => s.releaseBarrier k .cohort accs) s
    else
      let info := s.cohortTouch mates
      mates.foldl (fun s k => (clear false s k).reportGuard k .cohort (info k)) s

/-- Crews of a set (R349). -/
def setCrews (base cnt : Nat) : List Nat := (List.range (2 ^ cnt)).map fun k => base + k

/-- R350: an armed register whose every member has signed starts its operation. -/
def State.evalConv (s : State) (t : Nat) (n : Fin 8) : State :=
  let tm := s.team t
  let k := nth tm.conv n.val
  let crews := setCrews k.setbase k.setcnt
  let done := (List.range crews.length).all fun i =>
    let cr := nth tm.crews (nth crews i)
    let signed : Mask := k.arrived.extractLsb' (16 * i) 16
    (maskOf (fun l => l < cr.threads.length) &&& ~~~cr.exited &&& ~~~signed) == 0
  if k.state = .armed ∧ k.arrived ≠ 0 ∧ done then
    { s.modTeam t fun tm => { tm with conv := upd tm.conv n.val fun k => { k with state := .started } } with
      mops := s.mops.map fun m =>
        if m.team = t ∧ m.cv = some n ∧ m.stage = .armed then { m with stage := .issued, order := s.nextId } else m
      nextId := s.nextId + 1 }
  else s

/-- R191, R193: evaluate everything that a thread's exit or a crew's retirement can complete. -/
def State.evalBarriers (s : State) (t : Nat) : State :=
  let s := ((((s.evalBar t 0).evalBar t 1).evalBar t 2).evalBar t 3).evalCohort t
  (List.range 8).foldl (fun s n => s.evalConv t (Fin.ofNat 8 n)) s

/-! ## The frame of a crew instruction -/

/-- An instruction at issue: its team and crew, its address and word, the header of its clause, the lanes of its
bundle and of Active() (R74), and its operand fields. -/
structure Issue where
  t : Nat
  c : Nat
  pc : Word64
  word : Word64
  header : Word64
  lanes : Mask
  act : Mask
  inf : Info
  deriving Repr

/-- The issue of an instruction by the crew that `cur` names. -/
def State.issuing (s : State) (i : Instr) : Option Issue :=
  match s.cur, info i with
  | some x, some f =>
    let cr := s.crew x.team x.crew
    let p := cr.p f.guard.pred.val
    some ⟨x.team, x.crew, x.pc, x.word, x.header, cr.bundle,
      cr.bundle &&& (if f.guard.pn then ~~~p else p), f⟩
  | _, _ => none

/-- Conditions of the whole instruction that its own rules add: an illegal-instruction trap of every lane of the
bundle (R67), one of Active() alone, and further resources that a seal protects (R17, R327, R354). -/
structure Checks where
  bundle : Option Word32 := none
  active : Option Word32 := none
  reads : List Res := []

def noChecks (_ : Issue) : Checks := {}

/-- R99: an operand field beyond the registers or tiles of the team. -/
def State.outOfRange (s : State) (x : Issue) : Bool :=
  let n := (s.gridOf x.t).needs
  decide (n.vregs < x.inf.vlimit) || x.inf.tiles.any fun k => decide (n.atiles ≤ k)

/-- R25: the crew's role, and the any role beside ring instructions. -/
def State.roleRefused (s : State) (x : Issue) : Bool :=
  let r := (s.gridOf x.t).record
  !x.inf.roleOk (r.role x.c) ||
    (x.inf.major == 0x73 && (List.range r.crews).any fun c => r.role c == 3)

def State.roleInfo (s : State) (x : Issue) : Word32 :=
  BitVec.ofNat 32 (x.inf.major + 256 * (s.gridOf x.t).record.role x.c)

/-- Operand code or tile number of a sealed resource (R227, R327). -/
def Res.sealInfo : Res → Word32
  | .v n => BitVec.ofNat 32 n
  | .s n => BitVec.ofNat 32 (768 + n)
  | .acc n => BitVec.ofNat 32 (n + 1024)
  | .tile n => BitVec.ofNat 32 (n + 2048)
  | .stencil n => BitVec.ofNat 32 n
  | .mem => 0

/-- Whether a seal of the crew, or for a tile register of any crew of the team (R327), protects the resource. -/
def State.protectedRes (s : State) (t c : Nat) (r : Res) : Bool :=
  match r with
  | .tile _ => (s.team t).crews.any fun cr => cr.isSealed r
  | r => (s.crew t c).isSealed r

/-- The first protected resource that the instruction would touch. -/
def State.sealHit (s : State) (x : Issue) (extra : List Res) : Option Res :=
  (x.inf.dsts ++ extra).find? fun r => s.protectedRes x.t x.c r

/-- Lanes of the bundle that a trap takes between two states: the whole bundle when the team is killed, else the lanes
that it parks with a report or sends to the handler. -/
def State.trapped (s r : State) (x : Issue) : Mask :=
  if (r.team x.t).status ≠ (s.team x.t).status then x.lanes
  else x.lanes &&& maskOf fun l =>
    let a := (s.crew x.t x.c).th l
    let b := (r.crew x.t x.c).th l
    (a.state != .parked && b.state == .parked && (b.parkWhy == .report || b.parkWhy == .breakpoint)) || (b.inh && !a.inh)

/-- R229: every instruction that a trapped lane issued earlier has taken full effect, and so the instruction stalls until
then. -/
def State.orStall (s r : State) (x : Issue) : State :=
  if s.effected x.t x.c (s.trapped r x) then r else s.stall

/-- THE FRAME OF EVERY CREW INSTRUCTION: the classes that the whole instruction may raise, in the order of R229
(illegal instruction, role, sealed register), and else its own effect. -/
def crewOp (i : Instr) (s : State) (checks : Issue → Checks) (k : Issue → State) : Result :=
  match s.issuing i with
  | none => .fault .noIssuer
  | some x =>
    let ck := checks x
    .next (s.orStall (
      if s.outOfRange x then s.trap x.t x.c 3 x.lanes (fun _ => 0) x.pc
      else
        match ck.bundle, ck.active with
        | some tinfo, _ => s.trap x.t x.c 3 x.lanes (fun _ => tinfo) x.pc
        | none, some tinfo => s.trap x.t x.c 3 x.act (fun _ => tinfo) x.pc
        | none, none =>
          if s.roleRefused x then s.trap x.t x.c 2 x.act (fun _ => s.roleInfo x) x.pc
          else
            match s.sealHit x ck.reads with
            | some r => s.trap x.t x.c 1 x.act (fun _ => r.sealInfo) x.pc
            | none => k x) x)

/-- A crew has issued (R78). -/
def State.spend (s : State) (t c : Nat) : State :=
  { s.modCrew t c fun cr => { cr with lastIssue := s.issues, age := 0, headed := none } with budget := s.budget - 1 }

/-- A crew instruction whose effect is one update of its crew. -/
def crewUpdate (i : Instr) (s : State) (f : Issue → Crew → Crew) : Result :=
  crewOp i s noChecks fun x => s.modCrew x.t x.c (f x)

end Sys2Proof.Machine
end

