-- ==== Sys2Proof/Machine/Integer.lean ====
section
/-! DEFINITION. Integer, address and predicate instructions (R133 to R157). -/

namespace Sys2Proof.Machine

/-! ## Terms of R134 -/

/-- N. -/
def nbits (w : Bool) : Nat := if w then 64 else 32

def IntTy.sgn (t : IntTy) : Bool := t == .s32

/-- Val of an N-bit pattern. -/
def valOf (sg w : Bool) (u : Nat) : Int := if sg then signed (nbits w) u else (u : Int)

/-- Clamp to the type at width N. -/
def clampTo (sg w : Bool) (x : Int) : Int :=
  let n := nbits w
  if sg then min (max x (-(2 : Int) ^ (n - 1))) ((2 : Int) ^ (n - 1) - 1) else min (max x 0) ((2 : Int) ^ n - 1)

/-- The result of R140: wrapped, or clamped with .sat. -/
def narrow (sg w sat : Bool) (x : Int) : Nat := wrap (nbits w) (if sat then clampTo sg w x else x)

/-- IMM20 sign-extended to N bits (R61, R134). -/
def immBits (w : Bool) (imm : BitVec 20) : Nat := wrap (nbits w) imm.toInt

def State.val (s : State) (x : Issue) (sg w : Bool) (o : Opnd) (l : Nat) : Int := valOf sg w (s.bits x.t x.c w o l)

/-- An instruction that computes D in the lanes of Active(), or once in uniform form (R134, R137). -/
def laneOp (i : Instr) (s : State) (d : Dst) (w : Bool) (f : Issue → Nat → Nat) : Result :=
  crewUpdate i s fun x cr => cr.write d w x.act (f x)

/-! ## Arithmetic (R140 to R144) -/

def execIadd (g : Guard) (t : IntTy) (w sat : Bool) (d : Dst) (a b : Opnd) (s : State) : Result :=
  laneOp (.iadd g t w sat d a b) s d w fun x l =>
    narrow (IntTy.sgn t) w sat (s.val x (IntTy.sgn t) w a l + s.val x (IntTy.sgn t) w b l)

def execIaddImm (g : Guard) (t : IntTy) (w sat : Bool) (d : Dst) (a : Opnd) (imm : BitVec 20) (s : State) : Result :=
  laneOp (.iaddImm g t w sat d a imm) s d w fun x l =>
    narrow (IntTy.sgn t) w sat (s.val x (IntTy.sgn t) w a l + valOf (IntTy.sgn t) w (immBits w imm))

def execIsub (g : Guard) (t : IntTy) (w sat : Bool) (d : Dst) (a b : Opnd) (s : State) : Result :=
  laneOp (.isub g t w sat d a b) s d w fun x l =>
    narrow (IntTy.sgn t) w sat (s.val x (IntTy.sgn t) w a l - s.val x (IntTy.sgn t) w b l)

def execImul (g : Guard) (t : IntTy) (w : Bool) (d : Dst) (a b : Opnd) (s : State) : Result :=
  laneOp (.imul g t w d a b) s d w fun x l =>
    narrow (IntTy.sgn t) w false (s.val x (IntTy.sgn t) w a l * s.val x (IntTy.sgn t) w b l)

/-- High half of the exact product (R141). -/
def mulHigh (sg w : Bool) (a b : Nat) : Nat :=
  wrap (nbits w) (Int.fdiv (valOf sg w a * valOf sg w b) ((2 : Int) ^ nbits w))

def execImulhi (g : Guard) (sg w : Bool) (d : Dst) (a b : Opnd) (s : State) : Result :=
  laneOp (.imulhi g sg w d a b) s d w fun x l => mulHigh sg w (s.bits x.t x.c w a l) (s.bits x.t x.c w b l)

def execImad (g : Guard) (t : IntTy) (w sat : Bool) (d : Dst) (a b c : Opnd) (s : State) : Result :=
  laneOp (.imad g t w sat d a b c) s d w fun x l =>
    narrow (IntTy.sgn t) w sat
      (s.val x (IntTy.sgn t) w a l * s.val x (IntTy.sgn t) w b l + s.val x (IntTy.sgn t) w c l)

/-- Quotient and remainder of R142. -/
def divRem (sg w : Bool) (a b : Int) : Int × Int :=
  if b = 0 then (-1, a)
  else if sg && a == -(2 : Int) ^ (nbits w - 1) && b == -1 then (a, 0)
  else (Int.tdiv a b, Int.tmod a b)

def execIdiv (g : Guard) (sg w : Bool) (d : Dst) (a b : Opnd) (s : State) : Result :=
  laneOp (.idiv g sg w d a b) s d w fun x l => wrap (nbits w) (divRem sg w (s.val x sg w a l) (s.val x sg w b l)).1

def execIrem (g : Guard) (sg w : Bool) (d : Dst) (a b : Opnd) (s : State) : Result :=
  laneOp (.irem g sg w d a b) s d w fun x l => wrap (nbits w) (divRem sg w (s.val x sg w a l) (s.val x sg w b l)).2

def execImin (g : Guard) (sg w : Bool) (d : Dst) (a b : Opnd) (s : State) : Result :=
  laneOp (.imin g sg w d a b) s d w fun x l => wrap (nbits w) (min (s.val x sg w a l) (s.val x sg w b l))

def execImax (g : Guard) (sg w : Bool) (d : Dst) (a b : Opnd) (s : State) : Result :=
  laneOp (.imax g sg w d a b) s d w fun x l => wrap (nbits w) (max (s.val x sg w a l) (s.val x sg w b l))

/-- The value that a predicate has for lane `l` of a destination: in uniform form, in the lowest lane of Active()
(R137). -/
def State.predFor (s : State) (x : Issue) (d : Dst) (p : Fin 16) (l : Nat) : Bool :=
  ((s.crew x.t x.c).p p.val).getLsbD (match d with
    | .v _ => l
    | .s _ => lowestLane x.act)

/-- iaddc and isubb (R144): the exact result `f l` gives D, and whether it is outside [0, 2^N) the carry-out,
which a uniform form writes to every lane of Active() (R137). -/
def carryOp (i : Instr) (s : State) (d : Dst) (w : Bool) (p : Fin 16) (f : Issue → Nat → Int) : Result :=
  crewUpdate i s fun x cr =>
    let out (l : Nat) : Bool :=
      let v := f x (match d with
        | .v _ => l
        | .s _ => lowestLane x.act)
      decide (v < 0) || decide ((2 : Int) ^ nbits w ≤ v)
    (cr.write d w x.act fun l => wrap (nbits w) (f x l)).setP p.val x.act (maskOf out)

def bitInt (b : Bool) : Int := if b then 1 else 0

def execIaddc (g : Guard) (w : Bool) (d : Dst) (a b : Opnd) (p : Fin 16) (s : State) : Result :=
  carryOp (.iaddc g w d a b p) s d w p fun x l =>
    s.val x false w a l + s.val x false w b l + bitInt (s.predFor x d p l)

def execIsubb (g : Guard) (w : Bool) (d : Dst) (a b : Opnd) (p : Fin 16) (s : State) : Result :=
  carryOp (.isubb g w d a b p) s d w p fun x l =>
    s.val x false w a l - s.val x false w b l - bitInt (s.predFor x d p l)

/-! ## Logic, shifts, bit fields (R145 to R149) -/

def andn (w : Bool) (a b : Nat) : Nat := a &&& (b ^^^ (2 ^ nbits w - 1))

def execAndL (g : Guard) (w : Bool) (d : Dst) (a b : Opnd) (s : State) : Result :=
  laneOp (.andL g w d a b) s d w fun x l => s.bits x.t x.c w a l &&& s.bits x.t x.c w b l

def execOrL (g : Guard) (w : Bool) (d : Dst) (a b : Opnd) (s : State) : Result :=
  laneOp (.orL g w d a b) s d w fun x l => s.bits x.t x.c w a l ||| s.bits x.t x.c w b l

def execXorL (g : Guard) (w : Bool) (d : Dst) (a b : Opnd) (s : State) : Result :=
  laneOp (.xorL g w d a b) s d w fun x l => s.bits x.t x.c w a l ^^^ s.bits x.t x.c w b l

def execAndnL (g : Guard) (w : Bool) (d : Dst) (a b : Opnd) (s : State) : Result :=
  laneOp (.andnL g w d a b) s d w fun x l => andn w (s.bits x.t x.c w a l) (s.bits x.t x.c w b l)

def execAndImm (g : Guard) (w : Bool) (d : Dst) (a : Opnd) (imm : BitVec 20) (s : State) : Result :=
  laneOp (.andImm g w d a imm) s d w fun x l => s.bits x.t x.c w a l &&& immBits w imm

def execOrImm (g : Guard) (w : Bool) (d : Dst) (a : Opnd) (imm : BitVec 20) (s : State) : Result :=
  laneOp (.orImm g w d a imm) s d w fun x l => s.bits x.t x.c w a l ||| immBits w imm

def execXorImm (g : Guard) (w : Bool) (d : Dst) (a : Opnd) (imm : BitVec 20) (s : State) : Result :=
  laneOp (.xorImm g w d a imm) s d w fun x l => s.bits x.t x.c w a l ^^^ immBits w imm

def execAndnImm (g : Guard) (w : Bool) (d : Dst) (a : Opnd) (imm : BitVec 20) (s : State) : Result :=
  laneOp (.andnImm g w d a imm) s d w fun x l => andn w (s.bits x.t x.c w a l) (immBits w imm)

/-- The shifts of R146 of an N-bit pattern by an unsigned count. -/
def shiftL (w : Bool) (a n : Nat) : Nat := if n < nbits w then a * 2 ^ n % 2 ^ nbits w else 0

def shiftR (w : Bool) (a n : Nat) : Nat := if n < nbits w then a / 2 ^ n else 0

def shiftA (w : Bool) (a n : Nat) : Nat :=
  let v := valOf true w a
  if n < nbits w then wrap (nbits w) (Int.fdiv v ((2 : Int) ^ n)) else if 0 ≤ v then 0 else 2 ^ nbits w - 1

def rotateL (w : Bool) (a n : Nat) : Nat :=
  let k := n % nbits w
  (a * 2 ^ k + a / 2 ^ (nbits w - k)) % 2 ^ nbits w

def execShl (g : Guard) (w : Bool) (d : Dst) (a b : Opnd) (s : State) : Result :=
  laneOp (.shl g w d a b) s d w fun x l => shiftL w (s.bits x.t x.c w a l) (s.rd32 x.t x.c b l)

def execShr (g : Guard) (w : Bool) (d : Dst) (a b : Opnd) (s : State) : Result :=
  laneOp (.shr g w d a b) s d w fun x l => shiftR w (s.bits x.t x.c w a l) (s.rd32 x.t x.c b l)

def execSar (g : Guard) (w : Bool) (d : Dst) (a b : Opnd) (s : State) : Result :=
  laneOp (.sar g w d a b) s d w fun x l => shiftA w (s.bits x.t x.c w a l) (s.rd32 x.t x.c b l)

def execRotl (g : Guard) (w : Bool) (d : Dst) (a b : Opnd) (s : State) : Result :=
  laneOp (.rotl g w d a b) s d w fun x l => rotateL w (s.bits x.t x.c w a l) (s.rd32 x.t x.c b l)

def execRotr (g : Guard) (w : Bool) (d : Dst) (a b : Opnd) (s : State) : Result :=
  laneOp (.rotr g w d a b) s d w fun x l =>
    rotateL w (s.bits x.t x.c w a l) (nbits w - s.rd32 x.t x.c b l % nbits w)

def execIneg (g : Guard) (w sat : Bool) (d : Dst) (a : Opnd) (s : State) : Result :=
  laneOp (.ineg g w sat d a) s d w fun x l => narrow true w sat (0 - s.val x true w a l)

def execIabs (g : Guard) (w sat : Bool) (d : Dst) (a : Opnd) (s : State) : Result :=
  laneOp (.iabs g w sat d a) s d w fun x l => narrow true w sat ((s.val x true w a l).natAbs)

def execNotL (g : Guard) (w : Bool) (d : Dst) (a : Opnd) (s : State) : Result :=
  laneOp (.notL g w d a) s d w fun x l => s.bits x.t x.c w a l ^^^ (2 ^ nbits w - 1)

/-- Bit counts of an `n`-bit pattern (R147). -/
def ones (n u : Nat) : Nat := (List.range n).countP fun i => u.testBit i

def trailing (n u : Nat) : Nat := ((List.range n).find? fun i => u.testBit i).getD n

def leading (n u : Nat) : Nat := ((List.range n).find? fun i => u.testBit (n - 1 - i)).getD n

def reversed (n u : Nat) : Nat := (List.range n).foldl (fun r i => 2 * r + (u / 2 ^ i) % 2) 0

def execPopc (g : Guard) (w : Bool) (d : Dst) (a : Opnd) (s : State) : Result :=
  laneOp (.popc g w d a) s d false fun x l => ones (nbits w) (s.bits x.t x.c w a l)

def execClz (g : Guard) (w : Bool) (d : Dst) (a : Opnd) (s : State) : Result :=
  laneOp (.clz g w d a) s d false fun x l => leading (nbits w) (s.bits x.t x.c w a l)

def execCtz (g : Guard) (w : Bool) (d : Dst) (a : Opnd) (s : State) : Result :=
  laneOp (.ctz g w d a) s d false fun x l => trailing (nbits w) (s.bits x.t x.c w a l)

def execBrev (g : Guard) (w : Bool) (d : Dst) (a : Opnd) (s : State) : Result :=
  laneOp (.brev g w d a) s d w fun x l => reversed (nbits w) (s.bits x.t x.c w a l)

/-- Position and length of R148. -/
def fieldAt (w : Bool) (b c : Nat) : Nat × Nat :=
  let p := min (b % 256) (nbits w)
  (p, min (c % 256) (nbits w - p))

def extractField (sg w : Bool) (a b c : Nat) : Nat :=
  let (p, n) := fieldAt w b c
  let f := a / 2 ^ p % 2 ^ n
  if sg && decide (0 < n) then wrap (nbits w) (signed n f) else f

def insertField (w : Bool) (d a b c : Nat) : Nat :=
  let (p, n) := fieldAt w b c
  d % 2 ^ p + (a % 2 ^ n) * 2 ^ p + d / 2 ^ (p + n) * 2 ^ (p + n)

def execBfe (g : Guard) (sg w : Bool) (d : Dst) (a b c : Opnd) (s : State) : Result :=
  laneOp (.bfe g sg w d a b c) s d w fun x l =>
    extractField sg w (s.bits x.t x.c w a l) (s.rd32 x.t x.c b l) (s.rd32 x.t x.c c l)

/-- A destination read as a source. -/
def dstOpnd : Dst → Opnd
  | .v n => .v n
  | .s n => .s n

def execBfi (g : Guard) (w : Bool) (d : Dst) (a b c : Opnd) (s : State) : Result :=
  laneOp (.bfi g w d a b c) s d w fun x l =>
    insertField w (s.bits x.t x.c w (dstOpnd d) l) (s.bits x.t x.c w a l) (s.rd32 x.t x.c b l) (s.rd32 x.t x.c c l)

/-- R149. -/
def permuteNibbles (a b c : Nat) : Nat :=
  let ab := a + b * 2 ^ 32
  (List.range 8).foldl (fun r j => r + ab / 16 ^ (c / 16 ^ j % 16) % 16 * 16 ^ j) 0

def execPrmt (g : Guard) (d : Dst) (a b c : Opnd) (s : State) : Result :=
  laneOp (.prmt g d a b c) s d false fun x l =>
    permuteNibbles (s.rd32 x.t x.c a l) (s.rd32 x.t x.c b l) (s.rd32 x.t x.c c l)

/-! ## Comparison, selection and moves (R150 to R155) -/

def icond (c : ICond) (a b : Int) : Bool :=
  match c with
  | .eq => a == b
  | .ne => a != b
  | .lt => decide (a < b)
  | .le => decide (a ≤ b)
  | .gt => decide (b < a)
  | .ge => decide (b ≤ a)

/-- An instruction that writes a predicate in the lanes of Active(). -/
def predOp (i : Instr) (s : State) (d : Fin 16) (f : Issue → Nat → Bool) : Result :=
  crewUpdate i s fun x cr => cr.setP d.val x.act (maskOf (f x))

def execIcmp (g : Guard) (t : IntTy) (w : Bool) (c : ICond) (p : Fin 16) (a b : Opnd) (s : State) : Result :=
  predOp (.icmp g t w c p a b) s p fun x l => icond c (s.val x (IntTy.sgn t) w a l) (s.val x (IntTy.sgn t) w b l)

def execIcmpImm (g : Guard) (t : IntTy) (w : Bool) (c : ICond) (p : Fin 16) (a : Opnd) (imm : BitVec 20) (s : State) :
    Result :=
  predOp (.icmpImm g t w c p a imm) s p fun x l =>
    icond c (s.val x (IntTy.sgn t) w a l) (valOf (IntTy.sgn t) w (immBits w imm))

def execIsel (g : Guard) (w : Bool) (d : Dst) (a b : Opnd) (p : Fin 16) (s : State) : Result :=
  laneOp (.isel g w d a b p) s d w fun x l =>
    if s.predFor x d p l then s.bits x.t x.c w a l else s.bits x.t x.c w b l

def execMov (g : Guard) (w : Bool) (d : Dst) (a : Opnd) (s : State) : Result :=
  laneOp (.mov g w d a) s d w fun x l => s.bits x.t x.c w a l

def execMovi (g : Guard) (w : Bool) (d : Dst) (imm : BitVec 32) (s : State) : Result :=
  laneOp (.movi g w d imm) s d w fun _ _ => if w then wrap 64 imm.toInt else imm.toNat

/-- R154. -/
def leaOf (sg : Bool) (scale a b c : Nat) : Nat :=
  wrap 64 (a + valOf sg false b * (2 : Int) ^ scale + signed 32 c)

def execLea (g : Guard) (sg : Bool) (scale : Fin 8) (d : Dst) (a b c : Opnd) (s : State) : Result :=
  laneOp (.lea g sg scale d a b c) s d true fun x l =>
    leaOf sg scale.val (s.rd64 x.t x.c a l) (s.rd32 x.t x.c b l) (s.rd32 x.t x.c c l)

/-- Bits that sext and zext take (R155). -/
def ExtTy.width : ExtTy → Nat
  | .b8 => 8
  | .b16 => 16
  | .b32 => 32

/-- The operand of sext and zext: a constant under .b16 delivers its 16-bit pattern (R57, R155). -/
def State.extBits (s : State) (t c : Nat) (ty : ExtTy) (a : Opnd) (l : Nat) : Nat :=
  match ty with
  | .b32 => s.rd32 t c a l
  | _ => s.rd16 t c a l

def execSext (g : Guard) (t : ExtTy) (w : Bool) (d : Dst) (a : Opnd) (s : State) : Result :=
  laneOp (.sext g t w d a) s d w fun x l =>
    wrap (nbits w) (signed (ExtTy.width t) (s.extBits x.t x.c t a l))

def execZext (g : Guard) (t : ExtTy) (w : Bool) (d : Dst) (a : Opnd) (s : State) : Result :=
  laneOp (.zext g t w d a) s d w fun x l => s.extBits x.t x.c t a l % 2 ^ ExtTy.width t

/-! ## Predicates (R156) -/

def State.pred (s : State) (x : Issue) (p : Fin 16) (l : Nat) : Bool := ((s.crew x.t x.c).p p.val).getLsbD l

def execPand (g : Guard) (d a b : Fin 16) (s : State) : Result :=
  predOp (.pand g d a b) s d fun x l => s.pred x a l && s.pred x b l

def execPor (g : Guard) (d a b : Fin 16) (s : State) : Result :=
  predOp (.por g d a b) s d fun x l => s.pred x a l || s.pred x b l

def execPxor (g : Guard) (d a b : Fin 16) (s : State) : Result :=
  predOp (.pxor g d a b) s d fun x l => s.pred x a l != s.pred x b l

def execPnot (g : Guard) (d a : Fin 16) (s : State) : Result :=
  predOp (.pnot g d a) s d fun x l => !s.pred x a l

def execPmov (g : Guard) (d a : Fin 16) (s : State) : Result :=
  predOp (.pmov g d a) s d fun x l => s.pred x a l

def execPmovPack (g : Guard) (d : Dst) (a : Fin 16) (s : State) : Result :=
  laneOp (.pmovPack g d a) s d false fun x _ => ((s.crew x.t x.c).p a.val).toNat

def execPmovUnpack (g : Guard) (d : Fin 16) (a : Opnd) (s : State) : Result :=
  predOp (.pmovUnpack g d a) s d fun x l => (s.rd32 x.t x.c a l).testBit l

end Sys2Proof.Machine
end

