-- ==== Sys2Proof/Machine/Control.lean ====
section
/-! DEFINITION. Control instructions: branches, calls, loops, joins, exit, barriers, arguments, special registers,
software traps, breakpoints and hints (R183 to R207). -/

namespace Sys2Proof.Machine

/-! ## Branches (R185 to R187) -/

/-- R87: pop entries until the top body contains the target. -/
def unwindTo (loops : List LoopEntry) (p : Word64) : List LoopEntry :=
  match loops with
  | [] => []
  | e :: r => if e.start.toNat ≤ p.toNat ∧ p.toNat < e.stop.toNat then e :: r else unwindTo r p

/-- The target of OFF20 (R63). -/
def branchTarget (header : Word64) (off : BitVec 20) : Word64 := header + BitVec.ofInt 64 (8 * off.toInt)

/-- The lanes `taken` go to their targets and the lanes `falls` to the next clause. -/
def State.transfer (s : State) (x : Issue) (taken : Mask) (target : Nat → Word64) (unwind : Bool) (falls : Mask) :
    State :=
  let next := (s.image x.t).nextClause x.header
  let s := s.modCrew x.t x.c fun cr =>
    (cr.modLanes taken fun l th =>
      { th with pc := target l, loops := if unwind then unwindTo th.loops (target l) else th.loops }).modLanes falls
      fun _ th => { th with pc := next }
  s.reach x.t x.c (taken ||| falls) falls

/-- A branch of the lanes `want`: those whose target has a mark take it, the others trap (R65), the lanes outside
Active() fall through. -/
def State.branch (s : State) (x : Issue) (want : Mask) (target : Nat → Word64) (unwind : Bool) : State :=
  let im := s.image x.t
  let good := want &&& maskOf fun l => im.marked (target l)
  (s.transfer x good target unwind (x.lanes &&& ~~~x.act)).trap x.t x.c 3 (want &&& ~~~good) (fun _ => 2) x.pc

def execBra (g : Guard) (off : BitVec 20) (s : State) : Result :=
  crewOp (.bra g off) s noChecks fun x => s.branch x x.act (fun _ => branchTarget x.header off) true

/-- Entry count of a jump table (R64); a table that begins outside the resident image has none (log 50). -/
def Image.tableCount (im : Image) (table : Word64) : Nat := ((im.word table).getD 0).toNat % 512

/-- Target that entry `i` of a jump table gives (R64). -/
def Image.tableTarget (im : Image) (table : Word64) (i : Nat) : Word64 :=
  let w := (im.word (table + BitVec.ofNat 64 (8 + 8 * (i / 2)))).getD 0
  table + BitVec.ofInt 64 (8 * (w.extractLsb' (32 * (i % 2)) 32).toInt)

def execBrx (g : Guard) (a : Opnd) (off : BitVec 20) (s : State) : Result :=
  crewOp (.brx g a off) s noChecks fun x =>
    let im := s.image x.t
    let table := branchTarget x.header off
    let idx (l : Nat) := s.rd32 x.t x.c a l
    let beyond := x.act &&& maskOf fun l => decide (im.tableCount table ≤ idx l)
    (s.branch x (x.act &&& ~~~beyond) (fun l => im.tableTarget table (idx l)) true).trap x.t x.c 9 beyond
      (fun l => BitVec.ofNat 32 (idx l)) x.pc

def execCall (g : Guard) (d : Dst) (off : BitVec 20) (s : State) : Result :=
  crewOp (.call g d off) s noChecks fun x =>
    let im := s.image x.t
    let target := branchTarget x.header off
    let good := if im.marked target then x.act else 0
    let s := s.modCrew x.t x.c fun cr => cr.write d true good fun _ => (im.nextClause x.header).toNat
    s.branch x x.act (fun _ => target) false

def execRet (g : Guard) (a : Dst) (s : State) : Result :=
  crewOp (.ret g a) s noChecks fun x =>
    s.branch x x.act (fun l => BitVec.ofNat 64 (s.rd64 x.t x.c (dstOpnd a) l)) false

/-! ## Loops (R188, R189) -/

def wordMajor (w : Word64) : Nat := (w.extractLsb' 56 7).toNat

/-- bra, brx, call, ret and exit, which stand last in a clause (R66). -/
def branchMajor (m : Nat) : Bool := m == 0x40 || m == 0x41 || m == 0x42 || m == 0x43 || m == 0x47

/-- Majors of the instructions of the clause whose header stands at `h`. -/
def Image.majors (im : Image) (h : Word64) : List Nat :=
  (List.range ((im.header h).count + 1)).map fun i => wordMajor ((im.word (h + BitVec.ofNat 64 (8 * (i + 1)))).getD 0)

/-- Whether a loop in the clause breaks R188. -/
def State.badLoop (s : State) (x : Issue) (stop : Word64) : Bool :=
  let im := s.image x.t
  let ms := im.majors x.header
  decide (1 < ms.count 0x45) || branchMajor (ms.getLastD 0) || decide (stop.toNat ≤ (im.nextClause x.header).toNat)

def execLoop (g : Guard) (a : Opnd) (off : BitVec 20) (s : State) : Result :=
  crewOp (.loop g a off) s
    (fun x => if s.badLoop x (branchTarget x.header off) then { bundle := some 0 } else {}) fun x =>
      let im := s.image x.t
      let start := im.nextClause x.header
      let stop := branchTarget x.header off
      let cr := s.crew x.t x.c
      let zero := x.act &&& maskOf fun l => s.rd32 x.t x.c a l == 0
      let unmarked := if im.marked stop then 0 else zero
      let full := x.act &&& ~~~zero &&& maskOf fun l => decide (4 ≤ (cr.th l).loops.length)
      let s := s.modCrew x.t x.c fun cr =>
        (cr.modLanes (zero &&& ~~~unmarked) fun _ th => { th with loopSkip := some stop }).modLanes
          (x.act &&& ~~~zero &&& ~~~full) fun l th =>
            { th with loops := ⟨start, stop, BitVec.ofNat 32 (s.rd32 x.t x.c a l)⟩ :: th.loops }
      s.trap x.t x.c 3 (unmarked ||| full) (fun l => if full.getLsbD l then 3 else 2) x.pc

def execLbrk (g : Guard) (n : Fin 4) (s : State) : Result :=
  crewUpdate (.lbrk g n) s fun x cr => cr.modLanes x.act fun _ th => { th with loops := th.loops.drop (n.val + 1) }

/-! ## Joins and exit (R190, R191) -/

/-- Lanes become held and leave the bundle; with a switch marker their run waits for the results outstanding (R77). -/
def Crew.hold (cr : Crew) (lanes : Mask) (h : HoldAt) (set : Mask) (sw : Bool) : Crew :=
  { cr.modLanes lanes fun _ th => { th with
      state := .held, holdAt := h, joinSet := set
      awaits := if sw then cr.outs.map Outstanding.id else th.awaits } with
    bundle := cr.bundle &&& ~~~lanes }

def execJoin (g : Guard) (a : Opnd) (s : State) : Result :=
  crewOp (.join g a) s noChecks fun x =>
    let set := BitVec.ofNat 16 (s.rd32 x.t x.c a (lowestLane x.act))
    if x.act &&& set = 0 then s
    else (s.modCrew x.t x.c fun cr => cr.hold (x.act &&& set) .join set x.inf.guard.sw).evalJoins x.t x.c

def execExit (g : Guard) (s : State) : Result :=
  crewOp (.exit g) s noChecks fun x =>
    let s := s.modCrew x.t x.c fun cr =>
      { cr.modLanes x.act fun _ th => { th with state := .exited, loops := [] } with
        bundle := cr.bundle &&& ~~~x.act }
    let s := s.transfer x 0 (fun _ => 0) false (x.lanes &&& ~~~x.act)
    if x.act = 0 then s else s.evalBarriers x.t

/-! ## Barriers (R192 to R195), seals (R270) -/

def MemKind.returns : MemKind → Bool
  | .ld _ _ | .ldx _ _ _ _ _ _ | .atom _ _ _ | .stload _ | .launch _ => true
  | _ => false

/-- Whether an access has a scratchpad line still to be performed at; one that has not looked for its place is judged by the
windows of its address. -/
def LaneAcc.inSpad (a : LaneAcc) : Bool :=
  match a.status with
  | .presence _ _ => true
  | .ready (.spad _ _) => true
  | .clock (.spad _ _) => true
  | .hostRead (.spad _ _) => true
  | .behind | .later => a.addr.toNat / 2 ^ 48 == 0xFE
  | _ => false

/-- R270: every register write of the crew's earlier instructions has returned, and every scratchpad access has
been performed at its line. -/
def State.sealReady (s : State) (t c : Nat) : Bool :=
  (s.log.all fun e => e.team != t || e.crew != c ||
    (!e.kind.returns && e.lanes.all fun a => !a.inSpad)) &&
  (s.cross.all fun k => k.team != t || k.crew != c) &&
  (s.tasks.all fun k => k.team != t || k.crew != c) &&
  (s.mops.all fun m => m.team != t || m.crew != c || !m.kind.returns) &&
  (s.crew t c).outs.all fun o => o.left.isNone

def setBit (m : BitVec 64) (i : Nat) : BitVec 64 := m ||| ((1 : BitVec 64) <<< i)

/-- Arrival at barrier `b` of a team, 4 for the cohort barrier, with a target (R192, R193, R195); an
arrival carries a fence (R194). -/
def State.arrive (s : State) (x : Issue) (h : HoldAt) (b target : Nat) (eval : State → State) : State :=
  let br := nth (s.team x.t).bars b
  if x.act = 0 then s
  else if !br.arrived.getLsbD x.c && br.tset && br.target != target then
    s.trap x.t x.c 10 x.act (fun _ => barInfo b) x.pc
  else
    let mark (br : Barrier) : Barrier :=
      if br.arrived.getLsbD x.c then br
      else { br with tset := true, target := target, arrived := setBit br.arrived x.c }
    let s := s.modTeam x.t fun tm => { tm with bars := upd tm.bars b mark }
    let s := s.addFence x.t x.c x.pc x.word x.act .ar (if h = .cohort then .cohort else .team)
    eval (s.modCrew x.t x.c fun cr => cr.hold x.act h 0 x.inf.guard.sw)

def execBar (g : Guard) (sl : Bool) (id : Fin 4) (b : Opnd) (s : State) : Result :=
  crewOp (.bar g sl id b) s
    (fun x => if (s.team x.t).crews.length < s.rd32 x.t x.c b (lowestLane x.act) ∧ x.act ≠ 0
      then { active := some 0 } else {}) fun x =>
      if sl && x.act != 0 && !s.sealReady x.t x.c then s.stall
      else (if sl && x.act != 0 then s.sealCopies x.t x.c true else s).arrive x (.bar id) id.val
        (s.rd32 x.t x.c b (lowestLane x.act)) fun s => s.evalBar x.t id

def execCbar (g : Guard) (s : State) : Result :=
  crewOp (.cbar g) s noChecks fun x => s.arrive x .cohort 4 0 fun s => s.evalCohort x.t

/-! ## Waiting for children, election (R199, R200) -/

/-- The crew's issue is released as after a switch marker (R77): the lanes go on at the next word, each with
`wait` when it is active, and with the outstanding results to await when the word carries the marker. -/
def State.releaseRun (s : State) (x : Issue) (wait : Thread → Option RunWait) : State :=
  let s := s.modCrew x.t x.c fun cr => cr.modLanes x.lanes fun l th => { th with
    runWait := if x.act.getLsbD l then wait th else th.runWait
    awaits := if x.inf.guard.sw then cr.outs.map Outstanding.id else th.awaits }
  (s.modCrew x.t x.c fun cr => { cr with bundle := 0 }).goOn x.t x.c x.lanes

/-- A bound above 63 in an operand that the whole instruction shares (R230). -/
def State.boundCheck (s : State) (a : Opnd) (x : Issue) : Checks :=
  if 63 < s.rd32 x.t x.c a 0 then { bundle := some 0 } else {}

def execWaitChild (g : Guard) (a : Opnd) (s : State) : Result :=
  crewOp (.waitChild g a) s (s.boundCheck a) fun x =>
    if x.act = 0 then s else s.releaseRun x fun _ => some (.child (s.rd32 x.t x.c a (lowestLane x.act)))

def execElect (g : Guard) (p : Fin 16) (s : State) : Result :=
  crewUpdate (.elect g p) s fun x cr => cr.setP p.val x.act (laneBit (lowestLane x.act))

/-! ## Arguments and special registers (R201 to R203) -/

def ArgTy.bytes : ArgTy → Nat
  | .b8 => 1
  | .b16 => 2
  | .b32 => 4
  | .b64 => 8

def execLdarg (g : Guard) (t : ArgTy) (d : Dst) (off : Fin 128) (s : State) : Result :=
  laneOp (.ldarg g t d off) s d (t == .b64) fun x _ =>
    ofBytes (((s.gridOf x.t).record.args.drop off.val).take (ArgTy.bytes t))

def execMfs (g : Guard) (d : Dst) (r : SpecReg) (s : State) : Result :=
  laneOp (.mfs g d r) s d false fun x l => (s.special x.t x.c l r).toNat

/-- Write a special register in each active lane. -/
def Crew.perLane (cr : Crew) (m : Mask) (f : Nat → Thread → Thread) : Crew := cr.modLanes m f

def execMts (g : Guard) (r : SpecReg) (a : Opnd) (s : State) : Result :=
  crewOp (.mts g r a) s
    (fun x => match r with
      | .wctr n => if 6 ≤ n.val then s.boundCheck a x else {}
      | _ => {}) fun x =>
      let val (l : Nat) : Word32 := BitVec.ofNat 32 (s.rd32 x.t x.c a l)
      match r with
      | .fpflags => s.modCrew x.t x.c fun cr => cr.perLane x.act fun l th => { th with fpflags := val l &&& 31 }
      | .fptrap => s.modCrew x.t x.c fun cr => cr.perLane x.act fun l th => { th with fptrap := val l &&& 31 }
      | .mflags =>
        if x.act ≠ 0 ∧ (s.crew x.t x.c).counter 3 ≠ 0 then s.stall
        else s.modCrew x.t x.c fun cr => cr.perLane x.act fun l th => { th with mflags := val l &&& 63 }
      | .wctr n =>
        if n.val < 6 then s.trap x.t x.c 4 x.act (fun _ => 0x4F) x.pc
        else if x.act = 0 then s
        else s.modCrew x.t x.c fun cr =>
          let v := (val (lowestLane x.act)).toNat
          if n.val = 6 then { cr with w6 := v } else { cr with w7 := v }
      | _ => s.trap x.t x.c 4 x.act (fun _ => 0x4F) x.pc

/-! ## Traps, breakpoints, hints (R204 to R207) -/

def execTrap (g : Guard) (cls : Fin 14) (code : BitVec 16) (s : State) : Result :=
  crewOp (.trap g cls code) s noChecks fun x =>
    s.trapWith x.t x.c cls.val x.act (fun _ => 0x80000000 ||| code.setWidth 32) (fun _ => x.pc + 8) { sw := true } none

def execBrk (g : Guard) (code : BitVec 16) (s : State) : Result :=
  crewOp (.brk g code) s noChecks fun x =>
    if x.act = 0 then s
    else (s.modCrew x.t x.c fun cr => cr.park x.act .breakpoint fun _ => x.pc).post (s.gridOf x.t).fe
      (trapRecord x.pc (code.setWidth 32) (s.team x.t).index (s.gridOf x.t).handle x.act x.c 0 { brk := true })

def execNop (g : Guard) (s : State) : Result := crewOp (.nop g) s noChecks fun _ => s

def execYield (g : Guard) (s : State) : Result :=
  crewOp (.yield g) s noChecks fun x =>
    if x.act = 0 then s
    else (s.modCrew x.t x.c fun cr => { cr with yielding := x.lanes }).releaseRun x fun _ => none

def execRft (g : Guard) (s : State) : Result :=
  crewOp (.rft g) s noChecks fun x =>
    let inside := x.act &&& (s.crew x.t x.c).inState Thread.inh
    (s.returnFromTrap x.t x.c inside).trap x.t x.c 3 (x.act &&& ~~~inside) (fun _ => 4) x.pc

end Sys2Proof.Machine
end

