-- ==== Sys2Proof/Machine/Float.lean ====
section
/-! DEFINITION. Number formats, RoundTo, the flags and Group16Sum (R109 to R119, R125, R126, R161): every value is
an exact dyadic number until its one rounding. -/

namespace Sys2Proof.Machine

/-- A floating format (R109): exponent and mantissa bits, bias, largest finite code without the sign, and whether
it has infinities and NaNs. -/
structure FFmt where
  eb : Nat
  mb : Nat
  bias : Nat
  maxCode : Nat
  hasInf : Bool
  hasNan : Bool
  deriving DecidableEq, Repr

def FFmt.fp64 : FFmt := ⟨11, 52, 1023, 0x7FEFFFFFFFFFFFFF, true, true⟩
def FFmt.fp32 : FFmt := ⟨8, 23, 127, 0x7F7FFFFF, true, true⟩
def FFmt.fp16 : FFmt := ⟨5, 10, 15, 0x7BFF, true, true⟩
def FFmt.bf16 : FFmt := ⟨8, 7, 127, 0x7F7F, true, true⟩
def FFmt.e5m2 : FFmt := ⟨5, 2, 15, 0x7B, true, true⟩
def FFmt.e4m3 : FFmt := ⟨4, 3, 7, 0x7E, false, true⟩
def FFmt.e3m2 : FFmt := ⟨3, 2, 3, 0x1F, false, false⟩
def FFmt.e2m3 : FFmt := ⟨2, 3, 1, 0x1F, false, false⟩
def FFmt.e2m1 : FFmt := ⟨2, 1, 1, 0x7, false, false⟩

def FFmt.width (f : FFmt) : Nat := 1 + f.eb + f.mb

/-- The format of a crew type (R36). -/
def FFmt.ofTy : FTy → FFmt
  | .f16 => .fp16
  | .bf16 => .bf16
  | .f32 => .fp32
  | .f64 => .fp64

/-- A value (R110, R111): a NaN keeps its sign and its mantissa aligned to 52 bits. -/
inductive FV where
  | nan (neg : Bool) (man : Nat)
  | inf (neg : Bool)
  | fin (neg : Bool) (m : Nat) (e : Int)
  deriving DecidableEq, Repr, Inhabited

/-- Flags in the order of R113: NV, DZ, OF, UF, NX from bit 0. -/
abbrev Flags5 := BitVec 5

def fNV : Flags5 := 1
def fDZ : Flags5 := 2
def fOF : Flags5 := 4
def fUF : Flags5 := 8
def fNX : Flags5 := 16

/-- The canonical quiet NaN (R111). -/
def FV.qnan : FV := .nan false (2 ^ 51)

def FV.isNan : FV → Bool
  | .nan _ _ => true
  | _ => false

/-- A signalling NaN (R111). -/
def FV.isSnan : FV → Bool
  | .nan _ m => m < 2 ^ 51
  | _ => false

def FV.isInf : FV → Bool
  | .inf _ => true
  | _ => false

def FV.isZero : FV → Bool
  | .fin _ m _ => m == 0
  | _ => false

def FV.neg : FV → Bool
  | .nan s _ => s
  | .inf s => s
  | .fin s _ _ => s

/-- Set the quiet bit (R115). -/
def FV.quiet : FV → FV
  | .nan s m => .nan s (if m < 2 ^ 51 then m + 2 ^ 51 else m)
  | v => v

/-- The value of a code (R110, R111). -/
def FFmt.value (f : FFmt) (code : Nat) : FV :=
  let man := code % 2 ^ f.mb
  let ex := code / 2 ^ f.mb % 2 ^ f.eb
  let neg := code / 2 ^ (f.mb + f.eb) % 2 == 1
  let mag := code % 2 ^ (f.mb + f.eb)
  if f.hasInf && ex == 2 ^ f.eb - 1 then
    if man == 0 then .inf neg
    else if f.mb == 2 then .nan neg (2 ^ 51) else .nan neg (man * 2 ^ (52 - f.mb))
  else if f.hasNan && !f.hasInf && mag == f.maxCode + 1 then .nan neg (2 ^ 51)
  else if ex == 0 then .fin neg man (1 - (f.bias : Int) - f.mb)
  else .fin neg (2 ^ f.mb + man) ((ex : Int) - f.bias - f.mb)

def FFmt.signBit (f : FFmt) (neg : Bool) : Nat := if neg then 2 ^ (f.mb + f.eb) else 0

def FFmt.infCode (f : FFmt) (neg : Bool) : Nat := f.signBit neg + (2 ^ f.eb - 1) * 2 ^ f.mb

/-- A NaN result in the format (R115). -/
def FFmt.nanCode (f : FFmt) (neg : Bool) (man : Nat) : Nat :=
  if f.hasInf then
    if f.mb == 2 then f.signBit neg + 0x7E
    else
      let top := man / 2 ^ (52 - f.mb)
      let q := if top < 2 ^ (f.mb - 1) then top + 2 ^ (f.mb - 1) else top
      f.infCode neg + q
  else f.signBit neg + 0x7F

/-- Roundings of R117, R118 and R161. -/
inductive Rounding where
  | rne | rz | rd | ru
  | sr (draw : Nat)
  deriving DecidableEq, Repr, Inhabited

/-- Overflow behaviours of R117. -/
inductive Ovf where
  | sat | special | trap
  deriving DecidableEq, Repr, Inhabited

def Rounding.ofMod : Rnd → Rounding
  | .rne => .rne
  | .rz => .rz
  | .rd => .rd
  | .ru => .ru

/-- A rounded result: its code, the flags of R114, whether it is tiny (R116), and whether R117's trap is due. -/
structure Rounded where
  code : Nat
  flags : Flags5
  tiny : Bool
  trap : Bool
  deriving DecidableEq, Repr, Inhabited

def Rounded.exact (code : Nat) : Rounded := ⟨code, 0, false, false⟩

/-- A magnitude `m * 2^e`, with something below the last bit when `sticky`. -/
structure Mag where
  m : Nat
  e : Int
  sticky : Bool
  deriving DecidableEq, Repr, Inhabited

/-- The multiple of `2^q` that the magnitude rounds to, and whether it is inexact. -/
def Mag.round (x : Mag) (neg : Bool) (r : Rounding) (q : Int) : Nat × Bool :=
  let sh := q - x.e
  if sh ≤ 0 then
    let up := x.sticky && (match r with
      | .rd => neg
      | .ru => !neg
      | _ => false)
    (x.m * 2 ^ (-sh).toNat + (if up then 1 else 0), x.sticky)
  else
    let d := 2 ^ sh.toNat
    let k := x.m / d
    let rem := x.m % d
    let inexact := rem != 0 || x.sticky
    let up := match r with
      | .rne => decide (d < 2 * rem) || (2 * rem == d && (x.sticky || k % 2 == 1))
      | .rz => false
      | .rd => neg && inexact
      | .ru => !neg && inexact
      | .sr draw => decide (65536 ≤ rem * 65536 / d + draw)
    (k + (if up then 1 else 0), inexact)

/-- The code without its sign of `k * 2^q`, where `q` is the last place of the format at that magnitude. -/
def FFmt.magCode (f : FFmt) (k : Nat) (q : Int) : Nat :=
  if k < 2 ^ f.mb then k
  else
    let (k, q) := if k < 2 ^ (f.mb + 1) then (k, q) else (k / 2, q + 1)
    (q + f.mb + f.bias).toNat * 2 ^ f.mb + (k - 2 ^ f.mb)

/-- RoundTo of a nonzero finite value (R114, R117, R118). -/
def FFmt.roundMag (f : FFmt) (neg : Bool) (x : Mag) (r : Rounding) (o : Ovf) : Rounded :=
  let top : Int := (Nat.log2 x.m : Int) + x.e
  let emin : Int := 1 - (f.bias : Int)
  let q := max (top - f.mb) (emin - f.mb)
  let (k, inexact) := x.round neg r q
  let free := top - f.mb
  let tiny := decide (top < emin) && (let kf := (x.round neg r free).1
    !(kf == 2 ^ (f.mb + 1) && free + f.mb + 1 == emin))
  let code := f.magCode k q
  let nx := if inexact then fNX else 0
  if f.maxCode < code then
    match o with
    | .trap => ⟨0, fOF ||| fNX, false, true⟩
    | .sat => ⟨f.signBit neg + f.maxCode, fOF ||| fNX, false, false⟩
    | .special =>
      let toMax := f.hasInf && (match r with
        | .rz => true
        | .rd => !neg
        | .ru => neg
        | _ => false)
      let c := if toMax then f.signBit neg + f.maxCode
        else if f.hasInf then f.infCode neg
        else if f.hasNan then f.nanCode neg (2 ^ 51)
        else f.signBit neg + f.maxCode
      ⟨c, fOF ||| fNX, false, false⟩
  else ⟨f.signBit neg + code, nx ||| (if tiny && inexact then fUF else 0), tiny, false⟩

/-- RoundTo of any value into a floating format (R117, R119). -/
def FFmt.roundTo (f : FFmt) (v : FV) (r : Rounding) (o : Ovf) : Rounded :=
  match v with
  | .nan s m =>
    if f.hasNan then ⟨f.nanCode s m, 0, false, false⟩
    else ⟨0, fNV, false, o == .trap⟩
  | .inf s =>
    if f.hasInf then Rounded.exact (f.infCode s)
    else
      match o with
      | .trap => ⟨0, fOF ||| fNX, false, true⟩
      | .special =>
        ⟨if f.hasNan then f.nanCode s (2 ^ 51) else f.signBit s + f.maxCode, fOF ||| fNX, false, false⟩
      | .sat => ⟨f.signBit s + f.maxCode, fOF ||| fNX, false, false⟩
  | .fin s m e => if m = 0 then Rounded.exact (f.signBit s) else f.roundMag s ⟨m, e, false⟩ r o

/-- RoundTo into an integer of `n` bits from `lo` to `hi` (R117 to R119, R178). -/
def roundInt (n : Nat) (lo hi : Int) (v : FV) (r : Rounding) (o : Ovf) : Rounded :=
  match v with
  | .nan _ _ => ⟨0, fNV, false, o == .trap⟩
  | .inf s => ⟨wrap n (if s then lo else hi), fNV, false, o == .trap⟩
  | .fin s m e =>
    let (k, inexact) := Mag.round ⟨m, e, false⟩ s r 0
    let x : Int := if s then -(k : Int) else k
    if x < lo then ⟨wrap n lo, fNV, false, o == .trap⟩
    else if hi < x then ⟨wrap n hi, fNV, false, o == .trap⟩
    else ⟨wrap n x, if inexact then fNX else 0, false, false⟩

/-- An exact product (R125, R126), with the invalid flag of zero times infinity. -/
def FV.mul (a b : FV) : FV × Flags5 :=
  match a, b with
  | .nan s m, _ => (.nan s m, 0)
  | _, .nan s m => (.nan s m, 0)
  | .inf s, .inf t => (.inf (s != t), 0)
  | .inf s, .fin t m _ => if m = 0 then (.qnan, fNV) else (.inf (s != t), 0)
  | .fin s m _, .inf t => if m = 0 then (.qnan, fNV) else (.inf (s != t), 0)
  | .fin s m e, .fin t n f => (.fin (s != t) (m * n) (e + f), 0)

def FV.negate : FV → FV
  | .nan s m => .nan s m
  | .inf s => .inf (!s)
  | .fin s m e => .fin (!s) m e

/-- The invalid flag of reading signalling NaNs (R114). -/
def readFlags (vs : List FV) : Flags5 := if vs.any FV.isSnan then fNV else 0

/-- The first NaN of a list, quieted (R115). -/
def firstNan (vs : List FV) : Option FV := (vs.find? FV.isNan).map FV.quiet

/-- The exact sum of finite values as an integer multiple of `2^e`. -/
def exactSum (vs : List FV) : Int × Int :=
  let e := vs.foldl (fun e v => match v with
    | .fin _ m k => if m = 0 then e else min e k
    | _ => e) 4096
  (vs.foldl (fun acc v => match v with
    | .fin s m k => if m = 0 then acc
      else let x : Int := (m * 2 ^ (k - e).toNat : Nat)
        if s then acc - x else acc + x
    | _ => acc) 0, e)

/-- One group of a sum: addends in the order of R126, the sign of an exact zero by R126 and R161. -/
def sumExact (vs : List FV) (r : Rounding) : FV × Flags5 :=
  match firstNan vs with
  | some n => (n, 0)
  | none =>
    let pos := vs.any fun v => v == .inf false
    let neg := vs.any fun v => v == .inf true
    if pos && neg then (.qnan, fNV)
    else if pos then (.inf false, 0)
    else if neg then (.inf true, 0)
    else
      let (x, e) := exactSum vs
      if x = 0 then
        let allNeg := vs.all fun v => v.isZero && v.neg
        let allPos := vs.all fun v => v.isZero && !v.neg
        (.fin (if r = .rd then !allPos else allNeg) 0 0, 0)
      else (.fin (decide (x < 0)) x.natAbs e, 0)

/-- A rounded sum of addends, with the flags of the sum and of its rounding. -/
def sumRounded (f : FFmt) (vs : List FV) (r : Rounding) : Rounded :=
  let (v, fl) := sumExact vs r
  let res := f.roundTo v r .special
  { res with flags := res.flags ||| fl }

/-- One group: products in ascending k added to the accumulator and rounded once (R125). -/
def group (f : FFmt) (acc : FV) (ps : List (FV × FV)) (r : Rounding) : Rounded :=
  let prods := ps.map fun p => p.1.mul p.2
  let fl := (prods.foldl (fun a p => a ||| p.2) 0) |||
    readFlags (acc :: (ps.map Prod.fst ++ ps.map Prod.snd))
  let res := sumRounded f (acc :: prods.map Prod.fst) r
  { res with flags := res.flags ||| fl }

/-- Group16Sum (R125): `fuel` bounds the groups. The accumulator is a code of the format. -/
def group16 (f : FFmt) (r : Rounding) (fuel : Nat) (acc : Nat) (ps : List (FV × FV)) : Rounded :=
  match fuel with
  | 0 => Rounded.exact acc
  | fuel + 1 =>
    match ps with
    | [] => Rounded.exact acc
    | _ =>
      let g := group f (f.value acc) (ps.take 16) r
      let rest := group16 f r fuel g.code (ps.drop 16)
      { rest with flags := rest.flags ||| g.flags, tiny := rest.tiny || g.tiny }

/-- Whether `a` is less than `b` for values that are no NaN; the zeros are equal. -/
def FV.lt (a b : FV) : Bool :=
  match a, b with
  | .inf s, .inf t => s && !t
  | .inf s, _ => s
  | _, .inf t => !t
  | a, b => decide ((exactSum [a, b.negate]).1 < 0)

def FV.eq (a b : FV) : Bool :=
  match a, b with
  | .inf s, .inf t => s == t
  | .inf _, _ => false
  | _, .inf _ => false
  | a, b => decide ((exactSum [a, b.negate]).1 = 0)

/-- Integer square root by halving an interval, `fuel` steps. -/
def sqrtLoop (fuel n lo hi : Nat) : Nat :=
  match fuel with
  | 0 => lo
  | fuel + 1 =>
    let mid := (lo + hi + 1) / 2
    if mid * mid ≤ n then sqrtLoop fuel n mid hi else sqrtLoop fuel n lo (mid - 1)

/-- The greatest integer whose square is at most `n`. -/
def isqrt (n : Nat) : Nat :=
  let b := Nat.log2 n / 2 + 1
  sqrtLoop (b + 1) n 0 (2 ^ b)

/-- The quotient of two nonzero magnitudes with at least 130 bits and a sticky bit. -/
def divMag (m n : Nat) (e f : Int) : Mag :=
  let sh := 130 + Nat.log2 n - min (Nat.log2 m) (Nat.log2 n)
  let q := m * 2 ^ sh / n
  ⟨q, e - f - sh, m * 2 ^ sh % n != 0⟩

/-- The square root of a nonzero magnitude with at least 64 bits and a sticky bit. -/
def sqrtMag (m : Nat) (e : Int) : Mag :=
  let sh := 260 + (e % 2).toNat
  let x := m * 2 ^ sh
  let q := isqrt x
  ⟨q, (e - sh) / 2, q * q != x⟩

end Sys2Proof.Machine
end

