-- ==== Sys2Proof/Machine/Approx.lean ====
section
/-! DEFINITION. The approximations of major 0x28 (R172): each is RoundTo of the exact function under rz. The
functions are enclosed between two fixed-point numbers of `prec` fractional bits; both ends truncate to the same
code, or the result is the free value of log 7. -/

namespace Sys2Proof.Machine.Approx

/-- Fractional bits of the fixed-point work. -/
def prec : Nat := 768

/-- Bound of the accumulated error in units of the last place: fewer than 2^12 floors of one unit each, and
series tails below one unit. -/
def err : Int := 2 ^ 14

def one : Nat := 2 ^ prec

/-- Sum of `z^(2k+1) / (2k+1)`, with signs alternating when `alt`, on numbers with `one` as unit: atanh or atan. -/
def oddSeries (alt : Bool) (fuel : Nat) (zz : Int) (term : Int) (k : Nat) (acc : Int) : Int :=
  match fuel with
  | 0 => acc
  | fuel + 1 =>
    let t := term / (2 * k + 1 : Nat)
    let acc := if alt && k % 2 == 1 then acc - t else acc + t
    oddSeries alt fuel zz (term * zz / (one : Int)) (k + 1) acc

/-- ln 2 = 2 atanh (1/3). -/
def ln2 : Int :=
  let z : Int := (one / 3 : Nat)
  2 * oddSeries false 260 (z * z / (one : Int)) z 0 0

/-- Unit of the constant pi, wide enough to reduce every FP32 argument. -/
def piPrec : Nat := 1024

def atanInv (fuel n : Nat) (term : Int) (k : Nat) (acc : Int) : Int :=
  match fuel with
  | 0 => acc
  | fuel + 1 =>
    let t := term / (2 * k + 1 : Nat)
    let acc := if k % 2 == 1 then acc - t else acc + t
    atanInv fuel n (term / (n * n : Nat)) (k + 1) acc

/-- pi = 16 atan (1/5) - 4 atan (1/239), with `2^piPrec` as unit. -/
def pi : Int :=
  16 * atanInv 240 5 ((2 ^ piPrec / 5 : Nat) : Int) 0 0 - 4 * atanInv 80 239 ((2 ^ piPrec / 239 : Nat) : Int) 0 0

/-- Sum of `t^k / k!`. -/
def expSeries (fuel : Nat) (t term : Int) (k : Nat) (acc : Int) : Int :=
  match fuel with
  | 0 => acc
  | fuel + 1 => expSeries fuel t (term * t / ((one : Int) * (k + 1 : Nat))) (k + 1) (acc + term)

/-- Sum of the alternating series of `r` in steps of two powers: the cosine from `k = 0`, the sine from `k = 1`. -/
def trigSeries (fuel : Nat) (rr term : Int) (k : Nat) (acc : Int) : Int :=
  match fuel with
  | 0 => acc
  | fuel + 1 => trigSeries fuel rr (-(term * rr / ((one : Int) * ((k + 1) * (k + 2) : Nat)))) (k + 2) (acc + term)

/-- Truncate a positive fixed-point value whose last place weighs `2^e` and which is no dyadic number. -/
def trunc (f : FFmt) (neg : Bool) (lo hi e : Int) (free : Nat) : Rounded :=
  let a := f.roundMag neg ⟨lo.toNat, e, true⟩ .rz .special
  let b := f.roundMag neg ⟨hi.toNat, e, true⟩ .rz .special
  if 0 < lo ∧ a.code = b.code then a
  else ⟨Config.undecided free % 2 ^ f.width, fNX, false, false⟩

/-- `2^x` for a finite nonzero `x`; an exponent out of every format's reach is cut down to one just out of reach. -/
def exp2 (f : FFmt) (s : Bool) (m : Nat) (e : Int) (free : Nat) : Rounded :=
  let big := decide (e + Nat.log2 m > 12)
  let x : Int := if s then -(m : Int) else m
  let n : Int := if big then (if s then -4096 else 4096) else if 0 ≤ e then x * 2 ^ e.toNat else x / 2 ^ (-e).toNat
  if big then f.roundMag false ⟨1, n, true⟩ .rz .special
  else if 0 ≤ e ∨ x % 2 ^ (-e).toNat = 0 then f.roundMag false ⟨1, n, false⟩ .rz .special
  else
    let frac := x - n * 2 ^ (-e).toNat
    let t := frac * ln2 / 2 ^ (-e).toNat
    let v := expSeries 200 t (one : Int) 0 0
    trunc f false (v - err) (v + err) (n - prec) free

/-- `log2 x` for a finite `x` above zero. -/
def log2 (f : FFmt) (m : Nat) (e : Int) (free : Nat) : Rounded :=
  let b := Nat.log2 m
  let n : Int := e + b
  if m = 2 ^ b then
    if n = 0 then Rounded.exact 0 else f.roundMag (decide (n < 0)) ⟨n.natAbs, 0, false⟩ .rz .special
  else
    let z : Int := (((m - 2 ^ b) * one / (m + 2 ^ b) : Nat) : Int)
    let ln := 2 * oddSeries false 260 (z * z / (one : Int)) z 0 0
    let v := n * one + ln * one / ln2
    if 0 ≤ v then trunc f false (v - err) (v + err) (-prec) free
    else trunc f true (-v - err) (-v + err) (-prec) free

/-- The sine (or cosine) of a finite nonzero `x`, reduced by multiples of pi/2. -/
def trig (cosine : Bool) (f : FFmt) (s : Bool) (m : Nat) (e : Int) (free : Nat) : Rounded :=
  let x : Int := if 0 ≤ (piPrec : Int) + e then (m * 2 ^ (piPrec + e).toNat : Nat) else 0
  let k := (2 * x + pi / 2) / pi
  let r := (x - k * pi / 2) / 2 ^ (piPrec - prec)
  let rr := r * r / (one : Int)
  let q := ((if cosine then k + 1 else k) % 4).toNat
  let v := if q % 2 = 0 then trigSeries 100 rr r 1 0 else trigSeries 100 rr (one : Int) 0 0
  let v := if 2 ≤ q then -v else v
  let v := if s && !cosine then -v else v
  if 0 ≤ v then trunc f false (v - err) (v + err) (-prec) free
  else trunc f true (-v - err) (-v + err) (-prec) free

/-- Names of the approximations (R172). -/
inductive Fn where
  | rcp | rsq | exp2 | log2 | sin | cos
  deriving DecidableEq, Repr

/-- R172, with its special inputs. -/
def eval (fn : Fn) (f : FFmt) (v : FV) (free : Nat) : Rounded :=
  match v with
  | .nan s m => ⟨f.nanCode s m, readFlags [v], false, false⟩
  | .inf s =>
    match fn with
    | .rcp => Rounded.exact (f.signBit s)
    | .rsq => if s then ⟨f.nanCode false (2 ^ 51), fNV, false, false⟩ else Rounded.exact 0
    | .exp2 => Rounded.exact (if s then 0 else f.infCode false)
    | .log2 => if s then ⟨f.nanCode false (2 ^ 51), fNV, false, false⟩ else Rounded.exact (f.infCode false)
    | .sin | .cos => ⟨f.nanCode false (2 ^ 51), fNV, false, false⟩
  | .fin s m e =>
    if m = 0 then
      match fn with
      | .rcp | .rsq => ⟨f.infCode s, fDZ, false, false⟩
      | .exp2 | .cos => f.roundMag false ⟨1, 0, false⟩ .rz .special
      | .log2 => ⟨f.infCode true, fDZ, false, false⟩
      | .sin => Rounded.exact (f.signBit s)
    else
      match fn with
      | .rcp => f.roundMag s (divMag 1 m 0 e) .rz .special
      | .rsq =>
        if s then ⟨f.nanCode false (2 ^ 51), fNV, false, false⟩
        else f.roundMag false (
          let h := if e % 2 = 0 then (m, e) else (2 * m, e - 1)
          let n := 2 ^ 400 / h.1
          let q := isqrt n
          ⟨q, -200 - h.2 / 2, q * q * h.1 != 2 ^ 400⟩) .rz .special
      | .exp2 => exp2 f s m e free
      | .log2 => if s then ⟨f.nanCode false (2 ^ 51), fNV, false, false⟩ else log2 f m e free
      | .sin => trig false f s m e free
      | .cos => trig true f s m e free

end Sys2Proof.Machine.Approx
end

