-- ==== Sys2Proof/Machine/Flags.lean ====
section
/-! DEFINITION. Format slots and their element formats (R112, R120 to R124), and the flags and traps of a
floating-point instruction (R113 to R116, R162, R176). -/

namespace Sys2Proof.Machine

/-! ## Format slots -/

/-- Element formats of R120. -/
inductive Elem where
  | fp32 | fp64 | bf16 | fp16 | e5m2 | e4m3 | e3m2 | e2m3 | e2m1 | int8 | int4 | slice7 | reserved
  deriving DecidableEq, Repr, Inhabited

def Elem.ofCode : Nat → Elem
  | 0 => .fp32
  | 1 => .fp64
  | 2 => .bf16
  | 3 => .fp16
  | 4 => .e5m2
  | 5 => .e4m3
  | 6 => .e3m2
  | 7 => .e2m3
  | 8 => .e2m1
  | 9 => .int8
  | 10 => .int4
  | 11 => .slice7
  | _ => .reserved

/-- The floating format of an element. -/
def Elem.fmt : Elem → Option FFmt
  | .fp32 => some .fp32
  | .fp64 => some .fp64
  | .bf16 => some .bf16
  | .fp16 => some .fp16
  | .e5m2 => some .e5m2
  | .e4m3 => some .e4m3
  | .e3m2 => some .e3m2
  | .e2m3 => some .e2m3
  | .e2m1 => some .e2m1
  | _ => none

/-- Width in bits (R109, R112, R124); a slice digit is held in a byte (R179). -/
def Elem.width : Elem → Nat
  | .fp64 => 64
  | .fp32 => 32
  | .fp16 | .bf16 => 16
  | .e5m2 | .e4m3 | .int8 | .slice7 => 8
  | .e3m2 | .e2m3 => 6
  | .e2m1 | .int4 => 4
  | .reserved => 32

/-- Elements in a 32-bit register (R124). -/
def Elem.perReg (e : Elem) : Nat := 32 / e.width

/-- Formats of 4, 6 or 8 bits that a register packs by the slot (R176). -/
def Elem.narrow : Elem → Bool
  | .e5m2 | .e4m3 | .e3m2 | .e2m3 | .e2m1 | .int8 | .int4 => true
  | _ => false

/-- The value of an element code. -/
def Elem.value (e : Elem) (code : Nat) : FV :=
  match e.fmt with
  | some f => f.value code
  | none =>
    let v := signed e.width code
    .fin (decide (v < 0)) v.natAbs 0

/-- RoundTo into an element format (R117, R119). -/
def Elem.roundTo (e : Elem) (v : FV) (r : Rounding) (o : Ovf) : Rounded :=
  match e.fmt with
  | some f => f.roundTo v r o
  | none => roundInt e.width (-(2 : Int) ^ (e.width - 1)) ((2 : Int) ^ (e.width - 1) - 1) v r o

/-- Element `j` of a register (R124). -/
def Elem.at (e : Elem) (word j : Nat) : Nat := word / 2 ^ (e.width * j) % 2 ^ e.width

/-- SlotFormat (R122), by fields of a slot word (R120). -/
def slotElem (w : Word32) : Elem := Elem.ofCode (w.extractLsb' 0 4).toNat
def slotScaled (w : Word32) : Bool := w.getLsbD 6
def slotRound (w : Word32) (draw : Nat) : Rounding :=
  match (w.extractLsb' 8 2).toNat with
  | 1 => .rz
  | 2 => .sr draw
  | _ => .rne
def slotOvf (w : Word32) : Ovf :=
  match (w.extractLsb' 10 2).toNat with
  | 1 => .special
  | 2 => .trap
  | _ => .sat
def slotSlices (w : Word32) : Nat := (w.extractLsb' 12 4).toNat
def slotCurve (w : Word32) : Nat := (w.extractLsb' 16 8).toNat
def slotBmap (w : Word32) : Nat := (w.extractLsb' 24 8).toNat

/-- The word of a format slot of a team's grid. -/
def State.slot (s : State) (t : Nat) (i : Fin 8) : Word32 := (s.gridOf t).record.slot i.val

/-! ## Flags and the FP exception trap -/

/-- Whether a lane with the enables traps on a result (R116, R117): a tiny result counts as underflow. -/
def Rounded.traps (r : Rounded) (enables : Word32) : Bool :=
  r.trap || (r.flags ||| (if r.tiny then fUF else 0)) &&& enables.extractLsb' 0 5 != 0

/-- %tinfo of the trap (R116). -/
def Rounded.info (r : Rounded) (enables : Word32) : Word32 :=
  (r.flags ||| (if r.tiny && enables.getLsbD 3 then fUF else 0)).setWidth 32

/-- Two elements side by side (R160, R162). -/
def Rounded.pair (a b : Rounded) : Rounded :=
  ⟨a.code + 65536 * b.code, a.flags ||| b.flags, a.tiny || b.tiny, a.trap || b.trap⟩

def Rounded.raise (r : Rounded) (f : Flags5) : Rounded := { r with flags := r.flags ||| f }

/-- Give the lanes' results their effect: a lane that traps writes nothing and sets no flag; the others write
and collect their flags. -/
def State.fpFinish (s : State) (x : Issue) (res : List (Nat × Rounded)) (write : Crew → Nat → Nat → Crew) : State :=
  let en (l : Nat) := ((s.crew x.t x.c).th l).fptrap
  let bad := res.filter fun p => p.2.traps (en p.1)
  let s := s.modCrew x.t x.c fun cr => (res.filter fun p => !p.2.traps (en p.1)).foldl (fun cr p =>
    (write cr p.1 p.2.code).modTh p.1 fun th => { th with fpflags := th.fpflags ||| p.2.flags.setWidth 32 }) cr
  s.trap x.t x.c 0 (maskOf fun l => bad.any fun p => p.1 == l)
    (fun l => ((bad.find? fun p => p.1 == l).map fun p => p.2.info (en l)).getD 0) x.pc

/-- A floating-point instruction: `f` gives each lane of Active() its result and flags. -/
def fpOp (i : Instr) (s : State) (checks : Issue → Checks) (write : Crew → Nat → Nat → Crew)
    (f : Issue → Nat → Rounded) : Result :=
  crewOp i s checks fun x => s.fpFinish x ((lanesOf x.act).map fun l => (l, f x l)) write

/-- Write a vector destination, a pair when `w`. -/
def writeV (d : Fin 768) (w : Bool) (cr : Crew) (l n : Nat) : Crew := cr.setD (.v d) w l n

end Sys2Proof.Machine
end

