-- ==== Sys2Proof/Machine/FloatInstr.lean ====
section
/-! DEFINITION. Floating-point and conversion instructions (R158 to R182). -/

namespace Sys2Proof.Machine

/-- Element `e` of an operand of a type (R160). -/
def part (t : FTy) (bits e : Nat) : Nat := if t.half then bits / 65536 ^ e % 65536 else bits

/-- Compute each element by itself (R160). -/
def perElem (t : FTy) (f : Nat → Rounded) : Rounded := if t.half then (f 0).pair (f 1) else f 0

def isF64 (t : FTy) : Bool := t == .f64

/-- Value of element `e` of an operand. -/
def State.fval (s : State) (x : Issue) (t : FTy) (o : Opnd) (l e : Nat) : FV :=
  (FFmt.ofTy t).value (part t (s.fbits x.t x.c t o l) e)

/-- An instruction of one destination whose elements are computed one by one. -/
def elemOp (i : Instr) (s : State) (t : FTy) (d : Fin 768) (f : Issue → Nat → Nat → Rounded) : Result :=
  fpOp i s noChecks (writeV d (isF64 t)) fun x l => perElem t (f x l)

/-! ## Arithmetic (R164 to R166, R169 to R171) -/

def addRounded (f : FFmt) (r : Rounding) (a b : FV) : Rounded := (sumRounded f [a, b] r).raise (readFlags [a, b])

def mulRounded (f : FFmt) (r : Rounding) (a b : FV) : Rounded :=
  let p := a.mul b
  (f.roundTo p.1 r .special).raise (p.2 ||| readFlags [a, b])

def execFadd (g : Guard) (t : FTy) (r : Rnd) (d : Fin 768) (a b : Opnd) (s : State) : Result :=
  elemOp (.fadd g t r d a b) s t d fun x l e =>
    addRounded (.ofTy t) (.ofMod r) (s.fval x t a l e) (s.fval x t b l e)

def execFsub (g : Guard) (t : FTy) (r : Rnd) (d : Fin 768) (a b : Opnd) (s : State) : Result :=
  elemOp (.fsub g t r d a b) s t d fun x l e =>
    addRounded (.ofTy t) (.ofMod r) (s.fval x t a l e) (s.fval x t b l e).negate

def execFmul (g : Guard) (t : FTy) (r : Rnd) (d : Fin 768) (a b : Opnd) (s : State) : Result :=
  elemOp (.fmul g t r d a b) s t d fun x l e =>
    mulRounded (.ofTy t) (.ofMod r) (s.fval x t a l e) (s.fval x t b l e)

def execFfma (g : Guard) (t : FTy) (r : Rnd) (d : Fin 768) (a b c : Opnd) (s : State) : Result :=
  elemOp (.ffma g t r d a b c) s t d fun x l e =>
    group (.ofTy t) (s.fval x t c l e) [(s.fval x t a l e, s.fval x t b l e)] (.ofMod r)

/-- R166: the lesser (or greater) of two codes. -/
def minMax (f : FFmt) (greater nan : Bool) (a b : Nat) : Rounded :=
  let x := f.value a
  let y := f.value b
  let nv := readFlags [x, y]
  let first := if x.eq y then (if greater then !x.neg else x.neg) else (x.lt y != greater)
  if x.isNan && (nan || y.isNan) then (f.roundTo x .rne .special).raise nv
  else if y.isNan && nan then (f.roundTo y .rne .special).raise nv
  else if x.isNan then ⟨b, nv, false, false⟩
  else if y.isNan then ⟨a, nv, false, false⟩
  else Rounded.exact (if first then a else b)

def execFmin (g : Guard) (t : FTy) (nan : Bool) (d : Fin 768) (a b : Opnd) (s : State) : Result :=
  elemOp (.fmin g t nan d a b) s t d fun x l e =>
    minMax (.ofTy t) false nan (part t (s.fbits x.t x.c t a l) e) (part t (s.fbits x.t x.c t b l) e)

def execFmax (g : Guard) (t : FTy) (nan : Bool) (d : Fin 768) (a b : Opnd) (s : State) : Result :=
  elemOp (.fmax g t nan d a b) s t d fun x l e =>
    minMax (.ofTy t) true nan (part t (s.fbits x.t x.c t a l) e) (part t (s.fbits x.t x.c t b l) e)

/-- R165, the quotient. -/
def divRounded (f : FFmt) (r : Rounding) (a b : FV) : Rounded :=
  match firstNan [a, b] with
  | some n => (f.roundTo n r .special).raise (readFlags [a, b])
  | none =>
    let s := a.neg != b.neg
    match a, b with
    | .inf _, .inf _ => (f.roundTo .qnan r .special).raise fNV
    | .inf _, _ => Rounded.exact (f.infCode s)
    | .fin _ _ _, .fin _ n e =>
      match a with
      | .fin _ m k =>
        if m = 0 ∧ n = 0 then (f.roundTo .qnan r .special).raise fNV
        else if n = 0 then ⟨f.infCode s, fDZ, false, false⟩
        else if m = 0 then Rounded.exact (f.signBit s)
        else f.roundMag s (divMag m n k e) r .special
      | _ => Rounded.exact (f.signBit s)
    | _, _ => Rounded.exact (f.signBit s)

/-- R165, the square root. -/
def sqrtRounded (f : FFmt) (r : Rounding) (a : FV) : Rounded :=
  match a with
  | .nan _ _ => (f.roundTo a r .special).raise (readFlags [a])
  | .inf true => (f.roundTo .qnan r .special).raise fNV
  | .inf false => Rounded.exact (f.infCode false)
  | .fin s m e =>
    if m = 0 then Rounded.exact (f.signBit s)
    else if s then (f.roundTo .qnan r .special).raise fNV
    else f.roundMag false (sqrtMag m e) r .special

def tyOf (f64 : Bool) : FTy := if f64 then .f64 else .f32

def execFdiv (g : Guard) (f64 : Bool) (r : Rnd) (d : Fin 768) (a b : Opnd) (s : State) : Result :=
  elemOp (.fdiv g f64 r d a b) s (tyOf f64) d fun x l e =>
    divRounded (.ofTy (tyOf f64)) (.ofMod r) (s.fval x (tyOf f64) a l e) (s.fval x (tyOf f64) b l e)

def execFsqrt (g : Guard) (f64 : Bool) (r : Rnd) (d : Fin 768) (a : Opnd) (s : State) : Result :=
  elemOp (.fsqrt g f64 r d a) s (tyOf f64) d fun x l e =>
    sqrtRounded (.ofTy (tyOf f64)) (.ofMod r) (s.fval x (tyOf f64) a l e)

/-- R169: round to an integral value of the same format. -/
def integral (f : FFmt) (r : Rounding) (x : Bool) (code : Nat) : Rounded :=
  match f.value code with
  | .nan s m => (f.roundTo (.nan s m) r .special).raise (readFlags [.nan s m])
  | .inf _ => Rounded.exact code
  | .fin s m e =>
    if m = 0 ∨ 0 ≤ e then Rounded.exact code
    else
      let (k, inexact) := Mag.round ⟨m, e, false⟩ s r 0
      let v := f.roundTo (.fin s k 0) .rne .special
      ⟨v.code, if x && inexact then fNX else 0, false, false⟩

def execFrint (g : Guard) (t : FTy) (r : Rnd) (xx : Bool) (d : Fin 768) (a : Opnd) (s : State) : Result :=
  elemOp (.frint g t r xx d a) s t d fun x l e =>
    integral (.ofTy t) (.ofMod r) xx (part t (s.fbits x.t x.c t a l) e)

/-- R170. A scale beyond 8,192 either way leaves every format's range, like 8,192 itself. -/
def scaled (f : FFmt) (r : Rounding) (v : FV) (b : Int) : Rounded :=
  match v with
  | .fin s m e => f.roundTo (.fin s m (e + max (-8192) (min b 8192))) r .special
  | v => (f.roundTo v r .special).raise (readFlags [v])

def execFscale (g : Guard) (t : FTy) (r : Rnd) (d : Fin 768) (a b : Opnd) (s : State) : Result :=
  elemOp (.fscale g t r d a b) s t d fun x l e =>
    scaled (.ofTy t) (.ofMod r) (s.fval x t a l e) (signed 32 (s.rd32 x.t x.c b l))

/-- fgetexp into an `n`-bit integer (R171). -/
def getExp (n : Nat) (v : FV) : Rounded :=
  match v with
  | .nan _ _ => ⟨2 ^ (n - 1), fNV, false, false⟩
  | .inf _ => ⟨2 ^ (n - 1) - 1, fNV, false, false⟩
  | .fin _ m e => if m = 0 then ⟨2 ^ (n - 1), fNV, false, false⟩ else Rounded.exact (wrap n (Nat.log2 m + e))

/-- fgetman (R171). -/
def getMan (f : FFmt) (v : FV) : Rounded :=
  match v with
  | .fin s m _ => if m = 0 then Rounded.exact (f.signBit s) else f.roundTo (.fin s m (-(Nat.log2 m : Int))) .rne .special
  | v => (f.roundTo v .rne .special).raise (readFlags [v])

def execFgetexp (g : Guard) (t : FTy) (d : Fin 768) (a : Opnd) (s : State) : Result :=
  fpOp (.fgetexp g t d a) s noChecks (writeV d false) fun x l =>
    perElem t fun e => getExp (if t.half then 16 else 32) (s.fval x t a l e)

def execFgetman (g : Guard) (t : FTy) (d : Fin 768) (a : Opnd) (s : State) : Result :=
  elemOp (.fgetman g t d a) s t d fun x l e => getMan (.ofTy t) (s.fval x t a l e)

/-! ## The approximations (R172) -/

def Approx.Fn.index : Approx.Fn → Nat
  | .rcp => 0
  | .rsq => 1
  | .exp2 => 2
  | .log2 => 3
  | .sin => 4
  | .cos => 5

/-- The approximation of one element; the free value of log 7 depends on the function, the type and the operand
alone. -/
def approx (fn : Approx.Fn) (f16 : Bool) (code : Nat) : Rounded :=
  let f := FFmt.ofTy (if f16 then .f16 else .f32)
  Approx.eval fn f (f.value code) (16 * code + 2 * fn.index + (if f16 then 1 else 0))

def approxOp (i : Instr) (s : State) (fn : Approx.Fn) (f16 : Bool) (d : Fin 768) (a : Opnd) : Result :=
  let t : FTy := if f16 then .f16 else .f32
  elemOp i s t d fun x l e => approx fn f16 (part t (s.fbits x.t x.c t a l) e)

def execFrcp (g : Guard) (f16 : Bool) (d : Fin 768) (a : Opnd) (s : State) : Result :=
  approxOp (.frcp g f16 d a) s .rcp f16 d a

def execFrsq (g : Guard) (f16 : Bool) (d : Fin 768) (a : Opnd) (s : State) : Result :=
  approxOp (.frsq g f16 d a) s .rsq f16 d a

def execFexp2 (g : Guard) (f16 : Bool) (d : Fin 768) (a : Opnd) (s : State) : Result :=
  approxOp (.fexp2 g f16 d a) s .exp2 f16 d a

def execFlog2 (g : Guard) (f16 : Bool) (d : Fin 768) (a : Opnd) (s : State) : Result :=
  approxOp (.flog2 g f16 d a) s .log2 f16 d a

def execFsin (g : Guard) (f16 : Bool) (d : Fin 768) (a : Opnd) (s : State) : Result :=
  approxOp (.fsin g f16 d a) s .sin f16 d a

def execFcos (g : Guard) (f16 : Bool) (d : Fin 768) (a : Opnd) (s : State) : Result :=
  approxOp (.fcos g f16 d a) s .cos f16 d a

/-! ## Comparison and class (R167, R168) -/

/-- The answer of fcmp as 0 or 1, with its invalid flag. -/
def compareF (c : FCond) (a b : FV) : Rounded :=
  let un := a.isNan || b.isNan
  let quiet := readFlags [a, b]
  let loud : Flags5 := if un then fNV else 0
  let ans (v : Bool) (f : Flags5) : Rounded := ⟨if v then 1 else 0, f, false, false⟩
  match c with
  | .eq => ans (!un && a.eq b) quiet
  | .ne => ans (un || !a.eq b) quiet
  | .lt => ans (!un && a.lt b) loud
  | .le => ans (!un && (a.lt b || a.eq b)) loud
  | .gt => ans (!un && b.lt a) loud
  | .ge => ans (!un && (b.lt a || a.eq b)) loud
  | .un => ans un quiet

def execFcmp (g : Guard) (t : FTy) (c : FCond) (p : Fin 16) (a b : Opnd) (s : State) : Result :=
  fpOp (.fcmp g t c p a b) s noChecks (fun cr l n => cr.setP p.val (laneBit l) (if n = 1 then laneBit l else 0))
    fun x l => compareF c (s.fval x t a l 0) (s.fval x t b l 0)

/-- The class mask of R168. -/
def classOf (f : FFmt) (code : Nat) : Nat :=
  match f.value code with
  | .nan s m => if (FV.nan s m).isSnan then 1 else 2
  | .inf s => if s then 4 else 512
  | .fin s m _ =>
    if m = 0 then (if s then 32 else 64)
    else if m < 2 ^ f.mb then (if s then 16 else 128)
    else if s then 8 else 256

def execFclass (g : Guard) (t : FTy) (d : Fin 768) (a : Opnd) (s : State) : Result :=
  fpOp (.fclass g t d a) s noChecks (writeV d false) fun x l =>
    perElem t fun e => Rounded.exact (classOf (.ofTy t) (part t (s.fbits x.t x.c t a l) e))

/-! ## Conversions (R173 to R178) -/

/-- Replace element `e` of 16 bits of a register. -/
def setHalf (old e v : Nat) : Nat :=
  if e = 0 then old / 65536 * 65536 + v % 65536 else old % 65536 + v % 65536 * 65536

/-- A result for element `e` of D of a 16-bit type, the other element kept (R174); else the whole D. -/
def State.intoHalf (s : State) (x : Issue) (t : FTy) (d : Fin 768) (l e : Nat) (r : Rounded) : Rounded :=
  if t.half then { r with code := setHalf (s.rd32 x.t x.c (.v d) l) e r.code } else r

def convert (f : FFmt) (r : Rounding) (v : FV) : Rounded := (f.roundTo v r .special).raise (readFlags [v])

/-- R175 with the elements of R174. -/
def State.wideConvert (s : State) (x : Issue) (dt st : FTy) (r : Rounding) (hi : Bool) (d : Fin 768) (a : Opnd)
    (l : Nat) : Rounded :=
  let e := if hi then 1 else 0
  if dt.half && st.half then perElem dt fun e => convert (.ofTy dt) r (s.fval x st a l e)
  else s.intoHalf x dt d l e (convert (.ofTy dt) r (s.fval x st a l (if st.half then e else 0)))

/-- Insert element `j` into a register (R124, R176). -/
def Elem.insert (e : Elem) (old j q : Nat) : Nat :=
  let b := 2 ^ (e.width * j)
  let n := 2 ^ e.width
  let v := old % b + q % n * b + old / (b * n) * (b * n)
  if e.width = 6 then v % 2 ^ 30 else v

/-- Slot and element checks of R176 and R177. -/
def packChecks (w : Word32) (elem : Fin 8) : Checks :=
  let e := slotElem w
  if !e.narrow || decide (e.perReg ≤ elem.val) then { bundle := some 5 } else {}

def State.packConvert (s : State) (x : Issue) (w : Word32) (elem : Fin 8) (draw : Opnd) (d : Fin 768) (a : Opnd)
    (l : Nat) : Rounded :=
  let e := slotElem w
  let v := FFmt.fp32.value (s.rd32 x.t x.c a l)
  let r := (e.roundTo v (slotRound w (s.rd32 x.t x.c draw l % 65536)) (slotOvf w)).raise (readFlags [v])
  { r with code := Elem.insert e (s.rd32 x.t x.c (.v d) l) elem.val r.code }

/-- R177: exact, with no flag. -/
def unpackConvert (e : Elem) (word j : Nat) : Rounded :=
  Rounded.exact (FFmt.fp32.roundTo (e.value (e.at word j)) .rne .special).code

def execFcvt (g : Guard) (k : Cvt) (d : Fin 768) (a : Opnd) (s : State) : Result :=
  match k with
  | .wide dt st r hi =>
    fpOp (.fcvt g k d a) s noChecks (writeV d (isF64 dt)) fun x l => s.wideConvert x dt st (.ofMod r) hi d a l
  | .pack slot elem draw =>
    fpOp (.fcvt g k d a) s (fun x => packChecks (s.slot x.t slot) elem) (writeV d false) fun x l =>
      s.packConvert x (s.slot x.t slot) elem draw d a l
  | .unpack slot elem =>
    fpOp (.fcvt g k d a) s (fun x => packChecks (s.slot x.t slot) elem) (writeV d false) fun x l =>
      unpackConvert (slotElem (s.slot x.t slot)) (s.rd32 x.t x.c a l) elem.val

def execIcvt (g : Guard) (k : ICvt) (r : Rnd) (hi : Bool) (d : Fin 768) (a : Opnd) (s : State) : Result :=
  let e := if hi then 1 else 0
  match k with
  | .toFloat dt sg w =>
    fpOp (.icvt g k r hi d a) s noChecks (writeV d (isF64 dt)) fun x l =>
      let v := s.val x sg w a l
      s.intoHalf x dt d l e (convert (.ofTy dt) (.ofMod r) (.fin (decide (v < 0)) v.natAbs 0))
  | .toInt sg w st =>
    fpOp (.icvt g k r hi d a) s noChecks (writeV d w) fun x l =>
      let n := nbits w
      let lo : Int := if sg then -(2 : Int) ^ (n - 1) else 0
      let top : Int := if sg then (2 : Int) ^ (n - 1) - 1 else (2 : Int) ^ n - 1
      roundInt n lo top (s.fval x st a l (if st.half then e else 0)) (.ofMod r) .sat

/-! ## Slices and dot products (R179 to R181) -/

/-- Balanced radix-128 digits, least significant first. -/
def sliceDigits (n : Nat) (x : Int) : List Int :=
  match n with
  | 0 => []
  | n + 1 =>
    let d := (x + 64) % 128 - 64
    d :: sliceDigits n ((x - d) / 128)

/-- R179. -/
def sliceOf (k : Nat) (v : FV) (e : Int) (i : Nat) : Rounded :=
  match v with
  | .fin s m ex =>
    if m ≠ 0 ∧ -2 ≤ Nat.log2 m + ex - e then ⟨0, fNV, false, false⟩
    else
      let (q, inexact) := if m = 0 then (0, false) else Mag.round ⟨m, max (ex + 7 * k - e) (-4096), false⟩ s .rne 0
      let x : Int := if s then -(q : Int) else q
      let digit := if 1 ≤ i ∧ i ≤ k then (sliceDigits k x).getD (k - i) 0 else 0
      ⟨wrap 32 digit, if inexact then fNX else 0, false, false⟩
  | _ => ⟨0, fNV, false, false⟩

def execFslice (g : Guard) (slot : Fin 8) (d : Fin 768) (a b c : Opnd) (s : State) : Result :=
  fpOp (.fslice g slot d a b c) s
    (fun x => if slotElem (s.slot x.t slot) == .slice7 then {} else { bundle := some 5 })
    (writeV d false) fun x l =>
      sliceOf (slotSlices (s.slot x.t slot)) (FFmt.fp64.value (s.rd64 x.t x.c a l)) (signed 32 (s.rd32 x.t x.c b l))
        (s.rd32 x.t x.c c l)

def execDp2h (g : Guard) (bf : Bool) (d : Fin 768) (a b c : Opnd) (s : State) : Result :=
  let t : FTy := if bf then .bf16 else .f16
  fpOp (.dp2h g bf d a b c) s noChecks (writeV d false) fun x l =>
    group .fp32 (FFmt.fp32.value (s.rd32 x.t x.c c l))
      [(s.fval x t a l 0, s.fval x t b l 0), (s.fval x t a l 1, s.fval x t b l 1)] .rne

/-- R181 on the elements of two registers. -/
def dotProduct (f32 : Bool) (e : Elem) (a b c : Nat) : Rounded :=
  let js := List.range e.perReg
  if f32 then
    group .fp32 (FFmt.fp32.value c) (js.map fun j => (e.value (e.at a j), e.value (e.at b j))) .rne
  else
    Rounded.exact (wrap 32 (js.foldl (fun acc j => acc + signed e.width (e.at a j) * signed e.width (e.at b j))
      (signed 32 c)))

/-- Slot checks of R181. -/
def dotChecks (wide f32 : Bool) (e : Elem) : Checks :=
  let ok := if wide then e == .e2m1 || e == .int4
    else e == .e5m2 || e == .e4m3 || e == .int8 || e == .e3m2 || e == .e2m3
  if ok && f32 == e.fmt.isSome then {} else { bundle := some 5 }

def dotOp (i : Instr) (s : State) (wide f32 : Bool) (slot : Fin 8) (d : Fin 768) (a b c : Opnd) : Result :=
  fpOp i s (fun x => dotChecks wide f32 (slotElem (s.slot x.t slot))) (writeV d false) fun x l =>
    dotProduct f32 (slotElem (s.slot x.t slot)) (s.rd32 x.t x.c a l) (s.rd32 x.t x.c b l) (s.rd32 x.t x.c c l)

def execDp4 (g : Guard) (f32 : Bool) (slot : Fin 8) (d : Fin 768) (a b c : Opnd) (s : State) : Result :=
  dotOp (.dp4 g f32 slot d a b c) s false f32 slot d a b c

def execDp8 (g : Guard) (f32 : Bool) (slot : Fin 8) (d : Fin 768) (a b c : Opnd) (s : State) : Result :=
  dotOp (.dp8 g f32 slot d a b c) s true f32 slot d a b c

end Sys2Proof.Machine
end

