-- ==== Sys2Proof/Machine/Philox.lean ====
section
/-! DEFINITION. The random generator Philox4x32-10 (R223). -/

namespace Sys2Proof.Machine

/-- One round on the counter `c0 c1 c2 c3` under the key `k0 k1`. -/
def philoxRound (c : Word32 × Word32 × Word32 × Word32) (k0 k1 : Word32) : Word32 × Word32 × Word32 × Word32 :=
  let p0 := 0xD2511F53 * c.1.toNat
  let p1 := 0xCD9E8D57 * c.2.2.1.toNat
  let lo (p : Nat) : Word32 := BitVec.ofNat 32 p
  let hi (p : Nat) : Word32 := BitVec.ofNat 32 (p / 2 ^ 32)
  (hi p1 ^^^ c.2.1 ^^^ k0, lo p1, hi p0 ^^^ c.2.2.2 ^^^ k1, lo p0)

/-- `n` rounds, the key raised between them. -/
def philoxRounds (n : Nat) (c : Word32 × Word32 × Word32 × Word32) (k0 k1 : Word32) :
    Word32 × Word32 × Word32 × Word32 :=
  match n with
  | 0 => c
  | n + 1 => philoxRounds n (philoxRound c k0 k1) (k0 + 0x9E3779B9) (k1 + 0xBB67AE85)

/-- The block of R223 as its four words. -/
def philox (c0 c1 c2 c3 k0 k1 : Word32) : List Word32 :=
  let r := philoxRounds 10 (c0, c1, c2, c3) k0 k1
  [r.1, r.2.1, r.2.2.1, r.2.2.2]

/-- The eight 16-bit draws of a block, the low half of each word first (R118). -/
def philoxDraws (ws : List Word32) : List Nat :=
  ws.flatMap fun w => [w.toNat % 65536, w.toNat / 65536]

end Sys2Proof.Machine
end

