-- ==== Sys2Proof/Machine/Lanes.lean ====
section
/-! DEFINITION. Cross-lane and random-number instructions (R210 to R226); stload stands with the memory
instructions, whose load it is. -/

namespace Sys2Proof.Machine

/-! ## Crossbar operations (R211) -/

/-- Issue a crossbar operation with the result of each active lane: a lane whose floating-point flags trap writes
nothing (R220), and a uniform D is written only when none does. -/
def State.crossIssue (s : State) (x : Issue) (d : Dst) (pair : Bool) (res : List (Nat × Rounded)) : State :=
  if res.isEmpty then s
  else if 63 ≤ (s.crew x.t x.c).counter 4 then s.stall
  else
    let en (l : Nat) := ((s.crew x.t x.c).th l).fptrap
    let bad := res.filter fun p => p.2.traps (en p.1)
    let ok := res.filter fun p => !p.2.traps (en p.1)
    let s := s.modCrew x.t x.c fun cr => ok.foldl (fun cr p => cr.modTh p.1 fun th =>
      { th with fpflags := th.fpflags ||| p.2.flags.setWidth 32 }) cr
    let s := if ok.isEmpty then s
      else
        let (id, s) := s.fresh
        let vals := match d with
          | .v _ => ok.map fun p => (p.1, BitVec.ofNat 64 p.2.code)
          | .s _ => if bad.isEmpty then (ok.take 1).map fun p => (0, BitVec.ofNat 64 p.2.code) else []
        { s.modCrew x.t x.c fun cr => (cr.raise 4 id).await id (d.regs (two pair)) with
          cross := s.cross ++ [⟨id, x.t, x.c, d, pair, vals⟩] }
    s.trap x.t x.c 0 (maskOf fun l => bad.any fun p => p.1 == l)
      (fun l => ((bad.find? fun p => p.1 == l).map fun p => p.2.info (en l)).getD 0) x.pc

/-- A crossbar instruction that raises no flag. -/
def crossOp (i : Instr) (s : State) (d : Dst) (pair : Bool) (f : Issue → Nat → Nat) : Result :=
  crewOp i s noChecks fun x => s.crossIssue x d pair ((lanesOf x.act).map fun l => (l, Rounded.exact (f x l)))

/-- CROSS_LANE_COMPLETION (R211): the result is written and w4 falls. -/
def execCrossLaneCompletion (op : Nat) (s : State) : Result :=
  match s.cross.find? fun k => k.id == op with
  | none => .next s
  | some k =>
    let write (cr : Crew) : Crew := k.vals.foldl (fun cr p => cr.setD k.d k.pair p.1 p.2.toNat) cr
    let s' := s.modCrew k.team k.crew fun cr => ((write cr).returned op).lower op
    .next { s'.noteStale s k.team k.crew (k.d.regs (two k.pair)) (maskOf fun l => k.vals.any fun p => p.1 == l) with
      cross := s.cross.filter fun j => j.id != op }

/-! ## Reading another lane (R212, R214, R216) -/

/-- Src(A, s, l) (R212): the fill for a lane that does not exist or has exited. -/
def State.srcLane (s : State) (x : Issue) (w : Bool) (a fill : Opnd) (src : Int) (l : Nat) : Nat :=
  if src < 0 ∨ 16 ≤ src ∨ (s.crew x.t x.c).exited.getLsbD src.toNat then s.bits x.t x.c w fill l
  else s.bits x.t x.c w a src.toNat

def execBfly (g : Guard) (w : Bool) (d : Fin 768) (a b fill : Opnd) (s : State) : Result :=
  crossOp (.bfly g w d a b fill) s (.v d) w fun x l =>
    s.srcLane x w a fill ((l ^^^ (s.rd32 x.t x.c b l % 16) : Nat) : Int) l

/-- Source lane of shfl (R214). -/
def shflSource (m : ShflMode) (l b : Nat) : Int :=
  match m with
  | .idx => b
  | .up => (l : Int) - b
  | .down => (l : Int) + b

def execShfl (g : Guard) (w : Bool) (m : ShflMode) (d : Fin 768) (a b fill : Opnd) (s : State) : Result :=
  crossOp (.shfl g w m d a b fill) s (.v d) w fun x l =>
    s.srcLane x w a fill (shflSource m l (s.rd32 x.t x.c b l)) l

/-- One byte of the value that a stencil entry gives (R215, R216). -/
def State.xbarByte (s : State) (x : Issue) (a fill : Opnd) (e l i : Nat) : Nat :=
  if e.testBit 6 then s.rd32 x.t x.c fill l / 256 ^ i % 256
  else
    let src := e % 16
    if (s.crew x.t x.c).exited.getLsbD src then s.rd32 x.t x.c fill l / 256 ^ i % 256
    else s.rd32 x.t x.c a src / 256 ^ (e / 16 % 4) % 256

def execXbar (g : Guard) (d : Fin 768) (a : Opnd) (xn : Fin 8) (fill : Opnd) (s : State) : Result :=
  crossOp (.xbar g d a xn fill) s (.v d) false fun x l =>
    let w := ((nth (s.team x.t).stencils xn.val).extractLsb' (32 * l) 32).toNat
    (List.range 4).foldl (fun r i => r + 256 ^ i * s.xbarByte x a fill (w / 256 ^ i % 256) l i) 0

/-! ## Votes (R219) -/

def execVote (g : Guard) (op : VoteOp) (p : Fin 16) (s : State) : Result :=
  let yes (x : Issue) : Mask := x.act &&& (s.crew x.t x.c).p p.val
  match op with
  | .mask d => laneOp (.vote g op p) s d false fun x _ => (yes x).toNat
  | .count d => laneOp (.vote g op p) s d false fun x _ => BitVec.popcount (yes x)
  | .quorum d k =>
    crewOp (.vote g op p) s (fun x => if 31 < s.rd32 x.t x.c k 0 then { bundle := some 0 } else {}) fun x =>
      let v := s.rd32 x.t x.c k 0
      let q := if v ≤ 16 then v else BitVec.popcount x.act
      s.modCrew x.t x.c fun cr =>
        cr.setP d.val x.act (if q ≤ BitVec.popcount (yes x) then BitVec.allOnes 16 else 0)
  | .agree d =>
    crewUpdate (.vote g op p) s fun x cr =>
      cr.setP d.val x.act (if yes x = 0 ∨ yes x = x.act then BitVec.allOnes 16 else 0)

/-! ## Reductions, scans, matches (R220 to R222) -/

def negZero : FV := .fin true 0 0

/-- One group over -0 and the values (R220). -/
def sumGroup (vs : List FV) : Rounded := (sumRounded .fp32 (negZero :: vs) .rne).raise (readFlags vs)

/-- fmax folded in ascending order with its flags (R220); a NaN that it begins with has its quiet bit set (R115). -/
def foldMax (codes : List Nat) : Rounded :=
  match codes with
  | [] => Rounded.exact 0
  | c :: cs => cs.foldl (fun r k => (minMax .fp32 true false r.code k).raise r.flags)
      ⟨if (FFmt.fp32.value c).isNan then c ||| 0x400000 else c, 0, false, false⟩

/-- Fold integers of a type; `unit` is the result of an empty prefix. -/
def foldInt (f : Int → Int → Int) (unit : Int) (vs : List Int) : Nat :=
  match vs with
  | [] => wrap 32 unit
  | v :: r => wrap 32 (r.foldl f v)

/-- redux over the 32-bit patterns of the active lanes, ascending. -/
def reduce (op : ReduxOp) (cs : List Nat) : Rounded :=
  let vals (sg : Bool) := cs.map (valOf sg false)
  match op with
  | .add sg => Rounded.exact (foldInt (· + ·) 0 (vals sg))
  | .min sg => Rounded.exact (foldInt min 0 (vals sg))
  | .max sg => Rounded.exact (foldInt max 0 (vals sg))
  | .andB => Rounded.exact (cs.foldl (· &&& ·) (2 ^ 32 - 1))
  | .orB => Rounded.exact (cs.foldl (· ||| ·) 0)
  | .xorB => Rounded.exact (cs.foldl (· ^^^ ·) 0)
  | .fadd => sumGroup (cs.map FFmt.fp32.value)
  | .fmax => (foldMax cs).raise (readFlags ((cs.take 1).map FFmt.fp32.value))

def execRedux (g : Guard) (op : ReduxOp) (d : Dst) (a : Opnd) (s : State) : Result :=
  crewOp (.redux g op d a) s noChecks fun x =>
    let r := reduce op ((lanesOf x.act).map fun l => s.rd32 x.t x.c a l)
    s.crossIssue x d false ((lanesOf x.act).map fun l => (l, r))

/-- scan over a prefix (R221). -/
def scanPrefix (op : ScanOp) (cs : List Nat) : Rounded :=
  let vals (sg : Bool) := cs.map (valOf sg false)
  match op with
  | .add sg => Rounded.exact (foldInt (· + ·) 0 (vals sg))
  | .min sg => Rounded.exact (foldInt min (if sg then 2 ^ 31 - 1 else 2 ^ 32 - 1) (vals sg))
  | .max sg => Rounded.exact (foldInt max (if sg then -(2 : Int) ^ 31 else 0) (vals sg))
  | .fadd => sumGroup (cs.map FFmt.fp32.value)

def execScan (g : Guard) (op : ScanOp) (excl : Bool) (d : Fin 768) (a : Opnd) (s : State) : Result :=
  crewOp (.scan g op excl d a) s noChecks fun x =>
    s.crossIssue x (.v d) false ((lanesOf x.act).map fun l =>
      (l, scanPrefix op (((lanesOf x.act).filter fun j => decide (j < l) || (!excl && j == l)).map fun j =>
        s.rd32 x.t x.c a j)))

def execMatchOp (g : Guard) (w : Bool) (d : Fin 768) (a : Opnd) (s : State) : Result :=
  crossOp (.matchOp g w d a) s (.v d) false fun x l =>
    (x.act &&& maskOf fun j => s.bits x.t x.c w a j == s.bits x.t x.c w a l).toNat

/-! ## Random numbers (R223 to R225) -/

/-- The block of a lane (R224): the draw index and the mark of rand.next in bit 31 of the stream word. -/
def State.randBlock (s : State) (x : Issue) (k23 next : Bool) (draw : Word32) (b : Opnd) (l : Nat) : List Word32 :=
  let r := (s.gridOf x.t).record
  let st : Word32 := (BitVec.ofNat 32 (s.rd32 x.t x.c b l) &&& 0x7FFFFFFF) ||| (if next then 0x80000000 else 0)
  philox draw (BitVec.ofNat 32 (16 * x.c + l)) (BitVec.ofNat 32 (s.team x.t).index) st
    (r.key (if k23 then 2 else 0)) (r.key (if k23 then 3 else 1))

/-- Write word 0, or words 0 to 3, of each lane's block. -/
def Crew.writeBlock (cr : Crew) (d : Fin 768) (x4 : Bool) (m : Mask) (f : Nat → List Word32) : Crew :=
  (lanesOf m).foldl (fun cr l =>
    (List.range (if x4 then 4 else 1)).foldl (fun cr i => cr.setV (d.val + i) l ((f l).getD i 0)) cr) cr

def execRand (g : Guard) (k23 x4 : Bool) (d : Fin 768) (a b : Opnd) (s : State) : Result :=
  crewUpdate (.rand g k23 x4 d a b) s fun x cr =>
    cr.writeBlock d x4 x.act fun l => s.randBlock x k23 false (BitVec.ofNat 32 (s.rd32 x.t x.c a l)) b l

def execRandNext (g : Guard) (k23 x4 : Bool) (d : Fin 768) (b : Opnd) (s : State) : Result :=
  crewUpdate (.randNext g k23 x4 d b) s fun x cr =>
    (cr.writeBlock d x4 x.act fun l => s.randBlock x k23 true (cr.th l).draw b l).modLanes x.act fun _ th =>
      { th with draw := th.draw + 1 }

end Sys2Proof.Machine
end

