-- ==== Sys2Proof/Machine/Memory.lean ====
section
/-! DEFINITION. Places of addresses, the caches, and reading and writing at a place (R243 to R258, R439 to R441,
R463). In this model a device-physical address of HBM stands as it is, one of host or CXL memory with bit 52 set,
and peer memory has bit 51 set (log 11). -/

namespace Sys2Proof.Machine

/-! ## Decode (R243 to R246) -/

/-- Where a generic address or a window offset leads. -/
inductive Decoded where
  | own (o : Nat)
  | peer (r o : Nat)
  | stack (o : Nat)
  | global (a : Nat)
  deriving DecidableEq, Repr

/-- %tinfo of AddressTrap(c, b) (R227, R243). -/
def addrTrap (c b : Nat) : Nat := c + b

/-- Decode of a generic address (R243); the error is %tinfo of the address trap. -/
def decodeAddr (a : Nat) : Except Nat Decoded :=
  let top := a / 2 ^ 48
  let mid := a / 2 ^ 32 % 2 ^ 16
  if 2 ^ 56 ≤ a then .error (addrTrap 0 4)
  else if top = 0xFE then
    if mid = 0 then .ok (.own (a % 2 ^ 32))
    else if mid = 1 ∧ a / 2 ^ 26 % 64 = 0 then .ok (.peer (a / 2 ^ 24 % 4) (a % 2 ^ 24))
    else .error (addrTrap 2 0)
  else if top = 0xFD then
    if a / 2 ^ 20 % 2 ^ 28 = 0 then .ok (.stack (a % 2 ^ 20)) else .error (addrTrap 3 16)
  else .ok (.global a)

/-- Decode of a window form's 32-bit offset (R244). -/
def decodeForm (ap : Aper) (o : Nat) : Except Nat Decoded :=
  let v := signed 32 o
  match ap with
  | .generic => decodeAddr o
  | .pad => .ok (.own (o % 2 ^ 32))
  | .peer r =>
    if -256 ≤ v ∧ v ≤ -1 then .ok (.peer r.val (2 ^ 24 + v).toNat)
    else if 0 ≤ v ∧ v ≤ 2 ^ 24 - 257 then .ok (.peer r.val v.toNat)
    else .error (addrTrap 2 0)
  | .stack => if 0 ≤ v ∧ v < 2 ^ 20 then .ok (.stack v.toNat) else .error (addrTrap 3 16)

/-- The generic address of a decoded place. -/
def Decoded.generic : Decoded → Nat
  | .own o => 0xFE * 2 ^ 48 + o
  | .peer r o => 0xFE * 2 ^ 48 + 2 ^ 32 + r * 2 ^ 24 + o
  | .stack o => 0xFD * 2 ^ 48 + o
  | .global a => a

/-- Offset of a scratchpad window of length `len` against SPADB (R245). -/
def padPlace (team spadb len o : Nat) : Option Place :=
  if o < spadb then some (.spad team o)
  else if o < spadb + 256 then some (.guard (o - spadb) true o)
  else if len - 256 ≤ o ∧ o < len then some (.guard (o - (len - 256)) false o)
  else none

/-- The team of rank `r` in a team's cohort, unless there is none or it has retired (R70, R245); a killed team that has not
been placed again is none either (log 54). -/
def State.mate (s : State) (t r : Nat) : Option Nat :=
  let tm := s.team t
  let c := (s.grid tm.grid).record.cohort
  if c ≤ r then none
  else (List.range s.teams.length).find? fun k =>
    let o := s.team k
    o.grid == tm.grid && o.index == tm.index / c * c + r && (o.status == .resident || o.status == .saved)

/-- What an access reaches: a place, or the global window. -/
inductive Target where
  | place (p : Place)
  | global (a : Nat)
  deriving DecidableEq, Repr

/-- Resolve a decoded address for a lane (R245, R246); the error is %tinfo of the address trap. -/
def State.resolve (s : State) (t c l : Nat) (d : Decoded) : Except Nat Target :=
  let g := s.gridOf t
  match d with
  | .own o =>
    match padPlace t g.needs.spadb (2 ^ 32) o with
    | some p => .ok (.place p)
    | none => .error (addrTrap 1 0)
  | .peer r o =>
    match s.mate t r with
    | none => .error (addrTrap 2 8)
    | some k =>
      match padPlace k g.needs.spadb (2 ^ 24) o with
      | some p => .ok (.place p)
      | none => .error (addrTrap 2 0)
  | .stack o =>
    if g.record.stackBase = 0 then .error (addrTrap 3 16)
    else
      let slot := (s.team t).index * 16 * g.record.crews + 16 * c + l
      .ok (.place (.phys (g.record.stackBase.toNat + slot * 2 ^ 20 + o)))
  | .global a => .ok (.global a)

/-- Whether a canonical generic address lies in the global window. -/
def isGlobal (a : Nat) : Bool := a / 2 ^ 48 != 0xFE && a / 2 ^ 48 != 0xFD

/-- Whether a generic address is global. -/
def globalAddr (a : Nat) : Bool :=
  match decodeAddr a with
  | .ok (.global _) => true
  | _ => false

/-! ## Guard granules (R251) -/

/-- %tinfo of a guard touch (R251). -/
def guardInfo (byte : Nat) (upper : Bool) (o : Nat) : Nat :=
  let bank := if upper then (o / 128 + 2) % 16 else byte / 128
  byte + (if upper then 256 else 0) + 512 * bank

/-- Record a guard touch of a team (R233, R251). -/
def State.touchGuard (s : State) (t byte : Nat) (upper : Bool) (o : Nat) : State :=
  s.modTeam t fun tm => { tm with guard := some (match tm.guard with
    | none => BitVec.ofNat 32 (guardInfo byte upper o)
    | some i => i ||| 0x2000) }

/-! ## Device-physical memory (R252, R450, R463) -/

/-- Mark of host and CXL memory in this model. -/
def hostMark : Nat := 2 ^ 52

def isPeer (pa : Nat) : Bool := decide (2 ^ 51 ≤ pa) && decide (pa < 2 ^ 52)
def isHost (pa : Nat) : Bool := decide (2 ^ 52 ≤ pa)
def isHbm (pa : Nat) : Bool := decide (pa < 2 ^ 51)

/-! ## Messages to peers (R450) -/

/-- Something leaves on a link. -/
def Link.send (k : Link) (f : WireFrame) : Link := { k with wire := k.wire ++ [f] }

/-- The link by which an access to a peer leaves: the lowest-numbered trained link of its mask on the die, or else of the whole
mask, over a die link; of several such dies the rule takes any (log 34). -/
def State.linkTo (s : State) (die peer : Nat) : Option Nat :=
  let mask := nth (s.die die).routes peer
  let open? (l : Nat) : Bool := mask.getLsbD l && (s.link l).trained
  (((List.range 3).map fun i => 3 * die + i).find? open?).or ((List.range 12).find? open?)

/-- A message leaves for a peer, or waits for a trained link. -/
def State.sendPeer (s : State) (die peer : Nat) (m : FabricMsg) : State :=
  match s.linkTo die peer with
  | some l => s.modLink l fun k => k.send (.message m)
  | none => { s with outbox := s.outbox ++ [(die, peer, m)] }

/-- Messages that waited for a link leave, oldest first. -/
def State.flushOutbox (s : State) : State :=
  s.outbox.foldl (fun s m => s.sendPeer m.1 m.2.1 m.2.2) { s with outbox := [] }

/-- Peer number and offset of a peer address (R450). -/
def peerOf (pa : Nat) : Nat := pa / 2 ^ 45 % 64
def peerOffset (pa : Nat) : Nat := pa % 2 ^ 40

/-- Home die of a line (R252). -/
def homeDie (pa : Nat) : Nat :=
  if isHost pa then (if pa / 2 ^ 12 % 2 = 0 then 0 else 2)
  else ((pa / 2 ^ 12 % 8) ^^^ (pa / 2 ^ 15 % 8)) / 2

/-- The port of a host or CXL line (R459). -/
def portOf (pa : Nat) : Nat := homeDie pa / 2

/-- Exclusive-or of the successive `n`-bit fields (R253). -/
def foldBits (fuel n x : Nat) : Nat :=
  match fuel with
  | 0 => 0
  | fuel + 1 => (x % 2 ^ n) ^^^ foldBits fuel n (x / 2 ^ n)

/-- The `n`th set bit of a mask, from bit `i` on. -/
def nthSet (fuel m n i : Nat) : Nat :=
  match fuel with
  | 0 => i
  | fuel + 1 => if m.testBit i then (if n = 0 then i else nthSet fuel m (n - 1) (i + 1)) else nthSet fuel m n (i + 1)

/-- Slice, group and set of a line for a colour mask (R253). -/
def cachePlace (pa mask : Nat) : Nat × Nat × Nat :=
  let l := pa % 2 ^ 52 / 128
  let k := BitVec.popcount (BitVec.ofNat 16 mask)
  let n := foldBits 16 4 (l / 32) % k
  (foldBits 16 5 l, nthSet 16 mask n 0, foldBits 16 6 (l / 32))

/-- Colour mask of a front end; 0 is read as all ones (R399). -/
def FrontEnd.colours (f : FrontEnd) : Nat :=
  let m := (f.part.extractLsb' 16 16).toNat
  if m = 0 then 0xFFFF else m

/-- Drop the last member that satisfies `p`, the least recently used of its set. -/
def dropLast {α : Type} (l : List α) (p : α → Bool) : List α :=
  match l with
  | [] => []
  | a :: r => if p a && !r.any p then r else a :: dropLast r p

/-- A lookup of a line in the shared cache, allocating it on a miss; a write to HBM makes it dirty (R252 to R254,
R467). -/
def State.touchLine (s : State) (fe pa : Nat) (write : Bool) : State :=
  if isPeer pa then s
  else
    let line := pa / 128
    let old : Option (List Byte) := if write && isHbm pa then some (Sparse.getList s.mem (128 * line) 128) else none
    let die := homeDie pa
    let ls := nth s.llc die
    let new := match ls.find? fun k => k.line == line with
      | some k => { k with old := if k.old.isSome then k.old else old } :: ls.filter fun k => k.line != line
      | none =>
        let (sl, gr, st) := cachePlace pa (s.fe fe).colours
        let same (k : CacheLine) : Bool := k.slice == sl && k.group == gr && k.set == st
        ⟨line, sl, gr, st, old⟩ :: (if 16 ≤ ls.countP same then dropLast ls same else ls)
    { s with llc := upd s.llc die fun _ => new }

/-- Numbers of the 128-byte lines that `n` bytes at an address touch. -/
def linesAt (a n : Nat) : List Nat := (List.range ((a + n - 1) / 128 + 1 - a / 128)).map fun i => a / 128 + i

/-- Lookups of every line of a range. -/
def State.touchLines (s : State) (fe pa n : Nat) (write : Bool) : State :=
  (linesAt pa n).foldl (fun s l => s.touchLine fe (128 * l) write) s

/-! ## The read cache of a core (R255) -/

/-- Keep the newest lines: 512 in all, 8 in each of 64 sets. The set of a line and the line that a full set gives up are the
model's choice (log 55). -/
def fillLine (l : List ReadLine) (k : ReadLine) : List ReadLine :=
  let rest := l.filter fun r => r.line != k.line
  let same := (rest.filter fun r => r.line % 64 == k.line % 64).take 7
  k :: (rest.filter fun r => r.line % 64 != k.line % 64) ++ same

def State.dropLine (s : State) (core line : Nat) : State :=
  s.modCore core fun c => { c with rcache := c.rcache.filter fun r => r.line != line }

def State.dropLines (s : State) (core : Nat) : State := s.modCore core fun c => { c with rcache := [] }

/-- Bring memory's copy of a line into a read cache. -/
def State.fillFrom (s : State) (core line : Nat) : State :=
  let bs := Sparse.getList s.mem (128 * line) 128
  let ks := s.stamps.filter fun k => decide (k.lo < 128 * line + 128) && decide (128 * line < k.hi)
  s.modCore core fun c => { c with rcache := fillLine c.rcache ⟨line, bs, ks⟩ }

/-- Replace bytes of a list from an offset. -/
def patch (l : List Byte) (o : Nat) (bs : List Byte) : List Byte :=
  match bs with
  | [] => l
  | b :: r => patch (upd l o fun _ => b) (o + 1) r

/-! ## Clocks (R438 to R441) -/

def noClock : List Word64 := [0, 0, 0, 0]

def maxClock (a b : List Word64) : List Word64 :=
  (List.range 4).map fun j => if (nth a j).toNat < (nth b j).toNat then nth b j else nth a j

/-- The stamp that a read of a grid's crew finds in `n` bytes: the latest of theirs, where a write made before the grid carries
none (R441). -/
def clockIn (l : List Stamp) (pa n grid : Nat) : List Word64 :=
  l.foldl (fun m k => if k.lo < pa + n ∧ pa < k.hi ∧ grid < k.born then maxClock m k.clock else m) noClock

/-- Give `n` bytes the stamp of a write; a stamp of zeros is held by no entry. -/
def putStamp (l : List Stamp) (pa n : Nat) (k : List Word64) (born : Nat) : List Stamp :=
  let rest := l.flatMap fun p =>
    if p.hi ≤ pa ∨ pa + n ≤ p.lo then [p]
    else (if p.lo < pa then [{ p with hi := pa }] else []) ++ (if pa + n < p.hi then [{ p with lo := pa + n }] else [])
  if k == noClock then rest else ⟨pa, pa + n, k, born⟩ :: rest

def State.setStamp (s : State) (pa n : Nat) (k : List Word64) : State :=
  { s with stamps := putStamp s.stamps pa n k s.grids.length }

/-! ## Reading and writing memory -/

/-- Write bytes at a device-physical address; the writing core's read cache is written through (R255). -/
def State.writeMem (s : State) (core : Option Nat) (fe pa : Nat) (bs : List Byte) (stamp : List Word64) : State :=
  let s := s.touchLines fe pa bs.length true
  let s := { s with mem := Sparse.setList s.mem pa bs }
  let s := s.setStamp pa bs.length stamp
  match core with
  | none => s
  | some c => s.modCore c fun c => { c with rcache := c.rcache.map fun r =>
      if r.line = pa / 128 then
        { r with bytes := patch r.bytes (pa % 128) bs, stamps := putStamp r.stamps pa bs.length stamp s.grids.length }
      else r }

/-- Read bytes of memory through the shared cache. -/
def State.readMem (s : State) (fe pa n : Nat) : List Byte × State :=
  (Sparse.getList s.mem pa n, s.touchLines fe pa n false)

/-- A core's load within one line (R255): a relaxed one may return the read cache's copy where it holds one; every other
brings the current line in. -/
def State.loadLine (s : State) (core fe grid pa n : Nat) (relaxed tso : Bool) : List Byte × List Word64 × State :=
  let line := pa / 128
  let fresh (s : State) (fill : Bool) : List Byte × List Word64 × State :=
    let (bs, s) := s.readMem fe pa n
    (bs, clockIn s.stamps pa n grid, if fill then s.fillFrom core line else s)
  if isPeer pa || tso then fresh s false
  else
    match (s.core core).rcache.find? fun r => r.line == line with
    | some r =>
      let stale := relaxed && Config.pick s.freeCtr % 2 == 0
      let s := { s with freeCtr := s.freeCtr + 1 }
      if stale then ((r.bytes.drop (pa % 128)).take n, clockIn r.stamps pa n grid, s) else fresh s true
    | none => fresh s true

/-- A core's load for a crew of a grid, line by line, with the stamp of the writes that it returns. -/
def State.loadMem (s : State) (core fe grid pa n : Nat) (relaxed tso : Bool) : List Byte × List Word64 × State :=
  (linesAt pa n).foldl (fun (r : List Byte × List Word64 × State) l =>
    let a := max pa (128 * l)
    let (bs, k, s) := r.2.2.loadLine core fe grid a (min (pa + n) (128 * l + 128) - a) relaxed tso
    (r.1 ++ bs, maxClock r.2.1 k, s)) ([], noClock, s)

/-- Bytes of a team's scratchpad. -/
def State.readPad (s : State) (t o n : Nat) : List Byte := Sparse.getList (s.team t).spad o n

def State.writePad (s : State) (t o : Nat) (bs : List Byte) : State :=
  s.modTeam t fun tm => { tm with spad := Sparse.setList tm.spad o bs }

/-! ## TSO windows (R257, R258) -/

/-- Whether a global page lies in a TSO window of a front end. -/
def FrontEnd.tso (f : FrontEnd) (a : Nat) : Bool :=
  (List.range 8).any fun w =>
    let b := nth f.tsoBase w
    let page := a / 4096
    b.getLsbD 0 && decide ((b.extractLsb' 12 44).toNat ≤ page) &&
      decide (page ≤ ((nth f.tsoLast w).extractLsb' 12 44).toNat)

/-! ## Dies and front ends of a team -/

def State.dieOf (s : State) (t : Nat) : Nat := (s.team t).core / 64
def State.feOf (s : State) (t : Nat) : Nat := (s.gridOf t).fe

/-- PASID of a front end (R399). -/
def FrontEnd.pasid (f : FrontEnd) : BitVec 20 := f.part.extractLsb' 32 20

end Sys2Proof.Machine
end

