-- ==== Sys2Proof/Machine/MemLog.lean ====
section
/-! DEFINITION. The operand log: accesses under way, their completion, and lanes of them that trap (R260, R265, R312
to R316, R320). -/

namespace Sys2Proof.Machine

def State.logEntry (s : State) (id : Nat) : Option LogEntry := s.log.find? fun e => e.id == id

def LogEntry.acc (e : LogEntry) (lane : Nat) : Option LaneAcc := e.lanes.find? fun a => a.lane == lane

def State.modEntry (s : State) (id : Nat) (f : LogEntry → LogEntry) : State :=
  { s with log := s.log.map fun e => if e.id = id then f e else e }

/-- Apply `f` to the accesses of an entry that satisfy `p`. -/
def LogEntry.mapAccs (e : LogEntry) (p : LaneAcc → Bool) (f : LaneAcc → LaneAcc) : LogEntry :=
  { e with lanes := e.lanes.map fun a => if p a then f a else a }

def State.modAcc (s : State) (id lane : Nat) (f : LaneAcc → LaneAcc) : State :=
  s.modEntry id fun e => { e with lanes := e.lanes.map fun a => if a.lane = lane then f a else a }

/-- Whether an access number is still to be performed. -/
def State.accPending (s : State) (n : Nat) : Bool :=
  s.log.any fun e => e.lanes.any fun a => a.acc == n && a.status.pends

/-- A fence, or own, which is no access. -/
def MemKind.bare : MemKind → Bool
  | .fence | .own _ _ _ => true
  | _ => false

/-- Whether the kind takes an entry of the operand log (R312). -/
def MemKind.logged : MemKind → Bool
  | .cinv | .cwb => false
  | k => !k.bare

def MemKind.atomic : MemKind → Bool
  | .atom _ _ _ | .red _ _ => true
  | _ => false

/-- The wait counter of a kind (R13, R211, R262); a launch raises w5 by itself, a fence and own none. -/
def MemKind.counter : MemKind → Option Nat
  | .ld _ _ | .ldx _ _ _ _ _ _ => some 0
  | .st _ | .stx _ _ _ _ _ _ | .atom _ _ _ | .red _ _ | .cinv | .cwb => some 1
  | .stload _ => some 4
  | .launch _ | .fence | .own _ _ _ => none

/-- Registers that an entry keeps from later writers until it completes (R264, R313). -/
def MemKind.sources : MemKind → List Res
  | .ldx _ n _ base idx ap =>
    (match ap with
     | .generic => base.regs 2
     | _ => base.regs 1) ++ idx.regs n
  | .stx sz n d base idx ap =>
    (match ap with
     | .generic => base.regs 2
     | _ => base.regs 1) ++ idx.regs n ++ d.regs (n * two sz.wide)
  | _ => []

/-- Registers or slots that an entry writes. -/
def MemKind.results : MemKind → List Res
  | .ld sz d => d.regs (two sz.wide)
  | .ldx sz n d _ _ _ => vregs d (n * two sz.wide)
  | .atom _ ty d => d.regs (two ty.wide)
  | .stload x => [.stencil x.val]
  | .launch d => d.regs 1
  | _ => []

/-- R313: the scoreboard releases a destination whose remaining lanes are parked. -/
def Crew.releaseDst (cr : Crew) (id : Nat) (keep : List Res) : Crew :=
  { cr with outs := if keep.isEmpty then cr.outs.filter fun o => o.id != id
      else cr.outs.map fun o => if o.id = id then { o with res := keep } else o }

/-- What follows a change of an entry's lanes: with every lane done the instruction completes and its counter
falls (R260); with only parked lanes left its destination is released (R313). -/
def State.settleEntry (s : State) (id : Nat) : State :=
  match s.logEntry id with
  | none => s
  | some e =>
    if e.lanes.all fun a => a.status == .done then
      if e.posted then { s with log := s.log.filter fun k => k.id != id }
      else { s.modCrew e.team e.crew fun cr => (cr.returned id).lower id with log := s.log.filter fun k => k.id != id }
    else if !e.uniform && e.lanes.all fun a => a.status == .done || a.parked then
      s.modCrew e.team e.crew fun cr => cr.releaseDst id e.kind.sources
    else s

/-- Elements that a lane performs (R264). -/
def MemKind.count : MemKind → Nat
  | .ldx _ n _ _ _ _ | .stx _ n _ _ _ _ => n
  | _ => 1

def MemKind.elems : MemKind → Bool
  | .ldx _ _ _ _ _ _ | .stx _ _ _ _ _ _ => true
  | _ => false

def LaneAcc.l (a : LaneAcc) : Nat := a.lane % 16

/-- The accesses of one lane in an entry that are not complete. -/
def LogEntry.openOf (e : LogEntry) (l : Nat) : List LaneAcc := e.lanes.filter fun a => a.l == l && a.status != .done

/-- Whether a lane performs the instruction to its end, no element of it having been left to a re-issue (R265). -/
def LogEntry.finishes (e : LogEntry) (l : Nat) : Bool := e.lanes.any fun a => a.l == l && a.elem + 1 == e.kind.count

/-- Lanes of an entry that wait at its instruction for an access of it (R74, R320). -/
def State.waitingAt (s : State) (e : LogEntry) (m : Mask) : Mask :=
  m &&& (s.crew e.team e.crew).inState fun th =>
    th.state == .parked && (th.parkWhy == .presence || th.parkWhy == .pageFault) && th.pc == e.pc

/-- A lane's access is complete. With the last of a parked lane, %pix returns to 0 (R265), and it goes on at the next word (R320),
once its core holds the image (`State.imageCame`). -/
def State.accDone (s : State) (id lane : Nat) : State :=
  match s.logEntry id with
  | none => s
  | some e =>
    match e.acc lane with
    | none => s
    | some a =>
      let m := e.lanesFor lane
      let s := s.modAcc id lane fun a => { a with status := .done, parked := false }
      let s := if a.released then s.advanceHead (s.team e.team).grid else s
      if (e.openOf a.l).any fun b => b.lane != lane then s
      else
        let s := if a.parked && e.kind.elems && e.finishes a.l then
          let back := s.waitingAt e m
          s.modCrew e.team e.crew fun cr => cr.modLanes back fun _ th => { th with pix := 0 } else s
        let s := s.settleEntry id
        if a.parked && s.imageHere e.team then s.goOn e.team e.crew (s.waitingAt e m) else s

/-- Park the lanes of an access at its instruction (R74, R313); %pix stands at its element (R265). -/
def State.parkAcc (s : State) (id lane : Nat) (why : ParkWhy) : State :=
  match s.logEntry id with
  | none => s
  | some e =>
    match e.acc lane with
    | none => s
    | some a =>
      let m := e.lanesFor lane
      let s := s.modCrew e.team e.crew fun cr =>
        let cr := cr.park m why fun _ => e.pc
        if e.kind.elems then cr.modLanes m fun _ th => { th with pix := BitVec.ofNat 32 a.elem } else cr
      (s.modEntry id fun e => e.mapAccs (fun b => b.l == a.l && b.status != .done) fun b =>
        { b with parked := true }).settleEntry id

/-! ## Lanes that end in a trap (R229, R231, R316) -/

def AccStatus.isTrapping : AccStatus → Bool
  | .trapping _ _ => true
  | _ => false

/-- R229: whether every instruction that an access's lanes issued before it has taken full effect. -/
def State.earlierDone (s : State) (e : LogEntry) (a : LaneAcc) : Bool :=
  let m := e.lanesFor a.lane
  ((s.pendingOf e.team e.crew m fun _ => true).all fun n => decide (a.acc ≤ n)) && s.crossDone e.team e.crew m

/-- Lanes leave an entry: what of them is not complete is dropped, and a launch's increment of w5 falls (R197, R229). -/
def State.leaveEntry (s : State) (e : LogEntry) (m : Mask) : State :=
  let gone := e.lanes.filter fun a => e.lanesFor a.lane &&& m != 0 && a.status != .done
  let s := match e.kind with
    | .launch _ => s.modCrew e.team e.crew fun cr => gone.foldl (fun cr (a : LaneAcc) => cr.lower a.data2.toNat) cr
    | _ => s
  (s.modEntry e.id fun e => e.mapAccs (fun a => e.lanesFor a.lane &&& m != 0) fun a =>
    { a with status := .done, parked := false }).settleEntry e.id

/-! ## Bundles that an instruction keeps (R229, R264) -/

/-- Whether another device, or host memory, decides whether an access at a place traps (R450, R468). -/
def MemKind.decided (k : MemKind) : Place → Bool
  | .phys pa => isPeer pa || (isHost pa && k.atomic)
  | _ => false

/-- Whether an access waits for such a decision. -/
def LogEntry.undecided (e : LogEntry) (a : LaneAcc) : Bool :=
  !a.released && (match a.status with
    | .ready p | .clock p | .hostRead p | .ordered p | .exported _ _ p | .peer p => e.kind.decided p
    | _ => false)

/-- Whether an access keeps its lane's bundle at the instruction: its element has not begun (R264), it may still trap, or will
(R229); so will a launch of a grid at depth 9, once its record has been read. -/
def State.keeps (s : State) (e : LogEntry) (a : LaneAcc) : Bool :=
  a.status == .later || e.undecided a || a.status.isTrapping ||
    (e.kind.isLaunch && (s.gridOf e.team).record.depth == 9 && a.status != .done)

/-- The entry of the instruction that keeps a crew's bundle, if one does. -/
def State.longEntry (s : State) (t c : Nat) : Option LogEntry :=
  (((s.crew t c).long).bind s.logEntry).filter fun e =>
    e.lanes.any fun a => e.lanesFor a.lane &&& (s.crew t c).bundle != 0 && s.keeps e a

/-- Whether the bundle has elements to begin at its next turn. -/
def State.begins (s : State) (t c : Nat) : Bool :=
  (s.longEntry t c).any fun e => e.lanes.any fun a => e.lanesFor a.lane &&& (s.crew t c).bundle != 0 && a.status == .later

/-- The lanes of an entry that are to trap take their trap at its instruction, all together (R231), when none of its others may
still come to and what they issued before has taken effect: it has no effect there and %pix stays (R229, R316). A refused page
gives a record whatever the disposition (R316). -/
def State.takeTraps (s : State) (id : Nat) : State :=
  match s.logEntry id with
  | none => s
  | some e =>
    let all := e.lanes.filter fun a => a.status.isTrapping
    let due := all.filter fun a => some a.status == all.head?.map LaneAcc.status
    let wait := e.lanes.any fun a => if a.status.isTrapping then !s.earlierDone e a
      else !a.parked && (e.undecided a || (e.kind.isLaunch && s.keeps e a))
    match due.head?.map LaneAcc.status with
    | some (.trapping cls info) =>
      if wait then s
      else
        let m := due.foldl (fun m a => m ||| e.lanesFor a.lane) 0
        let g := s.gridOf e.team
        let s := s.leaveEntry e m
        let rest := m &&& ~~~(s.crew e.team e.crew).inState Thread.inh
        let s := if info = 0x20 ∧ rest ≠ 0 ∧ g.record.disposition cls = 1 then
          s.post g.fe (trapRecord e.pc info (s.team e.team).index g.handle rest e.crew cls {}) else s
        s.trapWith e.team e.crew cls m (fun _ => info) (fun _ => e.pc) {} none
    | _ => s

/-- Accesses, as (entry, lane), end in a precise trap (R229, R316). -/
def State.accTraps (s : State) (l : List (Nat × Nat)) (cls : Nat) (info : Word32) : State :=
  let s := l.foldl (fun s k => s.modAcc k.1 k.2 fun a => { a with status := .trapping cls info }) s
  ((l.map Prod.fst).eraseDups).foldl State.takeTraps s

/-- Traps of a team's accesses whose lanes' earlier accesses have been performed meanwhile (R229). -/
def State.evalTraps (s : State) (t : Nat) : State :=
  ((s.log.filter fun e => e.team == t && e.lanes.any fun a => a.status.isTrapping).map LogEntry.id).foldl State.takeTraps s

/-! ## Gathers and scatters that stop part way (R237, R265) -/

/-- The first element of a lane that has not begun. -/
def LogEntry.firstLater (e : LogEntry) (l : Nat) : Option LaneAcc := e.lanes.find? fun a => a.l == l && a.status == .later

/-- The instruction that keeps a crew's bundle stops. A gather or scatter begins no other element, and %pix of each lane stands at
those that it has begun, which complete (R265). Of another instruction, what has not left the core is taken back, and its lanes
stand at it; the other lanes, and those of an instruction that is decided, go on. -/
def State.stopLong (s : State) (t c : Nat) : State :=
  let b := (s.crew t c).bundle
  let s' := s.modCrew t c fun cr => { cr with long := none }
  match (s.crew t c).long, s.longEntry t c with
  | none, _ => s'
  | some _, none => s'.goOn t c b
  | some _, some e =>
    if e.kind.elems then
      let s := s'.modCrew t c fun cr => cr.modLanes b fun l th =>
        { th with pix := BitVec.ofNat 32 (((e.firstLater l).map LaneAcc.elem).getD e.kind.count) }
      (s.modEntry e.id fun e => { e with lanes := e.lanes.filter fun a => !(b.getLsbD a.l && a.status == .later) }).settleEntry e.id
    else
      let back := e.lanes.foldl (fun m a => if s.keeps e a && !a.status.sent then m ||| (e.lanesFor a.lane &&& b) else m) 0
      (s'.leaveEntry e back).goOn t c (b &&& ~~~back)

end Sys2Proof.Machine
end

