-- ==== Sys2Proof/Machine/Translation.lean ====
section
/-! DEFINITION. Translation of global addresses, the fault buffer and replay-all (R256, R303 to R319, R463, R476). The
second-level cache of a die is 16-way: 768 sets of shared entries, and 4 sets reserved to each core (R305, R307, log 56). -/

namespace Sys2Proof.Machine

/-! ## Translation caches (R305, R307) -/

/-- The translation of an address in a cache. -/
def tlbFind (l : List Translation) (pasid : BitVec 20) (a : Nat) (write : Bool) : Option Translation :=
  l.find? fun t => t.pasid == pasid && decide (t.page ≤ a) && decide (a < t.page + t.size) && (!write || t.write)

/-- One translation: the tags of a cache are PASID, page and permission. -/
def Translation.same (t k : Translation) : Bool := k.pasid == t.pasid && k.page == t.page && k.write == t.write

/-- Put a translation first in a core's first level, of 128 entries, the least recently used last. -/
def tlbPut (l : List Translation) (t : Translation) : List Translation :=
  ({ t with owner := none, locks := [] } :: l.filter fun k => !t.same k).take 128

/-- A translation of the second level becomes its most recently used one. -/
def tlbTouch (l : List Translation) (t : Translation) : List Translation := t :: l.filter fun k => !t.same k

/-- Share and set of a translation in the second level: a core's reserved entries, or share 64. -/
def Translation.slot (t : Translation) : Nat × Nat :=
  match t.owner with
  | none => (64, t.page / 4096 % 768)
  | some c => (c, t.page / 4096 % 4)

/-- Put a translation into its set, where fewer than 16 entries stand or the least recently used one that is not locked
gives way. -/
def tlbSeat (l : List Translation) (t : Translation) : Option (List Translation) :=
  let here (k : Translation) : Bool := k.slot == t.slot
  let free (k : Translation) : Bool := here k && k.locks.isEmpty
  if l.countP here < 16 then some (t :: l)
  else if l.any free then some (t :: dropLast l free) else none

/-- Fill a translation for a core (R307): its entry if it has one already, else a free shared entry, else, where it may, one of
the core's reserved entries. -/
def tlbFill (l : List Translation) (t : Translation) (core : Nat) (reserve : Bool) : Option (List Translation) :=
  match l.find? t.same with
  | some k => some (tlbTouch l { t with owner := k.owner, locks := t.locks ++ k.locks })
  | none => (tlbSeat l { t with owner := none }).or (if reserve then tlbSeat l { t with owner := some core } else none)

def Translation.to (t : Translation) (a : Nat) : Nat := t.pa + (a - t.page)

/-- Two waits for the same page (R306). -/
def PageWait.same (w k : PageWait) : Bool := w.pasid == k.pasid && w.page == k.page && w.write == k.write

/-- Send one translation request, unless one for the page is outstanding (R306). -/
def State.request (s : State) (die : Nat) (w : PageWait) : State :=
  s.modDie die fun d => if d.requests.any w.same then d else { d with requests := d.requests ++ [w] }

def pageOf (a : Nat) : BitVec 44 := BitVec.ofNat 44 (a / 4096)

/-- A lane's translation: a hit in either cache, or a request (R305). -/
def State.translate (s : State) (core fe a : Nat) (write : Bool) : Option Nat × State :=
  let die := core / 64
  let pasid := (s.fe fe).pasid
  match tlbFind (s.core core).tlb pasid a write with
  | some t => (some (t.to a), s.modCore core fun c => { c with tlb := tlbPut c.tlb t })
  | none =>
    match tlbFind (s.die die).tlb pasid a write with
    | some t =>
      (some (t.to a), (s.modCore core fun c => { c with tlb := tlbPut c.tlb t }).modDie die fun d =>
        { d with tlb := tlbTouch d.tlb t })
    | none => (none, s.request die ⟨pasid, pageOf a, write, fe, core % 64, .frontEnd⟩)

/-- Whether a non-lane access waits for a replay-all, or has been refused. -/
def DieState.stuck (d : DieState) (w : PageWait) : Bool := d.refused.contains w || d.waiting.any fun k => k.1 == w

/-- Translation of an access that no lane makes (R476): it waits for a response, then for a replay-all. -/
def State.walk (s : State) (die fe core a : Nat) (write : Bool) (user : PageUser) : Option Nat × State :=
  let pasid := (s.fe fe).pasid
  let w : PageWait := ⟨pasid, pageOf a, write, fe, core % 64, user⟩
  let d := s.die die
  if d.stuck w then (none, s)
  else
    match tlbFind d.tlb pasid a write with
    | some t => (some (t.to a), s.modDie die fun d => { d with tlb := tlbTouch d.tlb t })
    | none =>
      if d.asking.contains w then (none, s)
      else (none, (s.request die w).modDie die fun d => { d with asking := d.asking ++ [w] })

/-- Whether a non-lane access would do anything now: its page is at hand, or has not been asked for. -/
def State.walkReady (s : State) (die fe core a : Nat) (write : Bool) (user : PageUser) : Bool :=
  let pasid := (s.fe fe).pasid
  let w : PageWait := ⟨pasid, pageOf a, write, fe, core % 64, user⟩
  let d := s.die die
  !d.stuck w && ((tlbFind d.tlb pasid a write).isSome || !d.asking.contains w)

/-- Whether a page has been refused to a non-lane access. -/
def State.walkRefused (s : State) (die fe core a : Nat) (write : Bool) (user : PageUser) : Bool :=
  (s.die die).refused.contains ⟨(s.fe fe).pasid, pageOf a, write, fe, core % 64, user⟩

/-- Forget the refusals of a user's accesses for a front end, which have had their effect. -/
def State.dropRefused (s : State) (die fe : Nat) (user : PageUser) : State :=
  s.modDie die fun d => { d with refused := d.refused.filter fun w => !(w.fe == fe && w.user == user) }

/-- Bytes of a global range for a non-lane reader, page by page; none while a page is not at hand. -/
def State.readRange (fuel : Nat) (s : State) (die fe core a n : Nat) : Option (List Byte) × State :=
  match fuel with
  | 0 => (some [], s)
  | fuel + 1 =>
    if n = 0 then (some [], s)
    else
      match s.walk die fe core a false .frontEnd with
      | (none, s) => (none, s)
      | (some pa, s) =>
        let k := min n (4096 - a % 4096)
        let (bs, s) := s.readMem fe pa k
        match State.readRange fuel s die fe core (a + k) (n - k) with
        | (some rest, s) => (some (bs ++ rest), s)
        | (none, s) => (none, s)

/-- Read a global range for a front end (R476), on die 2p of its physical function. -/
def State.feRead (s : State) (fe a n : Nat) : Option (List Byte) × State :=
  State.readRange (n / 4096 + 2) s (2 * (fe / 8)) fe 0 a n

/-- Write bytes of a global range for a non-lane writer within one page; false while the page is not at hand. -/
def State.walkWrite (s : State) (die fe core a : Nat) (bs : List Byte) : Bool × State :=
  match s.walk die fe core a true .frontEnd with
  | (none, s) => (false, s)
  | (some pa, s) => (true, s.writeMem none fe pa bs noClock)

/-! ## Host-physical addresses (R256, R463) -/

/-- Device-physical address and page size of the tier of a host-physical address; none is refused. -/
def State.fromHost (s : State) (h : Nat) : Option (Nat × Nat) :=
  let bar := s.bars.find? fun b => b != 0 && decide (b.toNat ≤ h) && decide (h < b.toNat + 2 ^ 40)
  let window (lo hi : Word64) : Bool := lo.getLsbD 0 && decide ((lo.extractLsb' 16 48).toNat ≤ h / 65536) &&
    decide (h / 65536 ≤ (hi.extractLsb' 16 48).toNat)
  match bar with
  | some b => if h - b.toNat < Config.hbmBytes then some (h - b.toNat, 2097152) else none
  | none =>
    if (List.range 8).any fun w => window (nth s.cxlBase w) (nth s.cxlLimit w) then some (hostMark + h, 65536)
    else
      match (List.range 64).find? fun n => (nth s.peers n).getLsbD 0 &&
        ((nth s.peers n).extractLsb' 40 24).toNat == h / 2 ^ 40 with
      | some n => some (2 ^ 51 + n * 2 ^ 45 + h % 2 ^ 40, 2097152)
      | none => if h < 2 ^ 51 then some (hostMark + h, 4096) else none

/-! ## The fault buffer (R309, R310, R321) -/

/-- Whether the release sequencer waits (R318). -/
def PageUser.isPlumb : PageUser → Bool
  | .plumb _ => true
  | _ => false

/-- The 128 bits of a fault-buffer entry (R309). -/
def FaultEntry.word (f : FaultEntry) : BitVec 128 :=
  f.page ++ f.pasid ++ (0 : BitVec 15) ++ f.prgi ++ f.fe ++ f.core ++ f.resp ++ BitVec.ofBool f.w ++ BitVec.ofBool f.plumb ++
    f.count ++ (0 : BitVec 15) ++ BitVec.ofBool f.valid

/-- FSTAT (R309): COUNT, DROP and REPLAYING. -/
def DieState.fstat (d : DieState) : Word32 :=
  (0 : BitVec 24) ++ BitVec.ofNat 4 (d.fbuf.countP FaultEntry.valid) ++ BitVec.ofBool d.drop ++ BitVec.ofBool d.replaying ++
    (0 : BitVec 2)

/-- Page requests of a physical function's two dies that the host has not answered (R459). -/
def State.requestsOut (s : State) (pf : Nat) : Nat :=
  ((s.die (2 * pf)).fbuf ++ (s.die (2 * pf + 1)).fbuf).countP fun f => f.valid && f.sent && f.resp == 0

/-- Whether the host's allocation to the physical function of a die has room for a page request (R459). -/
def State.requestRoom (s : State) (die : Nat) : Bool := decide (s.requestsOut (die / 2) < nth s.prAlloc (die / 2))

/-- Record a fault on a page: join an entry, fill the lowest free one, or set DROP. The answer is the entry that holds
it. -/
def State.takeFault (s : State) (die : Nat) (w : PageWait) : Option Nat × State :=
  let d := s.die die
  let hits (f : FaultEntry) : Bool :=
    f.valid && f.resp == 0 && f.pasid == w.pasid && f.page == w.page && f.w == w.write
  match (List.range 8).find? fun i => hits (nth d.fbuf i) with
  | some i => (some i, s.modDie die fun d => { d with fbuf := upd d.fbuf i fun f =>
      { f with count := if f.count = 1023 then 1023 else f.count + 1 } })
  | none =>
    match (List.range 8).find? fun i => !(nth d.fbuf i).valid with
    | some i => (some i, s.modDie die fun d => { d with fbuf := upd d.fbuf i fun _ =>
        ⟨true, w.page, w.pasid, BitVec.ofNat 9 i, BitVec.ofNat 4 w.fe, BitVec.ofNat 6 w.core, 0, w.write, w.user.isPlumb, 1,
          s.requestRoom die⟩ })
    | none => (none, s.modDie die fun d => { d with drop := true })

/-- A response has freed an outstanding page request: the next entry that waits goes out, lower die and entry first (R459, log 67). -/
def State.sendUnsent (s : State) (pf : Nat) : State :=
  let waits (k : Nat × Nat) : Bool := let f := nth (s.die k.1).fbuf k.2; f.valid && !f.sent
  match ((List.range 2).flatMap fun i => (List.range 8).map fun j => (2 * pf + i, j)).find? waits with
  | some k => if s.requestRoom (2 * pf) then
      s.modDie k.1 fun d => { d with fbuf := upd d.fbuf k.2 fun f => { f with sent := true } } else s
  | none => s

/-! ## Accesses that wait for a page -/

/-- Lane accesses of a die that satisfy a condition on address and write permission, as (entry, lane, core, fe), in
issue order. -/
def State.lanesOn (s : State) (die : Nat) (p : LogEntry → LaneAcc → Bool) : List (Nat × Nat × Nat × Nat) :=
  s.log.flatMap fun e =>
    if e.core / 64 = die then
      (e.lanes.filter fun a => p e a).map fun a => (e.id, a.lane, e.core, s.feOf e.team)
    else []

/-- cinv and cwb of a page not present do nothing (R272, R304). -/
def MemKind.silent : MemKind → Bool
  | .cinv | .cwb => true
  | _ => false

/-- Lanes whose translation request was for the page. -/
def State.askers (s : State) (die : Nat) (w : PageWait) : List (Nat × Nat × Nat × Nat) :=
  s.lanesOn die fun e a => a.status == .ats && (s.fe (s.feOf e.team)).pasid == w.pasid &&
    pageOf a.addr.toNat == w.page && e.kind.writes == w.write

/-- A response without the page: every access that asked takes its fault (R310). -/
def State.faultPage (s : State) (die : Nat) (w : PageWait) : State :=
  let s := (s.askers die w).foldl (fun s k =>
    match s.logEntry k.1 with
    | none => s
    | some e =>
      if e.kind.silent then s.accDone k.1 k.2.1
      else
        let (j, s) := s.takeFault die { w with fe := k.2.2.2, core := k.2.2.1 % 64 }
        s.modAcc k.1 k.2.1 fun a => { a with status := .fault j }) s
  let s := ((s.die die).asking.filter w.same).foldl (fun s k =>
    let (j, s) := s.takeFault die k
    { s.modDie die fun d => { d with waiting := d.waiting ++ [(k, j)] } with
      mops := s.mops.map fun m => if k.user = .op m.id then { m with fault := some k.page } else m }) s
  s.modDie die fun d => { d with
    requests := d.requests.filter fun k => !w.same k
    asking := d.asking.filter fun k => !w.same k
    prefetches := d.prefetches.filter fun k => !(pageOf k.2.2.1 == w.page && (s.fe k.2.1).pasid == w.pasid) }

/-- A refusal of a page (R316, R318): lanes trap, those of one instruction together, non-lane accesses learn of it. -/
def State.refuse (s : State) (die : Nat) (lanes : List (Nat × Nat × Nat × Nat)) (ws : List PageWait) : State :=
  let s := s.accTraps (lanes.map fun k => (k.1, k.2.1)) 6 0x20
  s.modDie die fun d => { d with
    asking := d.asking.filter fun k => !ws.contains k
    waiting := d.waiting.filter fun k => !ws.contains k.1
    refused := d.refused ++ ws }

/-- Whether an older instruction of a core waits for an entry to be filled, to which a reserved one goes first (R307). -/
def State.olderFills (s : State) (die core id : Nat) : Bool :=
  (s.die die).fills.any fun k => (s.askers die k.1).any fun a => a.2.2.1 == core && decide (a.1 < id)

/-- Whether an access holds a translation that the memory engine has not accepted yet. -/
def State.isGranted (s : State) (n : Nat) : Bool :=
  s.log.any fun e => e.lanes.any fun a => a.acc == n && (match a.status with
    | .granted _ => true
    | _ => false)

/-- No lock lasts longer than its access waits to be accepted (R307). -/
def State.unlock (s : State) (die : Nat) : State :=
  s.modDie die fun d => { d with tlb := d.tlb.map fun t => { t with locks := t.locks.filter s.isGranted } }

/-- A prefetch brings its line into the shared cache and, with .near, into its core's read cache (R271). -/
def State.prefetchLine (s : State) (core fe a pa : Nat) (near : Bool) : State :=
  let s := s.touchLine fe pa false
  if near && !isPeer pa && !(s.fe fe).tso a then s.fillFrom core (pa / 128) else s

/-- Bytes of no defined value come to a place in memory (log 9). -/
def State.freeBytes (s : State) (fe pa n : Nat) : State :=
  if isPeer pa then s
  else
    { s.writeMem none fe pa ((List.range n).map fun i => Config.freeByte (s.freeCtr + i)) noClock with freeCtr := s.freeCtr + n }

/-- The bytes of evicted blocks that a translation brings within reach lose their values (R415). -/
def State.loseThrough (s : State) (tr : Translation) : State :=
  let mine (k : Nat × Nat × Nat) : Bool := (s.fe k.1).pasid == tr.pasid && decide (tr.page ≤ k.2.1) && decide (k.2.1 < tr.page + tr.size)
  let s' := (s.lost.filter mine).foldl (fun s k => s.freeBytes k.1 (tr.to k.2.1) k.2.2) s
  { s' with lost := s.lost.filter fun k => !mine k }

/-- A translation of an address that some cache of the device holds. -/
def State.anyTranslation (s : State) (fe a : Nat) : Option Translation :=
  let find (l : List Translation) := tlbFind l (s.fe fe).pasid a false
  (s.dies.findSome? fun d => find d.tlb).or (s.cores.findSome? fun c => find c.tlb)

/-- A translation that answers a request (R256, R306, R313): an entry is filled, locked for the lanes that it serves, and
every access in its range goes on, while a write in it that has no permission takes its fault. It waits where no entry is
free of locks (R307). -/
def State.grantPage (s : State) (die : Nat) (w : PageWait) (tr : Translation) : State :=
  let inRange (a : Nat) : Bool := decide (tr.page ≤ a) && decide (a < tr.page + tr.size)
  let near (k : PageWait) : Bool := k.pasid == w.pasid && inRange (4096 * k.page.toNat)
  let served (k : PageWait) : Bool := near k && (!k.write || tr.write)
  let ok := s.lanesOn die fun e a => a.status == .ats && (s.fe (s.feOf e.team)).pasid == w.pasid &&
    inRange a.addr.toNat && (!e.kind.writes || tr.write)
  let locks := ok.filterMap fun k => ((s.logEntry k.1).bind fun e => e.acc k.2.1).map LaneAcc.acc
  let s := s.unlock die
  let (core, reserve) := match ok with
    | [] => (w.core, true)
    | k :: _ => (k.2.2.1 % 64, !s.olderFills die k.2.2.1 k.1)
  match tlbFill (s.die die).tlb { tr with locks := locks } core reserve with
  | none => s.modDie die fun d => { d with fills := (d.fills.filter fun k => k.1 != w) ++ [(w, tr)] }
  | some l =>
    let s := s.modDie die fun d => { d with
      tlb := l
      fills := d.fills.filter fun k => k.1 != w
      requests := d.requests.filter fun k => !served k
      asking := d.asking.filter fun k => !served k }
    let s := s.loseThrough tr
    let mine (k : Nat × Nat × Nat × Bool) : Bool := (s.fe k.2.1).pasid == w.pasid && inRange k.2.2.1
    let s := ((s.die die).prefetches.filter mine).foldl (fun s k =>
      s.prefetchLine k.1 k.2.1 k.2.2.1 (tr.to k.2.2.1) k.2.2.2) s
    let s := s.modDie die fun d => { d with prefetches := d.prefetches.filter fun k => !mine k }
    let s := ok.foldl (fun s k =>
      (s.modCore k.2.2.1 fun c => { c with tlb := tlbPut c.tlb tr }).modAcc k.1 k.2.1 fun a =>
        { a with status := .granted (.phys (tr.to a.addr.toNat)) }) s
    if w.write && !tr.write then ((s.die die).requests.filter near).foldl (fun s k => s.faultPage die k) s else s

/-- Translations that wait for an entry try again (R307). -/
def State.retryFills (s : State) (die : Nat) : State :=
  (s.die die).fills.foldl (fun s k => s.grantPage die k.1 k.2) s

/-- The memory engine accepts an access whose translation was filled for it: its lock ends (R307). -/
def State.accept (s : State) (die : Nat) (id lane : Nat) (p : Place) : State :=
  ((s.modAcc id lane fun a => { a with status := .ready p }).unlock die).retryFills die

/-- ATS_TRANSLATION_RESPONSE: `grant` is the first host-physical byte, the size and the write permission of the
translation that covers the page. It has no effect unless the request is outstanding. -/
def execAtsTranslationResponse (die : Nat) (pasid : BitVec 20) (page : BitVec 44) (write : Bool)
    (grant : Option (Nat × Nat × Bool)) (s : State) : Result :=
  match (s.die die).requests.find? fun k => k.pasid == pasid && k.page == page && k.write == write with
  | none => .next s
  | some w =>
    .next (match grant with
      | none => s.faultPage die w
      | some (h, size, wr) =>
        let a := 4096 * page.toNat
        let base := a / size * size
        match s.fromHost (h + (a - base)) with
        | none =>
          let s' := s.refuse die (s.askers die w) ((s.die die).asking.filter w.same)
          s'.modDie die fun d => { d with requests := d.requests.filter fun k => !w.same k }
        | some (pa, tier) =>
          let sz := min (max size 4096) tier
          let first := a / sz * sz
          s.grantPage die w ⟨pasid, first, sz, pa - (a - first), wr, none, []⟩)

/-- Accesses from a die's cores, still to be performed, that have been translated through an address of a PASID. -/
def State.translatedIn (s : State) (die : Nat) (pasid : BitVec 20) (p : Nat → Bool) : List Nat :=
  (s.log.filter fun e => e.core / 64 == die && (s.fe (s.feOf e.team)).pasid == pasid).flatMap fun e =>
    (e.lanes.filter fun a => globalAddr a.addr.toNat && p a.addr.toNat && (match a.status with
      | .granted _ | .ready _ | .clock _ | .hostRead _ | .exported _ _ _ | .peer _ | .ordered _ | .stageWait _ _
      | .forwarded _ _ _ => true
      | _ => false)).map LaneAcc.acc

/-- R308: whether the Invalidate Completion of a request has been sent. -/
def State.invalidated (s : State) (i : Invalidation) : Bool := i.accs.all fun n => !s.accPending n

/-- Cores of a die. -/
def coresOf (die : Nat) : List Nat := (List.range 64).map fun i => 64 * die + i

/-- ATS_INVALIDATE_REQUEST (R308): matching translations leave both levels of the die, and those that wait for an entry; the
Invalidate Completion goes out once every access translated through them has been performed (`State.invalidated`). -/
def execAtsInvalidateRequest (die : Nat) (pasid : BitVec 20) (range : Option (Nat × Nat)) (s : State) : Result :=
  let hit (t : Translation) : Bool := t.pasid == pasid && (match range with
    | none => true
    | some (lo, n) => decide (t.page < lo + n) && decide (lo < t.page + t.size))
  let drop (l : List Translation) := l.filter fun t => !hit t
  let gone := ((s.die die).tlb ++ (coresOf die).flatMap fun c => (s.core c).tlb).filter hit
  let accs := s.translatedIn die pasid fun a => (match range with
    | none => true
    | some (lo, n) => decide (lo ≤ a) && decide (a < lo + n)) || gone.any fun t => decide (t.page ≤ a) && decide (a < t.page + t.size)
  let s := s.modDie die fun d => { d with
    tlb := drop d.tlb, fills := d.fills.filter fun k => !hit k.2, invals := d.invals ++ [⟨pasid, range, accs⟩] }
  .next ((coresOf die).foldl (fun s c => s.modCore c fun c => { c with tlb := drop c.tlb }) s)

/-- PAGE_REQUEST_GROUP_RESPONSE (R311, R316, R318): RESP of an entry whose request has gone out is set once; a refusal kills every
joined lane, and the team of a joined release. After a success nothing is left that the entry answers for. -/
def execPageRequestGroupResponse (die entry : Nat) (resp : Fin 4) (s : State) : Result :=
  let f := nth (s.die die).fbuf entry
  if !f.valid || !f.sent || f.resp != 0 || resp.val == 0 then .next s
  else
    let s := s.modDie die fun d => { d with fbuf := upd d.fbuf entry fun f => { f with resp := BitVec.ofNat 2 resp.val } }
    let s := s.sendUnsent (die / 2)
    let owing := (List.range s.teams.length).filter fun t => (s.team t).blocked == some (die, entry)
    let s := owing.foldl (fun s t => s.decideRelaunch t (resp.val == 1)) s
    let joined := s.lanesOn die fun _ a => a.status == .fault (some entry)
    let mine (k : PageWait × Option Nat) : Bool := k.2 == some entry
    if resp.val = 1 then
      .next ((joined.foldl (fun s k => s.modAcc k.1 k.2.1 fun a => { a with status := .fault none }) s).modDie die fun d =>
        { d with waiting := d.waiting.map fun k => if mine k then (k.1, none) else k })
    else .next (s.refuse die joined (((s.die die).waiting.filter mine).map Prod.fst))

/-- FBUF_VALID_CLEAR (R311). -/
def execFbufValidClear (die entry : Nat) (s : State) : Result :=
  .next (if (nth (s.die die).fbuf entry).resp = 0 then s
    else s.modDie die fun d => { d with fbuf := upd d.fbuf entry fun _ => FaultEntry.reset })

/-- FSTAT_DROP_CLEAR (R309). -/
def execFstatDropClear (die : Nat) (s : State) : Result := .next (s.modDie die fun d => { d with drop := false })

/-! ## Replay-all (R315) -/

/-- Translate a faulted lane's address afresh. -/
def State.replayLane (s : State) (id lane core fe : Nat) : State :=
  match s.logEntry id with
  | none => s
  | some e =>
    match e.acc lane with
    | none => s
    | some a =>
      match s.translate core fe a.addr.toNat e.kind.writes with
      | (some pa, s) => s.modAcc id lane fun a => { a with status := .ready (.phys pa) }
      | (none, s) => s.modAcc id lane fun a => { a with status := .ats }

def AccStatus.isFault : AccStatus → Bool
  | .fault _ => true
  | _ => false

/-- Take up every parked access of the die, log entries first, oldest first, then the others, each with a fresh look into the
second level. A lane whose first translation is still outstanding is taken up with it. -/
def State.replayAll (s : State) (die : Nat) : State :=
  let up := s.lanesOn die fun _ a => a.status.isFault || (a.status == .ats && a.parked)
  let accs := up.filterMap fun k => ((s.logEntry k.1).bind fun e => e.acc k.2.1).map LaneAcc.acc
  let s := (s.lanesOn die fun _ a => a.status.isFault).foldl (fun s k => s.replayLane k.1 k.2.1 k.2.2.1 k.2.2.2) s
  let ws := (s.die die).waiting.map Prod.fst
  let lost := ws.filter fun w => (tlbFind (s.die die).tlb w.pasid (4096 * w.page.toNat) w.write).isNone
  let s := lost.foldl (fun s w => s.request die w) s
  s.modDie die fun d => { d with
    waiting := [], asking := d.asking ++ lost, replaying := true, replayAccs := accs, replayWaits := ws }

/-- REPLAY: a write during a replay starts one further replay when it ends. -/
def execReplay (die : Nat) (s : State) : Result :=
  .next (if (s.die die).replaying then s.modDie die fun d => { d with replayAgain := true } else s.replayAll die)

/-- Whether every access that a replay took up has been translated afresh, and accepted or faulted again. -/
def State.replayDone (s : State) (die : Nat) : Bool :=
  let d := s.die die
  d.replaying && (d.replayWaits.all fun w => !d.asking.contains w) &&
    (s.lanesOn die fun _ a => d.replayAccs.contains a.acc && (match a.status with
      | .ats | .granted _ => true
      | _ => false)).isEmpty

/-- REPLAY_END: has no effect while an access that the replay took up is unanswered. -/
def execReplayEnd (die : Nat) (s : State) : Result :=
  .next (if !s.replayDone die then s
    else
      let again := (s.die die).replayAgain
      let s := s.modDie die fun d => { d with
        replaying := false, replayAgain := false, replayAccs := [], replayWaits := [] }
      if again then s.replayAll die else s)

end Sys2Proof.Machine
end

