-- ==== Sys2Proof/Machine/Perform.lean ====
section
/-! DEFINITION. Performing lane accesses: what each kind does at its place, the conditions under which it is
performed, staging in ordered grids, exports to other dies (R260 to R300, R313, R314, R438 to R443, R451, R467). -/

namespace Sys2Proof.Machine

/-! ## Data (R263, R266, R267) -/

def MSize.bytes : MSize → Nat
  | .b8 | .s8 => 1
  | .b16 | .s16 => 2
  | .b32 => 4
  | .b64 => 8

/-- A datum as its load gives it (R263). -/
def MSize.extend (sz : MSize) (x : Nat) : Nat :=
  match sz with
  | .s8 => wrap 32 (signed 8 x)
  | .s16 => wrap 32 (signed 16 x)
  | _ => x

def ATy.bytes (t : ATy) : Nat := if t.wide then 8 else 4

def ATy.float : ATy → FTy
  | .f16 => .f16
  | .bf16 => .bf16
  | .f64 => .f64
  | _ => .f32

/-- fmax.abs (R267). -/
def maxAbs (a b : Nat) : Nat :=
  if (FFmt.fp32.value a).isNan || (FFmt.fp32.value b).isNan then 0x7FC00000 else max (a % 2 ^ 31) (b % 2 ^ 31)

/-- The new value of an atomic (R267); `c` is the swap value of cas. -/
def atomNew (op : AOp) (t : ATy) (old b c : Nat) : Nat :=
  let n := 8 * ATy.bytes t
  let val (x : Nat) : Int := if t == .s32 then signed 32 x else (x : Int)
  match op with
  | .add => (old + b) % 2 ^ n
  | .min => if val b < val old then b else old
  | .max => if val old < val b then b else old
  | .andB => old &&& b
  | .orB => old ||| b
  | .xorB => old ^^^ b
  | .exch => b
  | .cas => if old = b then c else old
  | .fadd =>
    let ty := ATy.float t
    let f := FFmt.ofTy ty
    (perElem ty fun e => addRounded f .rne (f.value (part ty old e)) (f.value (part ty b e))).code
  | .fmaxAbs => maxAbs old b

/-- Bytes that an access of a kind covers at its address. -/
def MemKind.bytes : MemKind → Nat
  | .ld sz _ | .st sz | .ldx sz _ _ _ _ _ | .stx sz _ _ _ _ _ => MSize.bytes sz
  | .atom _ t _ | .red _ t => ATy.bytes t
  | .stload _ => 64
  | .launch _ => 256
  | .cinv | .cwb | .fence | .own _ _ _ => 1

/-! ## Orders and scopes (R54, R258, R261, R283) -/

def Order.acquires : Order → Bool
  | .acq | .ar | .sc => true
  | _ => false

def Order.releases : Order → Bool
  | .rel | .ar | .sc => true
  | _ => false

/-- Whether the access or fence is a release, which waits as R442 says. -/
def MemKind.isRelease (k : MemKind) (o : Order) : Bool :=
  match k with
  | .launch _ => true
  | .ld _ _ => o == .sc
  | .fence => Order.releases o
  | k => k.writes && Order.releases o

/-- Whether the access or fence is an acquire. -/
def LogEntry.isAcquire (e : LogEntry) (o : Order) : Bool :=
  match e.kind with
  | .fence => Order.acquires o
  | _ => e.loads && Order.acquires o

/-- The order and scope that an access acts with (R258, R261). -/
def strengthen (k : MemKind) (tso : Bool) (o : Order) (sc : Scope) : Order × Scope :=
  let sc := if sc == .none && (Order.acquires o || Order.releases o) then .dev else sc
  if !tso then (o, sc)
  else
    match k with
    | .ld _ _ | .ldx _ _ _ _ _ _ | .stload _ => (if o == .sc then .sc else .acq, .sys)
    | .launch _ => (.acq, .sys)
    | .st _ | .stx _ _ _ _ _ _ => (if o == .sc then .sc else .rel, .sys)
    | .atom _ _ _ | .red _ _ => (if o == .sc then .sc else .ar, .sys)
    | _ => (o, sc)

/-! ## Addresses (R37, R244, R260) -/

/-- The address, or for an aperture form the 32-bit offset, that a lane forms. -/
def State.formed (s : State) (t c : Nat) (ap : Aper) (base index : Opnd) (off : Int) (l : Nat) : Nat :=
  match ap with
  | .generic => wrap 64 (s.rd64 t c base l + s.rd32 t c index l + off)
  | _ => wrap 32 (s.rd32 t c base l + s.rd32 t c index l + off)

/-- The checks of R260 on a formed address, and on that of a launch record's second line: its generic form, or class and %tinfo of the
trap. -/
def State.checkAddr (s : State) (t c : Nat) (ap : Aper) (size a l : Nat) : Except (Nat × Nat) Word64 :=
  let at_ (a : Nat) : Except (Nat × Nat) Word64 :=
    match decodeForm ap a with
    | .error i => .error (6, i)
    | .ok d =>
      match s.resolve t c l d with
      | .error i => .error (6, i)
      | .ok _ => .ok (BitVec.ofNat 64 d.generic)
  if a % size ≠ 0 then .error (5, a % 65536)
  else
    match at_ a, decide (size ≤ 128) with
    | .ok x, false => (at_ (a + 128)).map fun _ => x
    | r, _ => r

/-- Register `j` of a range that begins with `d`. -/
def dstAt (d : Dst) (j : Nat) : Opnd :=
  match d with
  | .v n => .v (Fin.ofNat 768 (n.val + j))
  | .s n => .s (Fin.ofNat 128 (n.val + j))

/-- The address of element `j` of an ldx or stx in a lane (R264). -/
def State.elemAddr (s : State) (e : LogEntry) (l j : Nat) : Option (Aper × Nat) :=
  match e.kind with
  | .ldx _ _ _ base idx ap | .stx _ _ _ base idx ap => some (ap, s.formed e.team e.crew ap base (dstAt idx j) 0 l)
  | _ => none

/-! ## Where an access goes (R439, R451, R455) -/

/-- The landing-list entry of a front end that a device-physical address names. -/
def FrontEnd.landingOf (f : FrontEnd) (pa : Nat) : Option Nat :=
  (List.range f.landing.length).find? fun i => (nth f.landing i).src / 2 ^ 21 == pa / 2 ^ 21 && isPeer pa

/-- A landed page's place (R453). -/
def State.redirect (s : State) (fe pa : Nat) : Nat :=
  match (s.fe fe).landingOf pa with
  | some i =>
    let k := nth (s.fe fe).landing i
    if k.pstate = 2 then k.land / 2 ^ 21 * 2 ^ 21 + pa % 2 ^ 21 else pa
  | none => pa

/-- Ask for the pull of a remote page (R455). -/
def State.startPull (s : State) (fe i : Nat) : State :=
  s.modFe fe fun f => { f with landing := upd f.landing i fun k => { k with wanted := true } }

/-- The landing-list entry of a page that has not landed. -/
def State.remote (s : State) (fe pa : Nat) : Option Nat :=
  let k := s.redirect fe pa
  if isPeer k then (s.fe fe).landingOf k else none

/-- Where an access stands when its address is presented (R250, R313, R455): at an absent scratchpad line, waiting for a
translation or for a page that is pulled, or ready. The presence bit is not looked at again when the access is performed
(log 57). -/
def State.aim (s : State) (e : LogEntry) (l : Nat) (a : Nat) : AccStatus × State :=
  match decodeAddr a with
  | .error _ => (.done, s)
  | .ok d =>
    match s.resolve e.team e.crew l d with
    | .error _ => (.done, s)
    | .ok (.place (.spad k o)) =>
      (if (linesAt o e.kind.bytes).any (s.team k).absent.contains then .presence k o else .ready (.spad k o), s)
    | .ok (.place p) => (.ready p, s)
    | .ok (.global g) =>
      let fe := s.feOf e.team
      match s.translate e.core fe g e.kind.writes with
      | (some pa, s) => (match s.remote fe pa, e.kind.atomic || e.kind.silent with
        | some i, false => (.pulling fe i (.phys pa), s.startPull fe i)
        | _, _ => (.ready (.phys pa), s))
      | (none, s) => (.ats, s)

/-- Why a status parks its lane, if it does. -/
def AccStatus.parks : AccStatus → Option ParkWhy
  | .presence _ _ => some .presence
  | .ats | .pulling _ _ _ => some .pageFault
  | _ => none

/-- Whether a lane still stands at the word after an instruction. -/
def Thread.atNext (th : Thread) (pc : Word64) : Bool := th.state == .active && th.pc == pc + 8

def State.lanesAtNext (s : State) (t c : Nat) (m : Mask) (pc : Word64) : Bool :=
  (lanesOf m).all fun l => ((s.crew t c).th l).atNext pc

/-- Give an access a status. -/
def State.setStatus (s : State) (id lane : Nat) (st : AccStatus) : State :=
  s.modAcc id lane fun a => { a with status := st }

/-- Park the lanes of an access that has just been presented, where its status parks them (R313); cinv and cwb park
nothing. -/
def State.parkIf (s : State) (id lane : Nat) : State :=
  match s.logEntry id with
  | none => s
  | some e =>
    match ((e.acc lane).map LaneAcc.status).bind AccStatus.parks with
    | some why => if e.kind.silent then s else s.parkAcc id lane why
    | none => s

/-! ## Order of accesses of one crew to one line (R280, R314) -/

def AccStatus.place : AccStatus → Option Place
  | .presence t o => some (.spad t o)
  | .ready p | .granted p | .clock p | .hostRead p | .exported _ _ p | .peer p | .ordered p | .stageWait _ p | .pulling _ _ p
  | .forwarded _ _ p => some p
  | _ => none

/-- Whether `n` bytes and `m` bytes touch a common line. -/
def linesMeet (a n b m : Nat) : Bool := decide (a / 128 ≤ (b + m - 1) / 128) && decide (b / 128 ≤ (a + n - 1) / 128)

/-- Whether `n` bytes at a place and `m` bytes at another touch a common line. -/
def Place.linesMeet (p : Place) (n : Nat) (q : Place) (m : Nat) : Bool :=
  match p, q with
  | .spad t o, .spad u r => t == u && Machine.linesMeet o n r m
  | .phys a, .phys b => Machine.linesMeet a n b m
  | _, _ => false

/-- Whether `n` bytes at a place and `m` bytes at another share a byte. -/
def Place.meets (p : Place) (n : Nat) (q : Place) (m : Nat) : Bool :=
  match p, q with
  | .spad t o, .spad u r => t == u && decide (o < r + m) && decide (r < o + n)
  | .phys a, .phys b => decide (a < b + m) && decide (b < a + n)
  | _, _ => false

/-- Device-physical place of a global address that a translation cache holds. -/
def State.cached (s : State) (t : Nat) (a : Nat) : Option Nat :=
  let core := (s.team t).core
  let pasid := (s.fe (s.feOf t)).pasid
  match tlbFind (s.core core).tlb pasid a false, tlbFind (s.die (core / 64)).tlb pasid a false with
  | some k, _ => some (k.to a)
  | none, some k => some (k.to a)
  | none, none => none

/-- The place of an access as far as it is known: where it stands, or where its address leads by the windows and the
translations that the caches hold (log 58). -/
def State.placeOf (s : State) (e : LogEntry) (a : LaneAcc) : Option Place :=
  match a.status.place with
  | some p => some p
  | none =>
    match decodeAddr a.addr.toNat with
    | .error _ => none
    | .ok d =>
      match s.resolve e.team e.crew a.l d with
      | .ok (.place p) => some p
      | .ok (.global g) => (s.cached e.team g).map .phys
      | .error _ => none

/-- Whether two accesses reach a common line, by generic address or by place. -/
def State.meetLine (s : State) (e : LogEntry) (a : LaneAcc) (k : LogEntry) (b : LaneAcc) : Bool :=
  let n := e.kind.bytes
  let m := k.kind.bytes
  linesMeet a.addr.toNat n b.addr.toNat m || (match s.placeOf e a, s.placeOf k b with
    | some p, some q => p.linesMeet n q m
    | _, _ => false)

/-- Whether two accesses reach a common byte; for cinv and cwb, a common line. -/
def State.meet (s : State) (e : LogEntry) (a : LaneAcc) (k : LogEntry) (b : LaneAcc) : Bool :=
  if e.kind.silent || k.kind.silent then s.meetLine e a k b
  else
    let x := a.addr.toNat
    let y := b.addr.toNat
    let n := e.kind.bytes
    let m := k.kind.bytes
    (decide (x < y + m) && decide (y < x + n)) || (match s.placeOf e a, s.placeOf k b with
      | some p, some q => p.meets n q m
      | _, _ => false)

/-- Whether an access holds every later one of its crew to its lines (R314, R455): its lane is parked at a global address and it
has begun, or it is an atomic that has been forwarded. -/
def LaneAcc.holdsLine (a : LaneAcc) : Bool :=
  match a.status with
  | .forwarded _ _ _ => true
  | .later | .behind | .staged | .done => false
  | _ => a.parked && isGlobal a.addr.toNat

/-- Whether an access waits behind a parked access of its crew to a common line without a translation of its own (R314). -/
def State.behindParked (s : State) (e : LogEntry) (a : LaneAcc) : Bool :=
  isGlobal a.addr.toNat && s.log.any fun k => k.team == e.team && k.crew == e.crew && k.id != e.id &&
    k.lanes.any fun b => decide (b.acc < a.acc) && b.parked && b.holdsLine &&
      linesMeet a.addr.toNat e.kind.bytes b.addr.toNat k.kind.bytes

/-- Whether an access of its crew comes first (R280, R314): one of an earlier instruction to the same bytes, or to the line
where it holds that; or one of the same instruction, of a lower lane or an earlier element. An element that a stop has kept from
beginning holds up none (log 68). -/
def State.lineTaken (s : State) (e : LogEntry) (a : LaneAcc) : Bool :=
  !e.kind.bare && s.log.any fun k => k.team == e.team && k.crew == e.crew && !k.kind.bare &&
    k.lanes.any fun b => b.status.pends &&
      (if k.id = e.id then (decide (b.l < a.l) || (b.l == a.l && decide (b.elem < a.elem))) &&
          (b.status != .later || !(s.team e.team).saving) && s.meet e a k b
       else decide (b.acc < a.acc) && (s.meet e a k b || (b.holdsLine && s.meetLine e a k b)))

def lineOwner (l : List (Nat × LineOwner)) (line : Nat) : Option LineOwner :=
  (l.find? fun k => k.1 == line).map Prod.snd

/-- Whether an ordered grid's map applies to an access (R292). -/
def State.mapped (s : State) (e : LogEntry) (a : LaneAcc) (p : Place) : Bool :=
  (s.gridOf e.team).record.ord && isGlobal a.addr.toNat && !e.kind.silent && !e.kind.bare &&
    (match p with
     | .phys _ => true
     | _ => false)

/-- Whether an access's line is shared in the map of its ordered grid (R292). -/
def State.onShared (s : State) (e : LogEntry) (a : LaneAcc) (p : Place) : Bool :=
  s.mapped e a p && lineOwner (s.gridOf e.team).owners (a.addr.toNat / 128) == some .shared

/-- Whether a write at its place will be staged (R293). -/
def State.willStage (s : State) (e : LogEntry) (a : LaneAcc) (p : Place) : Bool :=
  s.mapped e a p && lineOwner (s.gridOf e.team).owners (a.addr.toNat / 128) != some (.team (s.team e.team).index)

def AccStatus.isOrdered : AccStatus → Bool
  | .ordered _ => true
  | _ => false

/-- R279: whether a load of its thread, issued before a write, is still to be performed; one that waits for its team's turn
holds up no write that is staged, since that is released after it (R298). -/
def State.loadAhead (s : State) (e : LogEntry) (a : LaneAcc) : Bool :=
  let m := e.lanesFor a.lane
  let staged := (s.placeOf e a).any fun p => s.willStage e a p
  e.kind.writes && s.log.any fun k => k.team == e.team && k.crew == e.crew && k.id != e.id && k.loads &&
    k.lanes.any fun b => decide (b.acc < a.acc) && b.status.pends && k.lanesFor b.lane &&& m != 0 &&
      !(staged && b.status.isOrdered)

/-- R273: whether an access of a team, issued before access `n`, has still to find its line's state in the map. The accesses of
copies and matrix operations are not among them: they find the map at each unit, also after a later own (the model's choice,
log 23). -/
def State.mapPending (s : State) (t n : Nat) : Bool :=
  s.log.any fun e => e.team == t && !e.kind.bare && !e.kind.silent && !e.posted && e.lanes.any fun a =>
    decide (a.acc < n) && isGlobal a.addr.toNat && (match a.status with
      | .ordered _ | .stageWait _ _ | .staged | .exported _ _ _ | .peer _ | .forwarded _ _ _ | .done => false
      | _ => !a.released)

/-- R273: whether a claim of its team, issued before an access, has still to take effect for it; or before a claim, an access
that does not see it. -/
def State.claimAhead (s : State) (e : LogEntry) (a : LaneAcc) : Bool :=
  match e.kind with
  | .own _ _ _ => s.mapPending e.team a.acc
  | .fence => false
  | k => isGlobal a.addr.toNat && !k.silent && s.log.any fun o => o.team == e.team && (match o.kind with
      | .own _ _ _ => o.lanes.any fun b => decide (b.acc < a.acc) && b.status.pends
      | _ => false)

/-- The scope instance of an event of a team (R282, R287). -/
def State.scInstance (s : State) (e : LogEntry) (sc : Scope) : Nat × Nat :=
  let tm := s.team e.team
  match sc with
  | .team => (0, e.team)
  | .cohort => (1, 2 ^ 32 * tm.grid + tm.index / (s.grid tm.grid).record.cohort)
  | .die => (2, e.core / 64)
  | .sys => (4, 0)
  | _ => (3, 0)

/-- R287: whether an .sc event may take its place: what earlier ones of its instance stand after has been performed. -/
def State.scReady (s : State) (e : LogEntry) (a : LaneAcc) : Bool :=
  a.order != .sc || s.scOwed.all fun k => k.1 != s.scInstance e a.scope || k.2.all fun n => !s.accPending n

/-- R218: whether an earlier stload of the crew has still to write the slot. -/
def State.slotTaken (s : State) (e : LogEntry) : Bool :=
  match e.kind with
  | .stload x => s.log.any fun k => k.team == e.team && k.crew == e.crew && decide (k.id < e.id) && k.kind == .stload x
  | _ => false

/-- Whether everything that the access is performed after has been performed. -/
def State.freeToGo (s : State) (e : LogEntry) (a : LaneAcc) : Bool :=
  (a.after.all fun n => !s.holdsBack e.team n) && !s.lineTaken e a && !s.loadAhead e a && !s.slotTaken e && !s.claimAhead e a &&
    s.scReady e a

/-! ## Reading and writing at a place -/

/-- Whether a global address lies in a TSO window of the team's front end. -/
def State.tsoAt (s : State) (t : Nat) (a : Nat) : Bool := isGlobal a && (s.fe (s.feOf t)).tso a

/-- The crew has read a value with a stamp (R441). -/
def State.observe (s : State) (t c : Nat) (k : List Word64) : State :=
  s.modCrew t c fun cr => { cr with clock := maxClock cr.clock k }

/-- Bytes that a load of a lane reads at a place. A load of a shared line of an ordered grid reads memory (R298). -/
def State.readAt (s : State) (e : LogEntry) (a : LaneAcc) (p : Place) (n : Nat) : List Byte × State :=
  match p with
  | .spad k o => (s.readPad k o n, s)
  | .guard b u o => (List.replicate n 0, s.touchGuard e.team b u o)
  | .phys pa =>
    let (bs, k, s) := s.loadMem e.core (s.feOf e.team) (s.team e.team).grid pa n
      (!Order.acquires a.order && !s.onShared e a p) a.tso
    (bs, s.observe e.team e.crew k)

/-- Bytes that an atomic finds at its line. -/
def State.readLine (s : State) (e : LogEntry) (p : Place) (n : Nat) : List Byte × State :=
  match p with
  | .spad k o => (s.readPad k o n, s)
  | .guard _ _ _ => (List.replicate n 0, s)
  | .phys pa =>
    let k := clockIn s.stamps pa n (s.team e.team).grid
    let (bs, s) := s.readMem (s.feOf e.team) pa n
    (bs, s.observe e.team e.crew k)

/-- What a store to a scratchpad overwrites, word by word, for the engines that may still read it (R270). -/
def State.noteWords (s : State) (e : LogEntry) (k o n : Nat) : State :=
  s.modTeam k fun tm =>
    let words := (List.range ((o + n - 1) / 4 + 1 - o / 4)).map fun i => o / 4 + i
    let was (w : Nat) : Word32 := BitVec.ofNat 32 (ofBytes (Sparse.getList tm.spad (4 * w) 4))
    let new := (words.map fun w => (⟨e.team, e.crew, w, was w, false, false, [], []⟩ : Unsealed)).filter fun u => !tm.unsealed.contains u
    { tm with unsealed := new ++ tm.unsealed }

/-- A write of a team's access at a place: guards take none (R251), a host or CXL line is remembered with its port (R467). -/
def State.writeAt (s : State) (e : LogEntry) (p : Place) (bs : List Byte) (stamp : List Word64) : State :=
  match p with
  | .spad k o => (s.noteWords e k o bs.length).writePad k o bs
  | .guard b u o => s.touchGuard e.team b u o
  | .phys pa =>
    let s := s.writeMem (some e.core) (s.feOf e.team) pa bs stamp
    if isHost pa then s.modCrew e.team e.crew fun cr => { cr with ports := (portOf pa :: cr.ports).eraseDups } else s

/-- A write to the global window has been performed: it ends relaunchability in free mode (R235). -/
def State.escape (s : State) (e : LogEntry) (a : LaneAcc) : State :=
  if e.kind.writes && !e.posted && isGlobal a.addr.toNat && !(s.gridOf e.team).record.ord then
    s.modTeam e.team fun tm => { tm with escaped := true } else s

/-- Element data of an stx lane, or the datum of its entry. -/
def State.storeDatum (s : State) (e : LogEntry) (a : LaneAcc) : Nat :=
  match e.kind with
  | .stx sz _ d _ _ _ =>
    if sz.wide then s.rd64 e.team e.crew (dstAt d (2 * a.elem)) a.l else s.rd32 e.team e.crew (dstAt d a.elem) a.l
  | _ => a.data.toNat

/-- Write a loaded or returned datum into a lane's destination. -/
def Crew.takeDatum (cr : Crew) (k : MemKind) (elem l x : Nat) : Crew :=
  match k with
  | .ld sz d => cr.setD d sz.wide l (MSize.extend sz x)
  | .ldx sz _ d _ _ _ =>
    if sz.wide then cr.setV64 (d + 2 * elem) l (BitVec.ofNat 64 x)
    else cr.setV (d + elem) l (BitVec.ofNat 32 (MSize.extend sz x))
  | .atom _ t d => cr.setD d t.wide l x
  | .launch d => cr.setD d false l x
  | _ => cr

def State.giveDatum (s : State) (e : LogEntry) (a : LaneAcc) (x : Nat) : State :=
  (s.modCrew e.team e.crew fun cr => cr.takeDatum e.kind a.elem a.l x).noteStale s e.team e.crew e.kind.results (laneBit a.l)

/-- Present the address of an access: it waits behind a parked access, or looks for its place. -/
def State.present (s : State) (id lane : Nat) : State :=
  match s.logEntry id with
  | none => s
  | some e =>
    match e.acc lane with
    | none => s
    | some a =>
      if s.behindParked e a then s.setStatus id lane .behind
      else
        let (st, s) := s.aim e a.l a.addr.toNat
        s.setStatus id lane st

/-- Present an access that has waited behind a parked one. Its lane parks where it lacks its place, unless it has gone on
(log 59). -/
def State.presentLate (s : State) (id lane : Nat) : State :=
  let s := s.present id lane
  match s.logEntry id with
  | none => s
  | some e =>
    let m := e.lanesFor lane
    if m &&& (s.waitingAt e m) == m || m &&& ~~~(s.crew e.team e.crew).bundle == 0 && e.kind.elems ||
        s.lanesAtNext e.team e.crew m e.pc then s.parkIf id lane else s

/-- Whether an access stands where the lane begins no further element. -/
def AccStatus.waits : AccStatus → Bool
  | .behind | .presence _ _ | .ats | .fault _ | .trapping _ _ | .granted _ | .pulling _ _ _ => true
  | _ => false

/-- Begin up to `n` elements of a lane, in ascending order, until one waits, and parks it (R264, R265). -/
def State.beginElems (n : Nat) (s : State) (id l : Nat) : State :=
  match n with
  | 0 => s
  | n + 1 =>
    match s.logEntry id with
    | none => s
    | some e =>
      if (e.openOf l).any fun a => a.status.waits then s
      else
        match e.firstLater l with
        | none => s
        | some a => State.beginElems n ((s.present id a.lane).parkIf id a.lane) id l

/-- A lane that was parked at an element goes on with those after it; while its team is being stopped, %pix stands at the first of
these (R265). -/
def State.resumeElems (s : State) (id l : Nat) : State :=
  match s.logEntry id with
  | none => s
  | some e =>
    let mine := e.openOf l
    if !(mine.any LaneAcc.parked) then s
    else if !(s.team e.team).saving then State.beginElems 16 s id l
    else
      match mine.any fun a => a.status != .later, e.firstLater l with
      | false, some a =>
        let m := s.waitingAt e (laneBit l)
        s.modCrew e.team e.crew fun cr => cr.modLanes m fun _ th => { th with pix := BitVec.ofNat 32 a.elem }
      | _, _ => s

/-- The access has its value, or is performed: loads and atomics return it, and its lane's next elements may begin. -/
def State.finishWith (s : State) (e : LogEntry) (a : LaneAcc) (bs : List Byte) : State :=
  let s := s.escape e a
  match e.kind with
  | .stload x =>
    let w := BitVec.ofNat 512 (ofBytes bs)
    (s.modTeam e.team fun tm => { tm with stencils := upd tm.stencils x.val fun _ => w }).accDone e.id a.lane
  | _ => ((s.giveDatum e a (ofBytes bs)).accDone e.id a.lane).resumeElems e.id a.l

/-! ## Conditions of releases and sequentially consistent events (R442, R443, R451, R467) -/

/-- R451: no earlier peer write of the crew is unacknowledged; R469: a release at .sys waits for the crew's cwbs. -/
def State.peersAcked (s : State) (e : LogEntry) (a : LaneAcc) : Bool :=
  !(s.log.any fun k => k.team == e.team && k.crew == e.crew && k.lanes.any fun b =>
    decide (b.acc < a.acc) && e.kind.isRelease a.order && a.scope == .sys &&
      ((k.kind == .cwb && b.status.pends) ||
        (k.kind.writes && match b.status.place with
          | some (.phys pa) => isPeer pa
          | _ => false)))

/-- The status in which a release waits, if it must. -/
def State.releaseWait (s : State) (e : LogEntry) (a : LaneAcc) (p : Place) : Option AccStatus :=
  if !e.kind.isRelease a.order then none
  else if !s.clocksHold e.team e.crew then some (.clock p)
  else if a.scope == .sys && !(s.crew e.team e.crew).ports.isEmpty then some (.hostRead p)
  else none

/-- An .sc event takes the next number of its scope's sequencer (R443), and with it its place in the order of its instance: later
events there come after what the lanes of a fence have issued before it (R287, log 69). -/
def State.takeNumber (s : State) (e : LogEntry) (a : LaneAcc) : State :=
  if a.order != .sc then s
  else
    let m := e.lanesFor a.lane
    let owed := (s.pendingAccs e.team e.crew m ++ (lanesOf m).flatMap fun l => ((s.crew e.team e.crew).th l).carried).filter fun n =>
      decide (n < a.acc) && s.accPending n
    let kept := s.scOwed.filter fun k => k.2.any s.accPending
    let s := { s with scOwed := if owed.isEmpty then kept else kept ++ [(s.scInstance e a.scope, owed)] }
    let die := e.core / 64
    match a.scope with
    | .team | .cohort => s.modDie die fun d => { d with clusterSeq := upd d.clusterSeq (e.core / 4 % 16) (· + 1) }
    | .die => s.modDie die fun d => { d with sequencer := d.sequencer + 1 }
    | _ => { s with sequencer := s.sequencer + 1 }

/-- R284, R467: an acquire at .cohort or wider makes the core's read cache miss. -/
def State.acquireAt (s : State) (e : LogEntry) (a : LaneAcc) : State :=
  if e.isAcquire a.order && a.scope != .team && a.scope != .none then s.dropLines e.core else s

/-- What an access does to the orders as it is performed: its number, unless it took that as it was staged, and the read cache that
an acquire leaves. -/
def State.orderAt (s : State) (e : LogEntry) (a : LaneAcc) : State :=
  (if a.released then s else s.takeNumber e a).acquireAt e a

/-! ## The line ownership map (R292, R293, R273) -/

def setOwner (l : List (Nat × LineOwner)) (line : Nat) (o : LineOwner) : List (Nat × LineOwner) :=
  (line, o) :: l.filter fun k => k.1 != line

/-- R293: a line becomes shared with an ownership-conflict record. -/
def State.conflict (s : State) (g line j : Nat) (i : Option Nat) : State :=
  let gr := s.grid g
  (s.modGrid g fun gr => { gr with owners := setOwner gr.owners line .shared }).post gr.fe
    (conflictRecord (BitVec.ofNat 64 (128 * line)) j i gr.handle)

/-- R293: whether an access of a team finds its line shared, with the change of state that it causes. -/
def State.findShared (s : State) (t line : Nat) (write : Bool) : Bool × State :=
  let tm := s.team t
  match lineOwner (s.grid tm.grid).owners line with
  | none => if write then (true, s.conflict tm.grid line tm.index none) else (false, s)
  | some (.team i) => if i = tm.index then (false, s) else (true, s.conflict tm.grid line tm.index (some i))
  | some .shared => (true, s)

/-- What own does to one line (R273). -/
def State.claimLine (s : State) (t : Nat) (shr : Bool) (line : Nat) : State :=
  let tm := s.team t
  let set (o : LineOwner) (s : State) := s.modGrid tm.grid fun gr => { gr with owners := setOwner gr.owners line o }
  match lineOwner (s.grid tm.grid).owners line, shr with
  | none, false => set (.team tm.index) s
  | some (.team i), false => if i = tm.index then s else s.conflict tm.grid line tm.index (some i)
  | some .shared, _ => s
  | _, true => set .shared s

/-- What an access does at its place: the indivisible step of its lane. -/
def State.performAt (s : State) (e : LogEntry) (a : LaneAcc) (p : Place) : State :=
  let s := s.orderAt e a
  match e.kind with
  | .ld _ _ | .ldx _ _ _ _ _ _ | .stload _ =>
    let (bs, s) := s.readAt e a p e.kind.bytes
    s.finishWith e a bs
  | .st _ | .stx _ _ _ _ _ _ =>
    (s.writeAt e p (bytesOf e.kind.bytes (s.storeDatum e a)) a.stamp).finishWith e a []
  | .atom op t _ | .red op t =>
    let n := ATy.bytes t
    let (bs, s) := s.readLine e p n
    let new := atomNew op t (ofBytes bs) a.data.toNat a.data2.toNat
    (s.writeAt e p (bytesOf n new) a.stamp).finishWith e a bs
  | .cinv => (match p with
    | .phys pa => s.dropLine e.core (pa / 128)
    | _ => s.dropLines e.core).accDone e.id a.lane
  | .cwb => (match p with
    | .phys pa =>
      let clean (k : CacheLine) : CacheLine := if k.line = pa / 128 then { k with old := none } else k
      { s with llc := upd s.llc (homeDie pa) fun l => l.map clean }
    | _ => s).accDone e.id a.lane
  | .launch _ => s
  | .fence => s.accDone e.id a.lane
  | .own shr line n => ((List.range n).foldl (fun s i => s.claimLine e.team shr (line + i)) s).accDone e.id a.lane

/-- What an access asks of a peer (R450, R451). -/
def State.peerOp (s : State) (e : LogEntry) (a : LaneAcc) : PeerOp :=
  match e.kind with
  | .st _ | .stx _ _ _ _ _ _ => .write (bytesOf e.kind.bytes (s.storeDatum e a))
  | .atom op ty _ | .red op ty => .atom op ty a.data a.data2
  | k => .read k.bytes

/-- Send an access to its place: to a peer, to another die as an export, or perform it. -/
def State.sendTo (s : State) (e : LogEntry) (a : LaneAcc) (p : Place) : State :=
  match p with
  | .phys pa0 =>
    let fe := s.feOf e.team
    let pa := s.redirect fe pa0
    let die := e.core / 64
    let s := s.modAcc e.id a.lane fun b => { b with data := BitVec.ofNat 64 (s.storeDatum e a) }
    if e.kind.bare || e.kind.silent then s.performAt e a (.phys pa)
    else if isPeer pa then
      match (s.fe fe).landingOf pa with
      | some i =>
        let s := s.startPull fe i
        if e.kind.atomic then
          (s.sendPeer die (s.fe fe).migPeer.toNat (.forward (peerOffset pa) (s.peerOp e a))).setStatus e.id a.lane (.forwarded fe i (.phys pa))
        else s.setStatus e.id a.lane (.pulling fe i (.phys pa))
      | none => (s.sendPeer die (peerOf pa) (.access (peerOffset pa) (s.peerOp e a))).setStatus e.id a.lane (.peer (.phys pa))
    else if e.kind.writes && homeDie pa != die then
      let n := (s.die die).exports + 1
      let s := s.modDie die fun d => { d with exports := n }
      let stamp := upd (s.crew e.team e.crew).clock die fun _ => n
      let s := s.modCrew e.team e.crew fun cr => { cr with clock := stamp }
      (s.modAcc e.id a.lane fun a => { a with stamp := stamp }).setStatus e.id a.lane
        (.exported n.toNat (homeDie pa) (.phys pa))
    else s.performAt e a (.phys pa)
  | p => s.performAt e a p

/-! ## Staging (R294 to R296) -/

/-- Entries of a core's operand log (R312). -/
def State.logUsed (s : State) (core : Nat) : Nat := s.log.countP fun e => e.core == core && e.kind.logged && !e.posted

/-- Entries of the ordered-atomic buffer of a core that are taken; a team that has retired keeps its places until its entries
are released (R294). -/
def State.entriesOn (s : State) (core : Nat) : Nat :=
  ((s.teams.filter fun tm => tm.core == core && (tm.status == .resident || tm.status == .retired)).map fun tm =>
    tm.staged.length).sum

def isHead (s : State) (t : Nat) : Bool := (s.gridOf t).head == (s.team t).index

/-- Accesses of head teams other than `t` that a forced release is to give an entry, and that came before `since` (R295). -/
def State.reservedOn (s : State) (core t since : Nat) : Nat :=
  ((s.log.filter fun k => k.core == core && k.team != t && isHead s k.team).map fun k => k.lanes.countP fun b => match b.status with
    | .stageWait n _ => decide (n < since)
    | _ => false).sum

/-- R294, R295: whether the buffer has no free entry for an access that has waited since `since`. -/
def State.bufferFull (s : State) (core t since : Nat) : Bool := decide (4096 ≤ s.entriesOn core + s.reservedOn core t since)

def MemKind.staged : MemKind → StagedKind
  | .atom _ _ _ => .atomic
  | .red _ _ => .reduction
  | .launch _ => .launch
  | _ => .store

/-- Size, type, operation and destination of a staged entry (R296). -/
def MemKind.stagedForm : MemKind → MSize × ATy × AOp × Option Dst
  | .st sz | .stx sz _ _ _ _ _ => (sz, .b32, .add, none)
  | .atom op t d => (.b8, t, op, some d)
  | .red op t => (.b8, t, op, none)
  | _ => (.b8, .b32, .add, none)

/-- The staged entry of an access (R296) at its place. -/
def State.stagedEntry (s : State) (e : LogEntry) (a : LaneAcc) (p : Place) : Staged :=
  let f := e.kind.stagedForm
  { seq := (s.team e.team).seqNext, kind := e.kind.staged, crew := e.crew, lane := a.l, addr := a.addr,
    size := f.1, ty := f.2.1, aop := f.2.2.1, data := BitVec.ofNat 64 (s.storeDatum e a), data2 := a.data2,
    dreg := f.2.2.2, log := e.id, acc := a.acc, waiting := false, stamp := a.stamp
    sys := Order.releases a.order && a.scope == .sys
    pa := match p with
      | .phys pa => some pa
      | _ => none }

/-- Append an access to its team's entries; a store or reduction is complete for w1 (R268, R295). An .sc access takes its
number now, since its entry keeps no order (R296, R443). -/
def State.putStaged (s : State) (e : LogEntry) (a : LaneAcc) (p : Place) : State :=
  let k := s.stagedEntry e a p
  let s := s.takeNumber e a
  let s := s.modTeam e.team fun tm => { tm with staged := tm.staged ++ [k], seqNext := tm.seqNext + 1 }
  match e.kind with
  | .atom _ _ _ => s.setStatus e.id a.lane .staged
  | _ => s.finishWith e a []

/-- Whether a staged write of its crew comes first, which an access reaches by another address (R280, R291). -/
def State.stagedAhead (s : State) (e : LogEntry) (a : LaneAcc) (p : Place) : Bool :=
  (s.team e.team).staged.any fun k => k.kind != .launch && k.crew == e.crew && decide (k.acc < a.acc) &&
    k.pa.any fun q => p.meets e.kind.bytes (.phys q) (if k.kind = .store then MSize.bytes k.size else ATy.bytes k.ty)

/-! ## Releasing an entry (R297, R302, R318) -/

/-- What a staged entry does at its line. -/
def Staged.kindAt (k : Staged) : MemKind :=
  match k.kind with
  | .store => .st k.size
  | .atomic => .atom k.aop k.ty (k.dreg.getD (.v 0))
  | .reduction => .red k.aop k.ty
  | .launch | .task => .launch (.v 0)

def Staged.asAcc (k : Staged) : LaneAcc where
  lane := k.lane
  acc := k.acc
  addr := k.addr
  data := k.data
  data2 := k.data2
  elem := 0
  parked := false
  order := .rlx
  scope := .none
  status := .staged
  after := []
  stamp := k.stamp
  tso := false

/-- Drop the oldest entry of a team; its first release ends relaunchability (R302). -/
def State.dropStaged (s : State) (t : Nat) : State :=
  s.modTeam t fun tm => { tm with staged := tm.staged.drop 1, escaped := true }

/-- Whether a task instruction of the team, staged before sequence number `q`, has still to act (R428, R430). -/
def State.taskBefore (s : State) (t q : Nat) : Bool :=
  s.tasks.any fun x => x.team == t && (match x.seq with
    | some r => decide (r < q)
    | none => false)

/-- Whether a load of the team that waits for its turn comes before its oldest entry (R279). -/
def State.loadBefore (s : State) (t : Nat) (k : Staged) : Bool :=
  s.log.any fun e => e.team == t && e.lanes.any fun a => a.status.isOrdered && decide (a.turn ≤ k.seq + 1)

/-- A staged entry goes on its way to its line as an access of its own (R297), an atom as the access that it was; a release at .sys
first waits for reads on its crew's ports (R467). The answer is the access as (entry, lane). -/
def State.postRelease (s : State) (t : Nat) (k : Staged) (pa : Nat) : (Nat × Nat) × State :=
  let p := Place.phys pa
  let go (a : LaneAcc) : LaneAcc :=
    { a with
      status := if k.sys && !(s.crew t k.crew).ports.isEmpty then .hostRead p else .ready p
      released := true, stamp := k.stamp }
  if k.kind = .atomic ∧ (s.logEntry k.log).isSome then ((k.log, k.lane), s.modAcc k.log k.lane go)
  else
    let (id, s) := s.fresh
    ((id, k.lane), { s with log := s.log ++ [⟨id, (s.team t).core, t, k.crew, 0, 0, k.kindAt, false, 0, [go k.asAcc], true⟩] })

/-- Send a released access that waits for nothing to its line; what host memory may refuse waits for its completion (R468). -/
def State.sendReleased (s : State) (id lane : Nat) : State :=
  match s.logEntry id with
  | none => s
  | some e =>
    match e.acc lane with
    | none => s
    | some a =>
      match a.status with
      | .ready p => if e.kind.decided p && !(match p with
          | .phys pa => isPeer pa
          | _ => false) then s else s.sendTo e a p
      | _ => s

/-- Release the oldest entry of a team as a single access at the line, one at a time in the grid (R297); false while its page is
not at hand, or its turn has not come. -/
def State.releaseOldest (s : State) (t : Nat) : Bool × State :=
  let tm := s.team t
  match tm.staged with
  | [] => (false, s)
  | k :: _ =>
    if s.taskBefore t k.seq || s.loadBefore t k || s.releasing fun u => (s.team u).grid == tm.grid then (false, s)
    else if k.kind = .task then (false, s)
    else if k.kind = .launch then
      (true, (s.modGrid k.acc fun g => { g with staged := false }).dropStaged t)
    else
      let fe := s.feOf t
      match s.walk (s.dieOf t) fe tm.core k.addr.toNat true (.plumb t) with
      | (none, s) => (false, s.modTeam t fun tm => { tm with staged := upd tm.staged 0 fun k => { k with waiting := true } })
      | (some pa0, s) =>
        let pa := s.redirect fe pa0
        match (s.fe fe).landingOf pa, k.kind with
        | some i, .store => (false, s.startPull fe i)
        | _, _ =>
          let (x, s) := (s.dropStaged t).postRelease t k pa
          (true, s.sendReleased x.1 x.2)

/-- Since when an access has waited for a buffer entry. -/
def State.waitsSince (s : State) (a : LaneAcc) : Nat :=
  match a.status with
  | .stageWait n _ => n
  | _ => s.nextId

/-- R294, R295: whether a free entry goes to an access before one of a team that has waited since `since`: to an older one of that
team, or, unless it is the head, to a head team's or to one that came before. -/
def State.entryTaken (s : State) (core t since : Nat) : Bool :=
  s.log.any fun k => k.core == core && k.lanes.any fun b => match b.status with
    | .stageWait n _ => (k.team == t && decide (n < since)) ||
        (!isHead s t && k.team != t && (isHead s k.team || decide (n < since)))
    | _ => false

/-- An access begins, or goes on, to wait for an entry. -/
def State.waitEntry (s : State) (e : LogEntry) (a : LaneAcc) (p : Place) : State :=
  let n := s.waitsSince a
  { s.setStatus e.id a.lane (.stageWait n p) with nextId := max s.nextId (n + 1) }

/-- StageWrite (R295): `put` stages the access, and `now` performs it at once. -/
def State.stageWith (s : State) (e : LogEntry) (a : LaneAcc) (p : Place) (put now : State → State) : State :=
  if s.entryTaken e.core e.team (s.waitsSince a) then s.waitEntry e a p
  else if !s.bufferFull e.core e.team (s.waitsSince a) then put s
  else if !isHead s e.team then s.waitEntry e a p
  else if (s.team e.team).staged.isEmpty then
    if s.releasing fun u => (s.team u).grid == (s.team e.team).grid then s.waitEntry e a p
    else now (s.modTeam e.team fun tm => { tm with escaped := true })
  else
    match s.releaseOldest e.team with
    | (true, s) => put s
    | (false, s) => s.waitEntry e a p

def State.stageWrite (s : State) (e : LogEntry) (a : LaneAcc) (p : Place) : State :=
  s.stageWith e a p (fun s => s.putStaged e a p) fun s =>
    let s := (s.takeNumber e a).modAcc e.id a.lane fun a => { a with released := true }
    s.sendTo e { a with released := true } p

/-- An access waits until its team is the head and has released every entry that it had staged (R298). -/
def State.awaitTurn (s : State) (e : LogEntry) (a : LaneAcc) (p : Place) : State :=
  s.modAcc e.id a.lane fun a => { a with
    status := .ordered p, turn := if a.turn = 0 then (s.team e.team).seqNext + 1 else a.turn }

/-- Perform an access that nothing holds back. -/
def State.go (s : State) (e : LogEntry) (a : LaneAcc) (p : Place) : State :=
  let direct (s : State) : State := if s.stagedAhead e a p then s.awaitTurn e a p else s.sendTo e a p
  if a.released then s.sendTo e a p
  else if s.mapped e a p then
    match s.findShared e.team (a.addr.toNat / 128) e.kind.writes with
    | (false, s) => direct s
    | (true, s) => if e.kind.writes then s.stageWrite e a p else s.awaitTurn e a p
  else direct s

/-! ## Events -/

/-- Whether an access stays out of the scratchpad of a team that is saved: its image stands in the save area. -/
def Place.here (s : State) (p : Place) : Bool :=
  match p with
  | .spad k _ => (s.team k).status != .saved
  | _ => true

/-- Whether an access may be accepted, look for its place, or be performed now. -/
def State.canPerform (s : State) (e : LogEntry) (a : LaneAcc) : Bool :=
  match a.status with
  | .granted _ => true
  | .behind => (s.team e.team).status == .resident && !s.behindParked e a
  | .ready p => a.released ||
      ((s.team e.team).status == .resident && s.freeToGo e a && s.peersAcked e a && !e.kind.isLaunch && p.here s)
  | _ => false

/-- MEMORY_ACCESS_COMPLETE: a lane's access is performed, or begins to wait for what its release waits for; one whose
translation was filled for it is accepted first (R307). One that has waited behind a parked access looks for its place (R314). -/
def execMemoryAccessComplete (log lane : Nat) (s : State) : Result :=
  .next (match s.logEntry log with
    | none => s
    | some e =>
      match e.acc lane with
      | none => s
      | some a =>
        match a.status with
        | .granted p => s.accept (e.core / 64) log lane p
        | .ready p =>
          if !s.canPerform e a then s
          else
            match s.releaseWait e a p with
            | some st => s.setStatus log lane st
            | none => s.go e a p
        | .behind => if s.canPerform e a then s.presentLate log lane else s
        | _ => s)

/-- PRESENCE_RELEASE: every lane that waits for the line goes on, once the bit of every line that it reads is set (R16,
R250). -/
def execPresenceRelease (team line : Nat) (s : State) : Result :=
  .next (if (s.team team).absent.contains line then s
    else { s with log := s.log.map fun e => { e with lanes := e.lanes.map fun a =>
      match a.status with
      | .presence k o =>
        let lines := linesAt o e.kind.bytes
        if k = team ∧ lines.contains line ∧ !(lines.any (s.team k).absent.contains) then
          { a with status := .ready (.spad k o) } else a
      | _ => a } })

/-- RELEASE_CLOCK_WAIT_END (R442): has no effect while the die's vector does not cover the crew's clock. -/
def execReleaseClockWaitEnd (log lane : Nat) (s : State) : Result :=
  .next (match s.logEntry log with
    | none => s
    | some e =>
      match (e.acc lane).map LaneAcc.status with
      | some (.clock p) => if s.clocksHold e.team e.crew then s.setStatus log lane (.ready p) else s
      | _ => s)

/-- ZERO_LENGTH_READ_COMPLETION (R467): the reads on the crew's ports have completed. -/
def execZeroLengthReadCompletion (log lane : Nat) (s : State) : Result :=
  .next (match s.logEntry log with
    | none => s
    | some e =>
      match (e.acc lane).map LaneAcc.status with
      | some (.hostRead p) =>
        (s.modCrew e.team e.crew fun cr => { cr with ports := [] }).setStatus log lane (.ready p)
      | _ => s)

/-- Stamps of the exports of a die that are outstanding. -/
def State.exportsOut (s : State) (die : Nat) : List Nat :=
  s.log.flatMap fun e => if e.core / 64 = die then
    e.lanes.filterMap fun a => match a.status with
      | .exported n _ _ => some n
      | _ => none
  else []

/-- P of a die (R440). -/
def State.prefixOf (s : State) (die : Nat) : Word64 :=
  (s.exportsOut die).foldl (fun m n => if n ≤ m.toNat then BitVec.ofNat 64 (n - 1) else m) (s.die die).exports

/-- The oldest outstanding export of a die to a home: (stamp, entry, lane). -/
def State.oldestExport (s : State) (die home : Nat) : Option (LogEntry × LaneAcc × Place) :=
  let all := s.log.flatMap fun e => if e.core / 64 = die then
    e.lanes.filterMap fun a => match a.status with
      | .exported n h p => if h = home then some (n, e, a, p) else none
      | _ => none
  else []
  (all.foldl (fun (b : Option (Nat × LogEntry × LaneAcc × Place)) k => match b with
    | none => some k
    | some m => if k.1 < m.1 then some k else b) none).map Prod.snd

/-- P of a die rises to the exports that have been performed (R440). -/
def State.raisePrefix (s : State) (die : Nat) : State :=
  let n := s.prefixOf die
  s.modDie die fun d => { d with performed := n, vector := upd d.vector die fun _ => n }

/-- EXPORT_PERFORMED (R439, R440): the home performs the oldest export of a die, and P rises. -/
def execExportPerformed (die home : Nat) (s : State) : Result :=
  .next (match s.oldestExport die home with
    | none => s
    | some (e, a, p) => (s.performAt e a p).raisePrefix die)

/-- CLOCK_ANNOUNCEMENT (R440): the die announces P to the others. -/
def execClockAnnouncement (die : Nat) (s : State) : Result :=
  .next { s with agenda := s.agenda ++ (((List.range 4).filter (· != die)).map fun j =>
    .announcementReceived j die (s.die die).performed) }

/-- ANNOUNCEMENT_RECEIVED (R440): an announcement never lowers V nor passes the sender's P. -/
def execAnnouncementReceived (die src : Nat) (value : Word64) (s : State) : Result :=
  .next (if (nth (s.die die).vector src).toNat ≤ value.toNat ∧ value.toNat ≤ (s.die src).performed.toNat then
    s.modDie die fun d => { d with vector := upd d.vector src fun _ => value } else s)

/-- STAGE_ENTRY_WAIT_END (R295): an access that waits for a buffer entry tries again. -/
def execStageEntryWaitEnd (log lane : Nat) (s : State) : Result :=
  .next (match s.logEntry log with
    | none => s
    | some e =>
      match e.acc lane with
      | none => s
      | some a =>
        match a.status with
        | .stageWait _ p =>
          if (s.team e.team).status != .resident || e.kind.isLaunch then s else s.stageWrite e a p
        | _ => s)

/-- Whether the turn of an access has come (R298). -/
def State.loadReady (s : State) (e : LogEntry) (a : LaneAcc) : Bool :=
  isHead s e.team && ((s.team e.team).status == .resident || (e.kind.isLaunch && (s.team e.team).status == .retired)) &&
    ((s.team e.team).staged.all fun k => decide (a.turn ≤ k.seq + 1)) &&
    !s.taskBefore e.team (a.turn - 1) && !s.releasing (· == e.team)

/-- STAGED_LOAD_COMPLETE (R298): a load of a shared line reads memory; what has waited for an entry to the same bytes goes on. -/
def execStagedLoadComplete (log lane : Nat) (s : State) : Result :=
  .next (match s.logEntry log with
    | none => s
    | some e =>
      match e.acc lane with
      | none => s
      | some a =>
        match a.status with
        | .ordered p =>
          if !s.loadReady e a || e.kind.isLaunch then s
          else if !e.kind.writes && s.onShared e a p then s.sendTo e a p
          else s.go e a p
        | _ => s)

/-- Whether an entry of the head team has to be released (R297): its team has retired, a load waits for it, an
atomic waits for it or for one behind it, R295 forces it, or a task instruction comes after it (R428, R435, log 70); and no other
is on its way. The engine itself releases that of a task instruction. -/
def State.releaseDue (s : State) (t : Nat) : Bool :=
  let tm := s.team t
  match tm.staged with
  | [] => false
  | k :: _ =>
    isHead s t && (tm.status == .resident || tm.status == .retired) && !s.taskBefore t k.seq && !s.loadBefore t k &&
    k.kind != .task && !(s.releasing fun u => (s.team u).grid == tm.grid) &&
    (tm.status == .retired || (s.tasks.any fun x => x.team == t && (match x.seq with
      | some r => decide (k.seq < r)
      | none => tm.staged.any fun j => j.crew == x.crew && x.lanes.getLsbD j.lane)) || tm.staged.any (fun k => k.kind == .atomic) ||
      s.log.any fun e =>
      e.team == t && e.lanes.any fun a => match a.status with
        | .ordered _ => decide (k.seq + 1 < a.turn)
        | .stageWait n _ => s.bufferFull e.core t n
        | _ => false)

/-- The head team of a grid, if it is placed or has retired. -/
def State.headTeam (s : State) (g : Nat) : Option Nat :=
  (List.range s.teams.length).find? fun t =>
    let tm := s.team t
    tm.grid == g && tm.index == (s.grid g).head && tm.status != .dead

/-- PLUMB_RELEASE: the head team's oldest entry is released where one is due (R297); a refused page kills its team
with an imprecise record (R318). A staged entry keeps no address of its instruction, and the record's PC is 0 (the model's choice,
log 70). -/
def execPlumbRelease (g : Nat) (s : State) : Result :=
  .next (match s.headTeam g with
    | none => s
    | some t =>
      if !s.releaseDue t then s
      else
        match (s.team t).staged with
        | [] => s
        | k :: _ =>
          let fe := s.feOf t
          if s.walkRefused (s.dieOf t) fe (s.team t).core k.addr.toNat true (.plumb t) then
            s.killTeam t k.crew 6 (laneBit k.lane) 0 0x20 { imprecise := true } true none
          else (s.releaseOldest t).2.advanceHead g)

end Sys2Proof.Machine
end

