-- ==== Sys2Proof/Machine/Tensor.lean ====
section
/-! DEFINITION. Tile descriptors and tensors, and how the copy and matrix engines read and write them (R123, R124,
R323 to R325, R333, R339, R341, R344, R374). -/

namespace Sys2Proof.Machine

/-! ## Descriptors (R323) -/

structure Desc where
  aux : Nat
  metaAt : Nat
  sparse : Nat
  orient : Bool
  fslot : Nat
  cols : Nat
  rows : Nat
  stride : Nat
  base : Nat
  reserved : Bool
  deriving DecidableEq, Repr, Inhabited

def Desc.of (w : BitVec 256) : Desc where
  aux := (w.extractLsb' 200 56).toNat
  metaAt := (w.extractLsb' 136 56).toNat
  sparse := (w.extractLsb' 132 2).toNat
  orient := w.getLsbD 131
  fslot := (w.extractLsb' 128 3).toNat
  cols := (w.extractLsb' 112 16).toNat
  rows := (w.extractLsb' 96 16).toNat
  stride := (w.extractLsb' 64 32).toNat
  base := (w.extractLsb' 0 56).toNat
  reserved := w.extractLsb' 192 8 != 0 || w.extractLsb' 134 2 != 0 || w.extractLsb' 56 8 != 0

/-! ## Geometry (R324) -/

/-- Bytes of a stored row of `n` elements. -/
def rowBytes (e : Elem) (n : Nat) : Nat :=
  if e.width = 64 then 8 * n else 4 * ((n + e.perReg - 1) / e.perReg)

/-- Elements that a row stores. -/
def Desc.stored (d : Desc) : Nat := if d.sparse = 0 then d.cols else d.cols / 2

def Desc.rb (d : Desc) (e : Elem) : Nat := rowBytes e d.stored

/-- Scale blocks across a row (R123). -/
def Desc.blocks (d : Desc) : Nat := (d.cols + 31) / 32

/-- Whether a descriptor keeps the shape rules of R324, its alignments apart. -/
def Desc.shapeOk (d : Desc) (e : Elem) : Bool :=
  d.rows != 0 && d.cols != 0 && decide (d.sparse < 2) && !d.reserved &&
    (d.rows == 1 || decide (d.rb e ≤ d.stride)) &&
    (d.sparse == 0 || (!d.orient && d.cols % 32 == 0 && (e.width == 8 || e.width == 16)))

/-- Byte ranges of row `r`: its elements and, when sparse, its metadata row. -/
def Desc.rowSpans (d : Desc) (e : Elem) (r : Nat) : List (Nat × Nat) :=
  (d.base + r * d.stride, d.rb e) ::
    (if d.sparse = 0 then [] else [(d.metaAt + r * (d.cols / 8), d.cols / 8)])

/-- The scale bytes of block row `i` (R123). -/
def Desc.scaleSpan (d : Desc) (i : Nat) : Nat × Nat := (d.aux + i * d.blocks, d.blocks)

/-- Every range of a tensor's extent (R333). -/
def Desc.spans (d : Desc) (e : Elem) (scaled : Bool) : List (Nat × Nat) :=
  ((List.range d.rows).flatMap fun r => d.rowSpans e r) ++
    (if scaled then [(d.aux, (d.rows + 31) / 32 * d.blocks)] else [])

/-- The first field that breaks R324's alignment. -/
def Desc.misaligned (d : Desc) : Option Nat := [d.base, d.stride, d.metaAt].find? fun x => x % 4 != 0

/-- Element `j` of a stored row (R124, R324). -/
def rowElem (e : Elem) (bs : List Byte) (j : Nat) : Nat :=
  if e.width = 64 then ofBytes ((bs.drop (8 * j)).take 8)
  else e.at (ofBytes ((bs.drop (4 * (j / e.perReg))).take 4)) (j % e.perReg)

/-- A stored row of element codes; spare bits are zero. -/
def packRow (e : Elem) (codes : List Nat) : List Byte :=
  if e.width = 64 then codes.flatMap (bytesOf 8)
  else (List.range (rowBytes e codes.length / 4)).flatMap fun w =>
    bytesOf 4 ((List.range e.perReg).foldl (fun acc i =>
      acc + (codes.getD (w * e.perReg + i) 0) % 2 ^ e.width * 2 ^ (e.width * i)) 0)

/-- Expansion of a sparse row (R325): `m` is its metadata row. -/
def expandRow (e : Elem) (bs m : List Byte) (cols : Nat) : List Nat :=
  (List.range cols).map fun j =>
    let g := j / 4
    let nib := (m.getD (g / 2) 0).toNat / 16 ^ (g % 2) % 16
    if j % 4 = nib / 4 % 4 then rowElem e bs (2 * g + 1)
    else if j % 4 = nib % 4 then rowElem e bs (2 * g) else 0

/-- The dense codes of a row, from its element bytes and metadata. -/
def Desc.rowCodes (d : Desc) (e : Elem) (bs m : List Byte) : List Nat :=
  if d.sparse = 0 then (List.range d.cols).map (rowElem e bs) else expandRow e bs m d.cols

/-! ## Windows (R331, R333, R374) -/

/-- The first byte of a range and every later one at which its window, or its place in the window, can change: windows, guard
granules and SPADB are bounded at multiples of 128 (R97, R245). -/
def spanMarks (span : Nat × Nat) : List Nat := (linesAt span.1 span.2).map fun l => max span.1 (128 * l)

/-- Whether every byte of a range decodes as Global, or as Own or Peer (R333); the error is %tinfo of the address trap. -/
def State.spanCheck (s : State) (t : Nat) (glob : Bool) (span : Nat × Nat) : Option Nat :=
  let byte (a : Nat) : Option Nat :=
    match decodeAddr a with
    | .error i => some i
    | .ok (.global _) => if glob then none else some 0
    | .ok (.stack _) => some 3
    | .ok (.own o) => if glob then some 1 else
      (match s.resolve t 0 0 (.own o) with
       | .error i => some i
       | .ok _ => none)
    | .ok (.peer r o) => if glob then some 2 else
      (match s.resolve t 0 0 (.peer r o) with
       | .error i => some i
       | .ok _ => none)
  if span.2 = 0 then none else (spanMarks span).findSome? byte

/-- Whether an address lies in a scratchpad window. -/
def isPad (a : Nat) : Bool :=
  match decodeAddr a with
  | .ok (.own _) | .ok (.peer _ _) => true
  | _ => false

/-- The place of a byte that an engine reaches for a team in the scratchpad windows (R245, R333). -/
def State.padByte (s : State) (t a : Nat) : Option Place :=
  match decodeAddr a with
  | .ok (.own o) => padPlace t (s.gridOf t).needs.spadb (2 ^ 32) o
  | .ok (.peer r o) => (s.mate t r).bind fun k => padPlace k (s.gridOf k).needs.spadb (2 ^ 24) o
  | _ => none

/-- Scratchpad lines of a range, as (team, line). -/
def State.spanLines (s : State) (t : Nat) (span : Nat × Nat) : List (Nat × Nat) :=
  if span.2 = 0 then []
  else (spanMarks span).filterMap fun a => match s.padByte t a with
    | some (.spad k o) => some (k, o / 128)
    | _ => none

/-! ## Access of an engine -/

/-- What an engine's accesses are made for: the core and the team, the crews whose seals cover what they read (R270), the user
of the pages (R476), and the scratchpad of a team that has been killed meanwhile (R344). -/
structure Engine where
  core : Nat
  team : Nat
  crews : List Nat
  user : PageUser
  orphan : Option (Sparse 8)

/-- Whether the pages of a global range are at hand for an engine, and a link for those of a peer (R450); what is missing is asked
for. -/
def State.pagesReady (fuel : Nat) (s : State) (w : Engine) (a n : Nat) (write : Bool) : Bool × State :=
  match fuel with
  | 0 => (true, s)
  | fuel + 1 =>
    if n = 0 then (true, s)
    else
      let fe := s.feOf w.team
      match s.walk (w.core / 64) fe w.core a write w.user with
      | (none, s) => (false, s)
      | (some pa0, s) =>
        let pa := s.redirect fe pa0
        match (if isPeer pa then (s.fe fe).landingOf pa else none) with
        | some i => (false, s.startPull fe i)
        | none =>
          if isPeer pa && (s.linkTo (w.core / 64) (peerOf pa)).isNone then (false, s) else
          let k := min n (4096 - a % 4096)
          State.pagesReady fuel s w (a + k) (n - k) write

/-- Whether an engine can reach a range now. -/
def State.spanReady (s : State) (w : Engine) (write : Bool) (span : Nat × Nat) : Bool × State :=
  if globalAddr span.1 then s.pagesReady (span.2 / 4096 + 2) w span.1 span.2 write else (true, s)

/-- Whether an engine can reach ranges, each as (write, range), now. -/
def State.spansReady (s : State) (w : Engine) (spans : List (Bool × (Nat × Nat))) : Bool × State :=
  spans.foldl (fun r p => if r.1 then r.2.spanReady w p.1 p.2 else r) (true, s)

/-- R341, R293: what an engine's access to a global line of an ordered grid does to the map; a fold does not report a line that
is shared already. -/
def State.engineOwn (s : State) (t line : Nat) (write fold : Bool) : State :=
  let tm := s.team t
  if !(s.grid tm.grid).record.ord then s
  else
    match lineOwner (s.grid tm.grid).owners line with
    | some (.team i) => if i = tm.index || !write then s else s.conflict tm.grid line tm.index (some i)
    | some .shared => if fold then s else s.conflict tm.grid line tm.index none
    | none => if write then s.conflict tm.grid line tm.index none else s

def State.engineOwns (s : State) (t a n : Nat) (write : Bool) : State :=
  if n = 0 then s else (linesAt a n).foldl (fun s l => s.engineOwn t l write false) s

/-- The first address of each page of a global range. -/
def spanPages (span : Nat × Nat) : List Nat :=
  if !globalAddr span.1 then []
  else ((List.range (span.2 / 4096 + 2)).map fun i => if i = 0 then span.1 else span.1 / 4096 * 4096 + 4096 * i).filter
    fun a => decide (a < span.1 + span.2)

/-- Whether the device or the host memory that ranges lead to refuses an engine's access, which nothing constrains (log 9): a peer
any access (R450), host memory an AtomicOp (R468), as the write of a fold is one. -/
def State.engineRefused (s : State) (w : Engine) (atomic : Bool) (spans : List (Bool × (Nat × Nat))) : Bool × State :=
  let fe := s.feOf w.team
  let asks (p : Bool × (Nat × Nat)) : Bool := (spanPages p.2).any fun a =>
    ((s.walk (w.core / 64) fe w.core a p.1 w.user).1.map (s.redirect fe)).any fun pa =>
      isPeer pa || (atomic && p.1 && isHost pa)
  if spans.any asks then (Config.pick s.freeCtr % 2 == 1, { s with freeCtr := s.freeCtr + 1 }) else (false, s)

/-- Bytes of a global range whose pages are at hand; what a peer's memory holds is outside the device and free
(log 9). -/
def State.globalBytes (fuel : Nat) (s : State) (w : Engine) (a n : Nat) : List Byte × State :=
  match fuel with
  | 0 => ([], s)
  | fuel + 1 =>
    if n = 0 then ([], s)
    else
      let fe := s.feOf w.team
      let k := min n (4096 - a % 4096)
      match s.walk (w.core / 64) fe w.core a false w.user with
      | (none, s) => (List.replicate n 0, s)
      | (some pa0, s) =>
        let pa := s.redirect fe pa0
        let (bs, s) := if isPeer pa then
            ((List.range k).map fun i => Config.freeByte (s.freeCtr + i),
              { s.sendPeer (w.core / 64) (peerOf pa) (.access (peerOffset pa) (.read k)) with freeCtr := s.freeCtr + k })
          else s.readMem fe pa k
        let (rest, s) := State.globalBytes fuel s w (a + k) (n - k)
        (bs ++ rest, s)

/-- Write bytes of a global range whose pages are at hand; those of a peer leave the device (R450). -/
def State.putGlobal (fuel : Nat) (s : State) (w : Engine) (a : Nat) (bs : List Byte) : State :=
  match fuel with
  | 0 => s
  | fuel + 1 =>
    if bs.isEmpty then s
    else
      let fe := s.feOf w.team
      let k := min bs.length (4096 - a % 4096)
      match s.walk (w.core / 64) fe w.core a true w.user with
      | (none, s) => s
      | (some pa0, s) =>
        let pa := s.redirect fe pa0
        let s := if isPeer pa then s.sendPeer (w.core / 64) (peerOf pa) (.access (peerOffset pa) (.write (bs.take k)))
          else s.writeMem none fe pa (bs.take k) noClock
        State.putGlobal fuel s w (a + k) (bs.drop k)

/-- Each guard byte of a scratchpad range is a touch of the issuing team (R333). -/
def State.padTouch (s : State) (t a n : Nat) : State :=
  (List.range n).foldl (fun s i => match s.padByte t (a + i) with
    | some (.guard b u q) => s.touchGuard t b u q
    | _ => s) s

/-- The same for an engine; a copy that has outlived its team touches no other team's guards (R344). -/
def State.engineTouch (s : State) (w : Engine) (a n : Nat) : State :=
  if w.orphan.isSome then s else s.padTouch w.team a n

/-- The values that a 4-byte word of a scratchpad may give an engine besides its own: those that a store overwrote of which no
seal covers the engine's operation (R270), by a crew of it or by a ring stage that one has observed (R330). -/
def State.oldWords (s : State) (w : Engine) (k word : Nat) : List Word32 :=
  ((s.team k).unsealed.filter fun u => u.word == word &&
    !(u.team == w.team && w.crews.any fun c => (u.own && u.crew == c) || u.seen.contains c)).map Unsealed.old

/-- The 4-byte words of a range at which an engine finds more than one value, each with the one it takes, which nothing
constrains (R270, log 61). -/
def State.oldPicks (s : State) (w : Engine) (span : Nat × Nat) : List ((Nat × Nat) × Word32) × State :=
  let words := ((List.range (span.2 / 4 + 2)).map fun i => max span.1 (span.1 / 4 * 4 + 4 * i)).filterMap fun a =>
    if a < span.1 + span.2 then (match s.padByte w.team a with
      | some (.spad k o) => some (k, o / 4)
      | _ => none) else none
  words.foldl (fun (r : List ((Nat × Nat) × Word32) × State) k =>
    match r.2.oldWords w k.1 k.2 with
    | [] => r
    | old =>
      let n := Config.pick r.2.freeCtr % (old.length + 1)
      (match old[n]? with
        | some x => (k, x) :: r.1
        | none => r.1, { r.2 with freeCtr := r.2.freeCtr + 1 })) ([], s)

/-- An engine reads a range. A word with stores that no seal covers reads as one of its values (R270). -/
def State.engineRead (s : State) (w : Engine) (span : Nat × Nat) : List Byte × State :=
  if isPad span.1 then
    let (old, s) := s.oldPicks w span
    ((List.range span.2).map fun i => match s.padByte w.team (span.1 + i) with
      | some (.spad k q) =>
        (match (if k = w.team then w.orphan else none), old.find? fun p => p.1 == (k, q / 4) with
         | some pad, _ => Sparse.get pad q
         | none, some p => p.2.extractLsb' (8 * (q % 4)) 8
         | none, none => Sparse.get (s.team k).spad q)
      | _ => 0, s.engineTouch w span.1 span.2)
  else (s.engineOwns w.team span.1 span.2 false).globalBytes (span.2 / 4096 + 2) w span.1 span.2

/-- Write bytes from an address on into scratchpads, not into guards, where `place` says what each byte reaches. -/
def State.padPut (s : State) (place : Nat → Option Place) (bs : List Byte) : State :=
  (List.range bs.length).foldl (fun s i => match place i with
    | some (.spad k q) => s.modTeam k fun tm => { tm with
        spad := Sparse.set tm.spad q (bs.getD i 0), unsealed := tm.unsealed.filter fun u => u.word != q / 4 }
    | _ => s) s

/-- An engine writes a range; a write to a global line ends relaunchability in free mode (R235). -/
def State.engineWrite (s : State) (w : Engine) (a : Nat) (bs : List Byte) : State :=
  let t := w.team
  if isPad a then (s.padPut (fun i => s.padByte t (a + i)) bs).engineTouch w a bs.length
  else if bs.isEmpty then s
  else
    let s := (s.engineOwns t a bs.length true).putGlobal (bs.length / 4096 + 2) w a bs
    if w.orphan.isSome || (s.gridOf t).record.ord then s else s.modTeam t fun tm => { tm with escaped := true }

/-- The first page of an engine's range that has been refused. -/
def State.spanRefused (s : State) (w : Engine) (write : Bool) (span : Nat × Nat) : Option Nat :=
  (spanPages span).find? fun a => s.walkRefused (w.core / 64) (s.feOf w.team) w.core a write w.user

/-- The first page of an engine's range that is faulted and waits for a replay. -/
def State.spanFaulted (s : State) (w : Engine) (write : Bool) (span : Nat × Nat) : Option Nat :=
  (spanPages span).find? fun a => (s.die (w.core / 64)).waiting.any fun k => k.1 ==
    ⟨(s.fe (s.feOf w.team)).pasid, pageOf a, write, s.feOf w.team, w.core % 64, w.user⟩

end Sys2Proof.Machine
end

