-- ==== Sys2Proof/Machine/Copy.lean ====
section
/-! DEFINITION. Copies, tile descriptors and stage rings (R322 to R345). -/

namespace Sys2Proof.Machine

/-! ## Writing descriptors (R326, R327) -/

/-- A tile-register instruction that writes tile `d`, sealed registers of any crew of the team first. -/
def tileOp (i : Instr) (s : State) (d : Fin 16) (checks : Issue → Option Word32) (k : Issue → State) : Result :=
  crewOp i s (fun x => { bundle := if x.act = 0 then none else checks x, reads := [.tile d.val] }) fun x =>
    if x.act = 0 then s else k x

def State.setTile (s : State) (t : Nat) (d : Nat) (w : BitVec 256) : State :=
  s.modTeam t fun tm => { tm with tregs := upd tm.tregs d fun _ => w }

def State.tile (s : State) (t : Nat) (d : Nat) : BitVec 256 := nth (s.team t).tregs d

/-- The 256 bits of eight uniform registers (R326). -/
def Crew.block (cr : Crew) (n : Nat) : BitVec 256 :=
  BitVec.ofNat 256 ((List.range 8).foldl (fun a i => a + (cr.s (n + i)).toNat * 2 ^ (32 * i)) 0)

def execTdset (g : Guard) (d : Fin 16) (a : Fin 128) (s : State) : Result :=
  tileOp (.tdset g d a) s d (fun x =>
      let k := Desc.of ((s.crew x.t x.c).block a.val)
      if k.reserved || decide (2 ≤ k.sparse) || k.rows == 0 || k.cols == 0 then some 0 else none) fun x =>
    s.setTile x.t d.val ((s.crew x.t x.c).block a.val)

def execTdmov (g : Guard) (d a : Fin 16) (s : State) : Result :=
  tileOp (.tdmov g d a) s d (fun _ => none) fun x => s.setTile x.t d.val (s.tile x.t a.val)

def execTdmovGet (g : Guard) (d : Fin 128) (a : Fin 16) (s : State) : Result :=
  crewUpdate (.tdmovGet g d a) s fun x cr =>
    if x.act = 0 then cr
    else (List.range 8).foldl (fun cr i => cr.setS (d.val + i) ((s.tile x.t a.val).extractLsb' (32 * i) 32)) cr

/-- A descriptor with another BASE. -/
def withBase (w : BitVec 256) (b : Nat) : BitVec 256 := w.extractLsb' 56 200 ++ BitVec.ofNat 56 b

def execTdmovBase (g : Guard) (d : Fin 16) (a : Fin 128) (s : State) : Result :=
  tileOp (.tdmovBase g d a) s d (fun _ => none) fun x =>
    let p := s.rd64 x.t x.c (.s a) 0
    if 2 ^ 56 ≤ p then s.trap x.t x.c 6 x.act (fun _ => BitVec.ofNat 32 (addrTrap 0 4)) x.pc
    else s.setTile x.t d.val (withBase (s.tile x.t d.val) p)

def execTdmovAdd (g : Guard) (d : Fin 16) (a : Opnd) (s : State) : Result :=
  tileOp (.tdmovAdd g d a) s d (fun _ => none) fun x =>
    let w := s.tile x.t d.val
    s.setTile x.t d.val (withBase w (wrap 56 ((w.extractLsb' 0 56).toNat + signed 32 (s.rd32 x.t x.c a 0))))

/-! ## Stage rings (R328 to R330) -/

def State.ring (s : State) (t : Nat) (r : Fin 16) : Ring := nth (s.team t).rings r.val

def State.modRing (s : State) (t : Nat) (r : Fin 16) (f : Ring → Ring) : State :=
  s.modTeam t fun tm => { tm with rings := upd tm.rings r.val f }

/-- Claim stage PROD (R330). -/
def Ring.claim (r : Ring) : Ring := { r with prod := (r.prod + 1) % (r.stages + 1), free := r.free - 1 }

/-- Toggle the phase of a stage (R329). -/
def Ring.toggle (r : Ring) (i : Nat) : Ring := { r with ph := r.ph ^^^ ((1 : BitVec 16) <<< i) }

/-- A ring instruction, with the uses that R329 calls illegal. -/
def ringOp (i : Instr) (s : State) (bad : Issue → Bool) (k : Issue → State) : Result :=
  crewOp i s (fun x => if x.act ≠ 0 ∧ bad x then { bundle := some 0 } else {}) fun x => if x.act = 0 then s else k x

def execRingadvInit (g : Guard) (r : Fin 16) (a : Opnd) (s : State) : Result :=
  ringOp (.ringadvInit g r a) s
    (fun x =>
      let n := s.rd32 x.t x.c a 0
      let k := s.ring x.t r
      decide (n < 2) || decide (16 < n) || (k.stages != 0 && decide (k.free < k.stages + 1))) fun x =>
    let n := s.rd32 x.t x.c a 0
    s.modRing x.t r fun _ => ⟨0, 0, 0, n, n - 1⟩

def execRingadv (g : Guard) (r : Fin 16) (s : State) : Result :=
  ringOp (.ringadv g r) s (fun x => (s.ring x.t r).stages == 0) fun x =>
    if (s.ring x.t r).free = 0 ∨ !s.sealReady x.t x.c then s.stall
    else
      let stage := (s.ring x.t r).prod
      (((s.noteStage x.t x.c r stage false).sealCopies x.t x.c true).tagStage x.t x.c r stage).modRing x.t r fun k =>
        k.claim.toggle k.prod

/-- Loads and gathers, which w0 counts. -/
def MemKind.isLoad : MemKind → Bool
  | .ld _ _ | .ldx _ _ _ _ _ _ => true
  | _ => false

/-- R329: the loads, gathers and copies of the crew are complete, and the fill of stage CONS has toggled, a copy that has been
stopped not being complete (R342). -/
def State.consReady (s : State) (t c : Nat) (r : Fin 16) : Bool :=
  let cons := (s.ring t r).cons
  (s.pendingOf t c (BitVec.allOnes 16) fun e => e.kind.isLoad).isEmpty &&
  (s.copies.all fun k => !(k.team == t && k.orphan.isNone && (k.crew == c || (k.ring == some r && k.stage == cons)))) &&
  (s.team t).claims.all fun k => !(k.crew == c || (k.ring == some r && k.stage == cons))

def execRingadvCons (g : Guard) (r : Fin 16) (s : State) : Result :=
  ringOp (.ringadvCons g r) s (fun x =>
      let k := s.ring x.t r
      k.stages == 0 || k.free == k.stages + 1) fun x =>
    if !s.consReady x.t x.c r then s.stall
    else (s.noteStage x.t x.c r (s.ring x.t r).cons true).modRing x.t r fun k =>
      { k with cons := (k.cons + 1) % (k.stages + 1), free := k.free + 1 }

def execRingwait (g : Guard) (r : Fin 16) (ph : Bool) (s : State) : Result :=
  ringOp (.ringwait g r ph) s (fun x => (s.ring x.t r).stages == 0) fun x => s.releaseRun x fun _ => some (.ring r ph)

/-! ## Checks of cp (R331 to R338, R345) -/

/-- Element format and scale bit of a descriptor's slot. -/
def State.descElem (s : State) (t : Nat) (d : Desc) : Elem := slotElem ((s.gridOf t).record.slot d.fslot)
def State.descScaled (s : State) (t : Nat) (d : Desc) : Bool := slotScaled ((s.gridOf t).record.slot d.fslot)

/-- Whether a copy is a per-tensor quantising one. -/
def State.perTensor (s : State) (t : Nat) (xf : CpXform) (dst : Desc) : Bool := xf == .q && !s.descScaled t dst

def Elem.quantised (e : Elem) : Bool := e.narrow
def Elem.wideSource : Elem → Bool
  | .fp32 | .bf16 | .fp16 => true
  | _ => false

/-- Transforms that a direction allows (R331). -/
def xformAllowed : CpDir → CpXform → Bool
  | .g2s, _ | .s2s, _ => true
  | .s2g, x => x != .sx
  | .mc, x => x == .plain

/-- Scale bytes are read by .t of scaled tensors, and written by it and by .q into a scaled slot that has an address
for them; a plain copy and .sx move element bytes alone. -/
def State.srcScales (s : State) (t : Nat) (xf : CpXform) (src : Desc) : Bool := xf == .t && s.descScaled t src
def State.dstScales (s : State) (t : Nat) (xf : CpXform) (dst : Desc) : Bool :=
  (xf == .t || xf == .q) && s.descScaled t dst && dst.aux != 0

/-- Whether a copy quantises with one scale per block (R337). -/
def State.blockwise (s : State) (t : Nat) (xf : CpXform) (dst : Desc) : Bool := xf == .q && s.descScaled t dst

/-- Bytes of a destination. -/
def totalBytes (spans : List (Nat × Nat)) : Nat := (spans.map Prod.snd).sum

/-- R332: the descriptors suit the copy. -/
def State.copyOk (s : State) (t : Nat) (dir : CpDir) (xf : CpXform) (src dst : Desc) : Bool :=
  let es := s.descElem t src
  let ed := s.descElem t dst
  let same := src.rows == dst.rows && src.cols == dst.cols && src.orient == dst.orient
  xformAllowed dir xf && src.shapeOk es && dst.shapeOk ed &&
  (match xf with
   | .plain => same && es.width == ed.width && src.sparse == dst.sparse
   | .t => es.width == ed.width && (es.width == 8 || es.width == 16 || es.width == 32) && dst.rows == src.cols &&
      dst.cols == src.rows && src.orient != dst.orient && dst.sparse == 0 &&
      (s.descScaled t src == s.descScaled t dst) && (!s.descScaled t src || (src.aux != 0 && dst.aux != 0))
   | .q => same && Elem.wideSource es && !s.descScaled t src && Elem.quantised ed &&
      slotOvf ((s.gridOf t).record.slot dst.fslot) != .trap && src.sparse == 0 && dst.sparse == 0
   | .sx => same && src.sparse == 1 && dst.sparse == 0 && es.width == ed.width) &&
  (dir != .mc || decide (totalBytes (dst.spans ed false) ≤ 65536))

/-- A tensor's extent (R333). -/
def State.extent (s : State) (t : Nat) (d : Desc) : List (Nat × Nat) :=
  d.spans (s.descElem t d) (s.descScaled t d && d.aux != 0)

/-- The ranges that a copy reads and writes. -/
def State.srcSpans (s : State) (t : Nat) (xf : CpXform) (src : Desc) : List (Nat × Nat) :=
  src.spans (s.descElem t src) (s.srcScales t xf src)
def State.dstSpans (s : State) (t : Nat) (xf : CpXform) (dst : Desc) : List (Nat × Nat) :=
  dst.spans (s.descElem t dst) (s.dstScales t xf dst)

/-- R333: class and %tinfo of the trap of a copy's ranges, if any. -/
def State.copyTrap (s : State) (t : Nat) (dir : CpDir) (xf : CpXform) (src dst : Desc) : Option (Nat × Nat) :=
  let fold := s.perTensor t xf dst && dst.aux != 0
  match src.misaligned.or (dst.misaligned.or (if fold && dst.aux % 4 != 0 then some dst.aux else none)) with
  | some a => some (5, a % 65536)
  | none =>
    let from_ := dir == .g2s || dir == .mc
    let into := dir == .s2g
    let span (glob : Bool) (l : List (Nat × Nat)) : Option Nat := l.findSome? fun p => s.spanCheck t glob p
    let a := span from_ (s.extent t src)
    let b := span into (s.extent t dst)
    let mcPeer := if dir == .mc then (s.extent t dst).findSome? fun p =>
        match decodeAddr p.1 with
        | .ok (.peer _ _) => some 2
        | _ => none
      else none
    let c := if fold then s.spanCheck t (globalAddr dst.aux) (dst.aux, 4) else none
    (if from_ then (a.or b) else (if into then b.or a else a.or b)).or (mcPeer.or c) |>.map fun i => (6, i)

/-! ## Issue of cp (R322, R332, R339, R342) -/

/-- Copies that a core's engine holds. -/
def State.copiesOn (s : State) (core : Nat) : Nat := s.copies.countP fun c => c.core == core

/-- Whether a crew that has stalled at a full engine may still stand there: it has a bundle. -/
def State.standsAtCp (s : State) (q : Nat × Nat) : Bool := (s.team q.1).status == .resident && (s.crew q.1 q.2).bundle != 0

/-- The crew let into a core's engine. -/
def State.granted (s : State) (core : Nat) : Option (Nat × Nat) := (s.core core).cpGrant.filter s.standsAtCp

/-- Whether the engine takes a crew's copy now: a place is free, and no crew that stalled earlier comes first
(R322). -/
def State.engineTakes (s : State) (core t c : Nat) : Bool :=
  decide (s.copiesOn core < 8) && (s.granted core == some (t, c) ||
    ((s.granted core).isNone && ((s.core core).cpQueue.filter s.standsAtCp).isEmpty))

/-- A cp stalls on a full engine: its crew keeps its place among those stalled. -/
def State.queueCopy (s : State) (core t c : Nat) : State :=
  (s.modCore core fun co => if co.cpQueue.contains (t, c) || co.cpGrant == some (t, c) then co
    else { co with cpQueue := co.cpQueue ++ [(t, c)] }).stall

/-- A crew that does not stall at cp leaves the engine's queue. -/
def State.leaveQueue (r s : State) : State :=
  match s.cur, r.cur with
  | some x, some y => if y.stalled then r else r.yieldEngine (s.team x.team).core x.team x.crew
  | _, _ => r

/-- Teams into whose scratchpad a copy writes (R338). -/
def State.copyTeams (s : State) (t : Nat) (dir : CpDir) : List Nat :=
  if dir == .mc then (s.cohort t).filter fun k => (s.team k).status == .resident || (s.team k).status == .saved else [t]

/-- Scratchpad lines that a destination touches in every destination team (R339). -/
def State.copyLines (s : State) (t : Nat) (dir : CpDir) (spans : List (Nat × Nat)) : List (Nat × Nat) :=
  ((s.copyTeams t dir).flatMap fun k => spans.flatMap fun p => s.spanLines k p).eraseDups

/-- Units of a copy (R334 to R337). -/
def unitsOf (xf : CpXform) (src : Desc) : Nat :=
  match xf with
  | .t => (src.rows + 31) / 32 * ((src.cols + 31) / 32)
  | _ => src.rows

/-- The stage that a stopped copy of the crew at the address keeps (R342). -/
def Team.claimAt (tm : Team) (c : Nat) (pc : Word64) : Option Nat :=
  (tm.claims.find? fun k => k.crew == c && k.pc == pc).map Claim.stage

def Team.dropClaim (tm : Team) (c : Nat) (pc : Word64) : Team :=
  { tm with claims := tm.claims.filter fun k => !(k.crew == c && k.pc == pc) }

/-- cp at issue, its place in the engine's queue apart. -/
def cpIssue (g : Guard) (dir : CpDir) (xf : CpXform) (d a : Fin 16) (r : Option (Fin 16)) (b : Option Opnd) (s : State) :
    Result :=
  crewOp (.cp g dir xf d a r b) s (fun x =>
      let src := Desc.of (s.tile x.t a.val)
      let dst := Desc.of (s.tile x.t d.val)
      if x.act = 0 then {}
      else if b.isSome != s.perTensor x.t xf dst then { bundle := some 0 }
      else if !s.copyOk x.t dir xf src dst then { active := some 6 } else {}) fun x =>
    let src := Desc.of (s.tile x.t a.val)
    let dst := Desc.of (s.tile x.t d.val)
    let core := (s.team x.t).core
    if x.act = 0 then s
    else
      match s.copyTrap x.t dir xf src dst with
      | some (cls, info) => s.trap x.t x.c cls x.act (fun _ => BitVec.ofNat 32 info) x.pc
      | none =>
        let kept := (s.team x.t).claimAt x.c x.pc
        if (match r with
          | some r => kept.isNone && (s.ring x.t r).free == 0
          | none => false) then (s.yieldEngine core x.t x.c).stall
        else if 63 ≤ (s.crew x.t x.c).counter 2 then s.stall
        else if !s.engineTakes core x.t x.c then s.queueCopy core x.t x.c
        else
          let (id, s) := s.fresh
          let spans := s.dstSpans x.t xf dst
          let long := decide (65536 < totalBytes spans)
          let lines := s.copyLines x.t dir spans
          let stage := match r with
            | some r => kept.getD (s.ring x.t r).prod
            | none => 0
          let first := if long then ((s.crew x.t x.c).th (lowestLane x.act)).pix.toNat else 0
          let seals := Res.tile d.val :: Res.tile a.val :: (match b with
            | some (.s n) => [Res.s n.val]
            | _ => [])
          let c : Copy :=
            { id := id, core := core, team := x.t, crew := x.c, pc := x.pc, lanes := x.act, word := x.word, dir := dir,
              xform := xf, dst := s.tile x.t d.val, src := s.tile x.t a.val
              mult := match b with
                | some o => BitVec.ofNat 32 (s.rd32 x.t x.c o 0)
                | none => 0
              ring := r, stage := stage, unit := first, units := unitsOf xf src, first := first, cache := []
              after := ((s.crew x.t x.c).copyAfter ++ (match r with
                | some r => (s.team x.t).noted r stage true
                | none => [])).filter s.accPending
              lines := lines, amax := 0, long := long, held := false, orphan := none, peers := lines.any fun p => p.1 != x.t }
          let s := s.modTeam x.t fun tm => tm.dropClaim x.c x.pc
          let s := match r with
            | some r => (if kept.isSome then s else s.modRing x.t r Ring.claim).tagStage x.t x.c r stage
            | none => s
          let s := (s.clearPresence lines).modCrew x.t x.c fun cr => (cr.raise 2 id).sealUp 2 seals
          let s := { s.yieldEngine core x.t x.c with copies := s.copies ++ [c] }
          if long then
            let m := x.lanes
            s.modCrew x.t x.c fun cr => { cr.modLanes m fun l th => { th with
                pc := x.pc
                runWait := some (.copy id)
                pix := if x.act.getLsbD l then BitVec.ofNat 32 first else th.pix
                awaits := if x.inf.guard.sw then cr.outs.map Outstanding.id else th.awaits } with
              bundle := 0 }
          else s

def execCp (g : Guard) (dir : CpDir) (xf : CpXform) (d a : Fin 16) (r : Option (Fin 16)) (b : Option Opnd) (s : State) :
    Result :=
  match cpIssue g dir xf d a r b s with
  | .next k => .next (k.leaveQueue s)
  | k => k

/-! ## Carrying out a copy (R334 to R339) -/

def Copy.srcD (c : Copy) : Desc := Desc.of c.src
def Copy.dstD (c : Copy) : Desc := Desc.of c.dst

/-- What the accesses of a copy are made for. -/
def Copy.engine (c : Copy) : Engine := ⟨c.core, c.team, [c.crew], .copy c.id, c.orphan⟩

/-- Teams into whose scratchpad a copy still writes: the team that it outlives is not one (R344). -/
def State.destTeams (s : State) (c : Copy) : List Nat :=
  if c.orphan.isSome then (s.copyTeams c.team c.dir).filter fun k => k != c.team || c.dir != .mc else s.copyTeams c.team c.dir

/-- Rows of the source that unit `u` reads. -/
def Copy.srcRows (c : Copy) (u : Nat) : List Nat :=
  match c.xform with
  | .t =>
    let nb := (c.srcD.cols + 31) / 32
    (List.range 32).filterMap fun i => let r := u / nb * 32 + i
      if r < c.srcD.rows then some r else none
  | _ => [u]

/-- Ranges that unit `u` reads: rows, of a microscaled block not yet read all its rows, and scale bytes of .t. -/
def State.readSpans (s : State) (c : Copy) (u : Nat) : List (Nat × Nat) :=
  let d := c.srcD
  let e := s.descElem c.team d
  let rows := if s.blockwise c.team c.xform c.dstD then
      (if c.cache.isEmpty then (List.range 32).filterMap fun i => let r := u / 32 * 32 + i
        if r < d.rows then some r else none
      else []) else c.srcRows u
  rows.flatMap (fun r => d.rowSpans e r) ++
    (if s.srcScales c.team c.xform d then
      let nb := (d.cols + 31) / 32
      [(d.aux + u / nb * nb + u % nb, 1)] else [])

/-- Ranges that unit `u` writes. -/
def State.writeSpans (s : State) (c : Copy) (u : Nat) : List (Nat × Nat) :=
  let d := c.dstD
  let e := s.descElem c.team d
  match c.xform with
  | .t =>
    let nb := (c.srcD.cols + 31) / 32
    let w := e.width / 8
    let r0 := u / nb * 32
    let n := min 32 (c.srcD.rows - r0)
    ((List.range 32).filterMap fun i => let k := u % nb * 32 + i
      if k < c.srcD.cols then some (d.base + k * d.stride + w * r0, w * n) else none) ++
      (if s.dstScales c.team c.xform d then [(d.aux + u % nb * d.blocks + u / nb, 1)] else [])
  | .q => d.rowSpans e u ++ (if s.dstScales c.team c.xform d && u % 32 == 0 then [d.scaleSpan (u / 32)] else [])
  | _ => d.rowSpans e u

/-- FP32 pattern of a magnitude (R337). -/
def absF32 (v : FV) : Nat := (FFmt.fp32.roundTo v .rne .special).code % 2 ^ 31

/-- The scale that a microscaled block takes (R337). -/
def blockScale (e : Elem) (vs : List FV) : Nat :=
  let emax : Int := match e with
    | .e5m2 => 15
    | .e4m3 => 8
    | .e3m2 => 4
    | .int8 => 6
    | _ => 2
  if vs.any FV.isNan then 255
  else if vs.any FV.isInf then 254
  else
    let top := vs.foldl (fun (m : Option Int) v => match v with
      | .fin _ k x => if k = 0 then m else
        let l := (Nat.log2 k : Int) + x
        some (match m with
          | some j => max j l
          | none => l)
      | _ => m) none
    match top with
    | none => 127
    | some l => (min (max (l - emax + 127) 0) 254).toNat

/-- Element codes of a row quantised with multipliers by block (R337); none writes codes of zero. -/
def State.quantRow (s : State) (c : Copy) (r : Nat) (vals : List FV) (mult : Nat → Option FV) : List Nat :=
  let w := (s.gridOf c.team).record.slot c.dstD.fslot
  let e := slotElem w
  let rcd := (s.gridOf c.team).record
  let sr := (w.extractLsb' 8 2).toNat == 2
  (List.range vals.length).map fun j =>
    match mult (j / 32) with
    | none => 0
    | some m =>
      let k := r * c.dstD.cols + j
      let draw := if sr then (philoxDraws (philox (BitVec.ofNat 32 (k / 8)) 0xFFFFFFFF
        (BitVec.ofNat 32 (s.team c.team).index) (BitVec.ofNat 32 c.dstD.base) (rcd.key 0) (rcd.key 1))).getD (k % 8) 0 else 0
      (e.roundTo (nth vals j |>.mul m).1 (slotRound w draw) (slotOvf w)).code

/-- The values of a source row. -/
def rowValues (e : Elem) (cols : Nat) (bs : List Byte) : List FV := (List.range cols).map fun j => e.value (rowElem e bs j)

/-- What unit `u` writes, range by range, from what it has read; `rows` are the rows' bytes, each with its metadata
row, `scale` the scale byte of .t. -/
def State.unitData (s : State) (c : Copy) (u : Nat) (rows : List (List Byte × List Byte)) (scale : List Byte) :
    List (List Byte) :=
  let sd := c.srcD
  let dd := c.dstD
  let es := s.descElem c.team sd
  let ed := s.descElem c.team dd
  let row (i : Nat) : List Byte × List Byte := rows.getD i ([], [])
  match c.xform with
  | .plain => if sd.sparse = 0 then [(row 0).1] else [(row 0).1, (row 0).2]
  | .sx => [packRow ed (sd.rowCodes es (row 0).1 (row 0).2)]
  | .t =>
    let nb := (sd.cols + 31) / 32
    let codes := rows.map fun p => sd.rowCodes es p.1 p.2
    ((List.range 32).filterMap fun i => let k := u % nb * 32 + i
      if k < sd.cols then some (codes.flatMap fun cs => bytesOf (ed.width / 8) (cs.getD k 0)) else none) ++
      (if s.dstScales c.team c.xform dd then [scale] else [])
  | .q =>
    if s.blockwise c.team c.xform dd then
      let vals := rows.map fun p => rowValues es sd.cols p.1
      let scales := (List.range dd.blocks).map fun j => blockScale ed (vals.flatMap fun v => (v.drop (32 * j)).take 32)
      let mult (j : Nat) : Option FV :=
        let x := scales.getD j 0
        if x = 255 then none else some (.fin false 1 (127 - (x : Int)))
      packRow ed (s.quantRow c u (nth vals (u % 32)) mult) ::
        (if u % 32 == 0 && s.dstScales c.team c.xform dd then [scales.map fun x => BitVec.ofNat 8 x] else [])
    else
      let m := FFmt.fp32.value c.mult.toNat
      [packRow ed (s.quantRow c u (rowValues es sd.cols (row 0).1) fun _ => some m)]

/-- Read the rows of a unit, then its scale byte. -/
def State.readUnit (s : State) (c : Copy) (u : Nat) : List (List Byte × List Byte) × List Byte × State :=
  let d := c.srcD
  let e := s.descElem c.team d
  let scaledQ := s.blockwise c.team c.xform c.dstD
  let rowsOf := if scaledQ then (List.range 32).filterMap fun i => let r := u / 32 * 32 + i
      if r < d.rows then some r else none
    else c.srcRows u
  let (rows, s) := if scaledQ && !c.cache.isEmpty then (c.cache.map fun b => (b, []), s)
    else rowsOf.foldl (fun (p : List (List Byte × List Byte) × State) r =>
      match d.rowSpans e r with
      | a :: m =>
        let (bs, s) := p.2.engineRead c.engine a
        let (ms, s) := match m with
          | b :: _ => s.engineRead c.engine b
          | [] => ([], s)
        (p.1 ++ [(bs, ms)], s)
      | [] => p) ([], s)
  let (sc, s) := if s.srcScales c.team c.xform d then
      let nb := (d.cols + 31) / 32
      s.engineRead c.engine (d.aux + u / nb * nb + u % nb, 1)
    else ([], s)
  (rows, sc, s)

def State.modCopy (s : State) (id : Nat) (f : Copy → Copy) : State :=
  { s with copies := s.copies.map fun c => if c.id = id then f c else c }

/-- R339: the source lines that a unit reads have their bits set, the bits that this copy or a later one of its
crew keeps clear apart. -/
def State.sourceSet (s : State) (c : Copy) (spans : List (Nat × Nat)) : Bool :=
  (spans.flatMap fun p => s.spanLines c.team p).all fun k =>
    decide ((s.team k.1).absent.count k.2 ≤
      ((s.copies.filter fun j => j.crew == c.crew && j.team == c.team && decide (c.id ≤ j.id)).map fun j =>
        j.lines.count k).sum)

/-- Ranges of bytes that cover some ranges of generic addresses, one for each space that these lie in: a team's scratchpad, or
global memory. -/
def State.boundsOf (s : State) (t : Nat) (spans : List (Nat × Nat)) : List (Option Nat × Nat × Nat) :=
  let at_ (a : Nat) : Option Nat × Nat := match decodeAddr a with
    | .ok (.own o) => (some t, o)
    | .ok (.peer r o) => (s.mate t r, o)
    | _ => (none, a)
  spans.foldl (fun l p =>
    let (k, o) := at_ p.1
    if p.2 = 0 then l
    else if l.any fun b => b.1 == k then l.map fun b => if b.1 = k then (k, min b.2.1 o, max b.2.2 (o + p.2)) else b
    else (k, o, o + p.2) :: l) []

/-- The word at which a per-tensor copy folds (R337). -/
def State.foldWord (s : State) (c : Copy) : List (Nat × Nat) :=
  if s.perTensor c.team c.xform c.dstD && c.dstD.aux != 0 then [(c.dstD.aux, 4)] else []

/-- The ranges that cover what a copy writes, in each team of a .mc fill, and the word of its fold. -/
def State.dstBounds (s : State) (c : Copy) : List (Option Nat × Nat × Nat) :=
  let l := s.boundsOf c.team (s.dstSpans c.team c.xform c.dstD)
  (if c.dir == .mc then (s.copyTeams c.team c.dir).flatMap fun k => l.map fun b => (some k, b.2) else l) ++
    s.boundsOf c.team (s.foldWord c)

def boundsMeet (l k : List (Option Nat × Nat × Nat)) : Bool :=
  l.any fun a => k.any fun b => a.1 == b.1 && decide (a.2.1 < b.2.2) && decide (b.2.1 < a.2.2)

/-- R339: an earlier copy of the crew that reads or writes what this one writes, or writes what it reads. -/
def State.copyBehind (s : State) (c : Copy) : Bool :=
  let srcB (k : Copy) := s.boundsOf k.team (s.srcSpans k.team k.xform k.srcD)
  let dstB (k : Copy) := s.dstBounds k
  s.copies.any fun k => k.team == c.team && k.crew == c.crew && decide (k.id < c.id) &&
    (boundsMeet (dstB k) (srcB c) || boundsMeet (srcB k) (dstB c) || boundsMeet (dstB k) (dstB c))

/-- Whether a unit of a copy may be carried out now, its pages apart. -/
def State.unitFree (s : State) (c : Copy) : Bool :=
  decide (c.unit < c.units) && !s.copyBehind c && (c.after.all fun n => !s.accPending n) &&
    s.sourceSet c (s.readSpans c c.unit)

/-- The ranges of a unit, as (write, range). -/
def State.unitSpans (s : State) (c : Copy) : List (Bool × (Nat × Nat)) :=
  (s.readSpans c c.unit).map (fun p => (false, p)) ++ (s.writeSpans c c.unit).map fun p => (true, p)

/-- Set the presence bits of a copy's lines that it still keeps clear, those of `keep` apart. -/
def State.landLines (s : State) (id : Nat) (lines keep : List (Nat × Nat)) : State :=
  let go := lines.filter fun k => !keep.contains k
  (s.setPresence go).modCopy id fun c => { c with lines := c.lines.filter fun k => !go.contains k }

/-- One destination of a .mc fill; a guard byte is a touch of the issuing team. -/
def State.mcWrite (s : State) (w : Engine) (k a : Nat) (bs : List Byte) : State :=
  (s.padPut (fun i => s.padByte k (a + i)) bs).engineTouch w a bs.length

/-- Carry out the next unit, whose pages are at hand. -/
def State.doUnit (s : State) (c : Copy) : State :=
  let u := c.unit
  let (rows, sc, s) := s.readUnit c u
  let data := s.unitData c u rows sc
  let spans := s.writeSpans c u
  let teams := s.destTeams c
  let s := (spans.zip data).foldl (fun s p =>
    if c.dir == .mc then teams.foldl (fun s k => s.mcWrite c.engine k p.1.1 p.2) s
    else s.engineWrite c.engine p.1.1 p.2) s
  let es := s.descElem c.team c.srcD
  let amax := if s.perTensor c.team c.xform c.dstD then
      (rows.flatMap fun p => rowValues es c.srcD.cols p.1).foldl (fun m v => maxAbs m (absF32 v)) c.amax.toNat
    else c.amax.toNat
  let scaledQ := s.blockwise c.team c.xform c.dstD
  let s := s.modCopy c.id fun c => { c with
    unit := u + 1
    held := false
    amax := BitVec.ofNat 32 amax
    cache := if scaledQ && (u + 1) % 32 != 0 then rows.map Prod.fst else [] }
  let later := (List.range c.units).flatMap fun k =>
    if u < k then s.copyLines c.team c.dir (s.writeSpans c k) else []
  let s := if c.dir == .mc then s else s.landLines c.id c.lines later
  if c.long then s.modCrew c.team c.crew fun cr => cr.modLanes c.lanes fun _ th =>
    if th.runWait = some (.copy c.id) then { th with pix := BitVec.ofNat 32 (u + 1) } else th
  else s

/-- A copy ends; its presence bits are set. -/
def State.dropCopy (s : State) (c : Copy) : State :=
  let s := (s.landLines c.id c.lines []).forgetWaits [.copy c.id]
  { s with copies := s.copies.filter fun k => k.id != c.id }

/-- An access of a copy has been refused: its team is killed with one record, unless the copy has outlived it (R344). -/
def State.refuseCopy (s : State) (c : Copy) : State :=
  if c.orphan.isSome then s.dropCopy c
  else (s.dropCopy c).killTeam c.team c.crew 6 c.lanes c.pc 0x20 { imprecise := true } true none

/-- COPY_LINE_LANDED: the next unit of a copy is read and written. -/
def execCopyLineLanded (copy : Nat) (s : State) : Result :=
  .next (match s.copies.find? fun c => c.id == copy with
    | none => s
    | some c =>
      if !s.unitFree c then s
      else
        let (ok, s) := s.spansReady c.engine (s.unitSpans c)
        if !ok then s
        else
          let (refused, s) := s.engineRefused c.engine false (s.unitSpans c)
          if refused then s.refuseCopy c else s.doUnit c)

/-- What is left once every unit has been written: the fold's word, and the rows that an earlier issue of a long
copy read. -/
def State.foldSpans (s : State) (c : Copy) : List (Bool × (Nat × Nat)) :=
  match s.foldWord c with
  | [] => []
  | w => w.map (fun p => (true, p)) ++ (List.range c.first).flatMap fun r =>
      (c.srcD.rowSpans (s.descElem c.team c.srcD) r).map fun p => (false, p)

/-- The fold of R337: one fmax.abs at Dst.AUX, directly, without a record where the word's line is shared (R341). -/
def State.foldCopy (s : State) (c : Copy) : State :=
  if !(s.foldWord c).isEmpty then
    let e := s.descElem c.team c.srcD
    let (m, s) := (List.range c.first).foldl (fun (p : Nat × State) r =>
      match c.srcD.rowSpans e r with
      | a :: _ =>
        let (bs, s) := p.2.engineRead c.engine a
        ((rowValues e c.srcD.cols bs).foldl (fun m v => maxAbs m (absF32 v)) p.1, s)
      | [] => p) (c.amax.toNat, s)
    let a := c.dstD.aux
    if isPad a then
      let (old, s) := s.engineRead c.engine (a, 4)
      s.padPut (fun i => s.padByte c.team (a + i)) (bytesOf 4 (maxAbs (ofBytes old) m))
    else
      let (old, s) := (s.engineOwn c.team (a / 128) true true).globalBytes 3 c.engine a 4
      let s := s.putGlobal 3 c.engine a (bytesOf 4 (maxAbs (ofBytes old) m))
      if c.orphan.isSome || (s.gridOf c.team).record.ord then s else s.modTeam c.team fun tm => { tm with escaped := true }
  else s

/-- A copy completes (R332): its lines are set, its stage toggles, w2 falls, and the lanes of a long copy go on, a parked one when
it is resumed (R342). One that has outlived its team has none of these left (R344). -/
def State.finishCopy (s : State) (c : Copy) : State :=
  let s := s.landLines c.id c.lines []
  if c.orphan.isSome then { s with copies := s.copies.filter fun k => k.id != c.id } else
  let s := match c.ring with
    | some r => s.modRing c.team r fun k => k.toggle c.stage
    | none => s
  let s := { s.modCrew c.team c.crew fun cr => cr.lower c.id with copies := s.copies.filter fun k => k.id != c.id }
  let im := s.image c.team
  let mine := (s.crew c.team c.crew).inState fun th => th.runWait == some (.copy c.id)
  let away := mine &&& (s.crew c.team c.crew).inState fun th => th.state == .parked
  if mine = 0 then s
  else (s.modCrew c.team c.crew fun cr => cr.modLanes mine fun l th => { th with
    runWait := none
    pix := if c.lanes.getLsbD l then 0 else th.pix
    pc := if away.getLsbD l then (im.after th.pc).1 else th.pc
    late := if away.getLsbD l then (im.after th.pc).2 else th.late }).goOn c.team c.crew (mine &&& ~~~away)

/-- COPY_COMPLETE: has no effect before every unit of the copy has been written. -/
def execCopyComplete (copy : Nat) (s : State) : Result :=
  .next (match s.copies.find? fun c => c.id == copy with
    | none => s
    | some c =>
      if c.unit < c.units then s
      else
        let (ok, s) := s.spansReady c.engine (s.foldSpans c)
        if !ok then s
        else
          let (refused, s) := s.engineRefused c.engine true (s.foldSpans c)
          if refused then s.refuseCopy c else (s.foldCopy c).finishCopy c)

/-- The ranges that a copy is at. -/
def State.copyNeeds (s : State) (c : Copy) : List (Bool × (Nat × Nat)) :=
  if c.unit < c.units then s.unitSpans c else s.foldSpans c

/-- COPY_PAGE_FAULT (R344): the copy holds at its unit while its page is faulted; a refused page kills the team with
one record, unless the copy has outlived it. -/
def execCopyPageFault (copy : Nat) (s : State) : Result :=
  .next (match s.copies.find? fun c => c.id == copy with
    | none => s
    | some c =>
      if (s.copyNeeds c).any fun p => (s.spanRefused c.engine p.1 p.2).isSome then s.refuseCopy c
      else if (s.copyNeeds c).any fun p => (s.spanFaulted c.engine p.1 p.2).isSome then
        s.modCopy copy fun c => { c with held := true }
      else s)

/-- COPY_ENTER_ENGINE (R322): a place is free, and the crew that reached its stall first is let in. -/
def execCopyEnterEngine (core : Nat) (s : State) : Result :=
  .next (if s.copiesOn core < 8 ∧ (s.granted core).isNone then
    s.modCore core fun co => match co.cpQueue.filter s.standsAtCp with
      | [] => { co with cpGrant := none, cpQueue := [] }
      | q :: r => { co with cpGrant := some q, cpQueue := r }
    else s)

end Sys2Proof.Machine
end

