-- ==== Sys2Proof/Machine/Launch.lean ====
section
/-! DEFINITION. Launch records and their validation, grids that start, and launch as the task-graph engine answers
it (R20 to R27, R97 to R99, R121, R197, R198, R234, R246, R406 to R408). -/

namespace Sys2Proof.Machine

/-! ## Reads and writes that the task-graph engine makes (R426, R476) -/

/-- A page that an access needs and that is not at hand: an address in it, and whether it is written. -/
abbrev NoPage := Nat × Bool

/-- Place of an address for an engine of a die. One that has met its fault waits for a replay-all, and a refused one stays so,
whoever brings the page meanwhile (R315, R426). -/
def State.engineAt (s : State) (die fe : Nat) (user : PageUser) (a : Nat) (write : Bool) : Except NoPage Nat :=
  let here (w : PageWait) : Bool :=
    w.pasid == (s.fe fe).pasid && w.page == pageOf a && w.write == write && w.fe == fe && w.user == user
  if (s.die die).refused.any here || (s.die die).waiting.any fun k => here k.1 then .error (a, write)
  else match tlbFind (s.die die).tlb (s.fe fe).pasid a write with
  | some t => if (s.remote fe (t.to a)).isSome then .error (a, write) else .ok (s.redirect fe (t.to a))
  | none => .error (a, write)

/-- Bytes of a global range, through the shared cache; those of a peer's memory are free (log 9). -/
def State.peek (fuel : Nat) (s : State) (die fe : Nat) (user : PageUser) (a n : Nat) : Except NoPage (List Byte × State) :=
  match fuel with
  | 0 => .ok ([], s)
  | fuel + 1 =>
    if n = 0 then .ok ([], s)
    else
      match s.engineAt die fe user a false with
      | .error e => .error e
      | .ok pa =>
        let k := min n (4096 - a % 4096)
        let (bs, s) := if isPeer pa then
            ((List.range k).map fun i => Config.freeByte (s.freeCtr + i), { s with freeCtr := s.freeCtr + k })
          else s.readMem fe pa k
        (State.peek fuel s die fe user (a + k) (n - k)).map fun r => (bs ++ r.1, r.2)

/-- Write bytes of a global range; the shared cache's lines are touched, and writes to a peer leave the device. -/
def State.poke (fuel : Nat) (s : State) (die fe : Nat) (user : PageUser) (a : Nat) (bs : List Byte) : Except NoPage State :=
  match fuel with
  | 0 => .ok s
  | fuel + 1 =>
    if bs.isEmpty then .ok s
    else
      match s.engineAt die fe user a true with
      | .error e => .error e
      | .ok pa =>
        let k := min bs.length (4096 - a % 4096)
        State.poke fuel (if isPeer pa then s.sendPeer die (peerOf pa) (.access (peerOffset pa) (.write (bs.take k)))
          else s.writeMem none fe pa (bs.take k) noClock) die fe user (a + k) (bs.drop k)

/-- Steps of `peek` and `poke` for a range. -/
def pages (n : Nat) : Nat := n / 4096 + 2

def State.get (s : State) (die fe : Nat) (user : PageUser) (a n : Nat) : Except NoPage (List Byte × State) :=
  s.peek (pages n) die fe user a n
def State.put (s : State) (die fe : Nat) (user : PageUser) (a : Nat) (bs : List Byte) : Except NoPage State :=
  s.poke (pages bs.length) die fe user a bs

def State.getNat (s : State) (die fe : Nat) (user : PageUser) (a n : Nat) : Except NoPage (Nat × State) :=
  (s.get die fe user a n).map fun r => (ofBytes r.1, r.2)

/-- What becomes of an action whose page is not at hand: it asks for the page (R476), or starts its pull (R455). -/
def State.askPage (s : State) (die fe core : Nat) (p : NoPage) (user : PageUser := .frontEnd) : State :=
  match s.walk die fe core p.1 p.2 user with
  | (some pa, s) => (match s.remote fe pa with
    | some i => s.startPull fe i
    | none => s)
  | (none, s) => s

def State.pageRefused (s : State) (die fe core : Nat) (p : NoPage) (user : PageUser := .frontEnd) : Bool :=
  s.walkRefused die fe core p.1 p.2 user

/-- The die whose fault buffer serves a front end (R476). -/
def feDie (fe : Nat) : Nat := 2 * (fe / 8)

/-! ## The launch record (R20) -/

/-- A launch record from its 256 bytes. -/
def Launch.ofBytes (bs : List Byte) : Launch :=
  let w := BitVec.ofNat 1024 (Machine.ofBytes (bs.take 128))
  { entry := w.extractLsb' 0 64
    gx := w.extractLsb' 64 32
    gy := w.extractLsb' 96 16
    gz := w.extractLsb' 112 16
    teamShape := w.extractLsb' 128 32
    sched := w.extractLsb' 160 32
    roles := w.extractLsb' 192 128
    partition := w.extractLsb' 320 32
    mode := w.extractLsb' 352 32
    disp := w.extractLsb' 384 32
    parent := w.extractLsb' 416 32
    stackBase := w.extractLsb' 448 64
    fslots := (List.range 8).map fun i => w.extractLsb' (512 + 32 * i) 32
    keys := (List.range 4).map fun i => w.extractLsb' (768 + 32 * i) 32
    tkTable := w.extractLsb' 896 64
    vregion := w.extractLsb' 960 64
    args := (bs.drop 128).take 128 }

/-- Set DEPTH of a mode word (R21). -/
def withDepth (m : BitVec 32) (d : Nat) : BitVec 32 := (m &&& ~~~(15 <<< 13 : BitVec 32)) ||| (BitVec.ofNat 32 (d % 16) <<< 13)

/-- Set PRIO of a mode word (R21). -/
def withPrio (m : BitVec 32) (p : Nat) : BitVec 32 := (m &&& ~~~(7 <<< 10 : BitVec 32)) ||| (BitVec.ofNat 32 (p % 8) <<< 10)

/-- R23: a priority above a ceiling is lowered to it. -/
def Launch.cap (r : Launch) (ceiling : Nat) : Launch := { r with mode := withPrio r.mode (min r.prio ceiling) }

/-! ## Kernel entries (R406) -/

def Needs.ofWord (w : BitVec 256) : Needs where
  vregs := (w.extractLsb' 128 16).toNat
  spadb := (w.extractLsb' 96 32).toNat
  atiles := (w.extractLsb' 144 16).toNat
  wblocks := (w.extractLsb' 160 8).toNat
  handler := (w.extractLsb' 192 32).toNat
  codelen := (w.extractLsb' 32 32).toNat
  tablen := (w.extractLsb' 64 32).toNat

/-- R27, R99, R406: a kernel entry within its limits. -/
def needsOk (w : BitVec 256) : Bool :=
  let n := Needs.ofWord w
  w.extractLsb' 224 32 == 0 && w.extractLsb' 168 24 == 0 && n.vregs % 16 == 0 && decide (16 ≤ n.vregs) &&
    decide (n.vregs ≤ 768) && decide (n.codelen + n.tablen ≤ Config.clauseStoreBytes)

/-- R234: whether the kernel has a handler clause. -/
def Needs.hasHandler (n : Needs) : Bool := n.handler != 0xFFFFFFFF

/-! ## Validation -/

/-- The limits of R22 on a record; `zeroed` for one that has to carry zero in DEPTH and PARENT. -/
def Launch.limits (r : Launch) (zeroed : Bool) : Bool :=
  r.entry.extractLsb' 56 8 == 0 && r.gx != 0 && r.gy != 0 && r.gz != 0 && decide (r.teams ≤ 2 ^ 31) &&
    decide (1 ≤ r.crews) && decide (r.crews ≤ 64) && !r.teamShape.getLsbD 7 && r.teamShape.extractLsb' 10 22 == 0 &&
    r.roles >>> (2 * r.crews) == 0 && r.disp.extractLsb' 28 4 == 0 &&
    ((List.range 14).all fun c => r.disposition c != 3) && r.mode.extractLsb' 22 10 == 0 &&
    (!zeroed || (r.depth == 0 && r.parent == 0)) && (r.coop == (r.minCl != 0))

/-- R97: the partition word. -/
def partitionOk (p : BitVec 32) : Bool :=
  let v := (p.extractLsb' 0 5).toNat
  let sp := (p.extractLsb' 5 5).toNat
  let ac := (p.extractLsb' 10 5).toNat
  p.extractLsb' 15 17 == 0 && v + sp + ac == 28 && decide (2 ≤ v) && decide (2 ≤ sp) && ac % 2 == 0 && decide (ac ≤ 24)

/-- R121, R407: a format slot, with the counts of curves and maps that it may name. -/
def slotOk (w : Word32) (curves bmaps : Nat) : Bool :=
  let e := (w.extractLsb' 0 4).toNat
  let ovf := (w.extractLsb' 10 2).toNat
  let sl := (w.extractLsb' 12 4).toNat
  let c := (w.extractLsb' 16 8).toNat
  let b := (w.extractLsb' 24 8).toNat
  decide (e < 12) && w.extractLsb' 4 2 == 0 && w.extractLsb' 8 2 != 3 && ovf != 3 && w.getLsbD 6 == w.getLsbD 7 &&
    (!w.getLsbD 6 || (decide (4 ≤ e) && decide (e ≤ 10))) && !(ovf == 1 && decide (6 ≤ e)) &&
    (if e = 11 then decide (3 ≤ sl) && decide (sl ≤ 9) else sl == 0) &&
    ((c == 0) == (b == 0)) && decide (c ≤ curves) && decide (b ≤ bmaps)

/-- First byte and byte after the last of the HBM pages of a front end (R462, R465). -/
def FrontEnd.hbm (f : FrontEnd) : Nat × Nat :=
  ((f.hbmBase.extractLsb' 21 19).toNat * 2 ^ 21, ((f.hbmLimit.extractLsb' 21 19).toNat + 1) * 2 ^ 21)

/-- R246, R465: the stack arena. -/
def arenaOk (f : FrontEnd) (r : Launch) : Bool :=
  let b := r.stackBase.toNat
  b == 0 || (b % 2 ^ 21 == 0 && decide (f.hbm.1 ≤ b) && decide (b + r.teams * 16 * r.crews * 2 ^ 20 ≤ f.hbm.2))

/-- Check codes that a record fails (R402), given the word at ENTRY − 32 when it was read. -/
def failures (f : FrontEnd) (r : Launch) (zeroed : Bool) (curves bmaps : Nat) (kernel : Option (BitVec 256)) :
    List Nat :=
  let n := (kernel.map Needs.ofWord).getD default
  (if r.limits zeroed then [] else [0]) ++ (if partitionOk r.partition then [] else [1]) ++
    (if r.fslots.all fun w => slotOk w curves bmaps then [] else [2]) ++
    (if (kernel.map needsOk).getD false && decide (n.atiles ≤ r.bankTiles) && n.spadb % 128 == 0 &&
      r.entry.toNat % 8 == 0 then [] else [3]) ++
    (if arenaOk f r then [] else [4]) ++
    (if ((List.range 14).any fun c => r.disposition c == 1) && !n.hasHandler then [5] else [])

/-- What came of a record: it is malformed with a check code, a page is not at hand, or it stands with the needs of
its kernel. -/
inductive Checked22 where
  | malformed (code : Nat)
  | noPage (p : NoPage)
  | fine (n : Needs)
  deriving DecidableEq, Repr

/-- The word at ENTRY − 32, none where no kernel can stand (R407); the page that it lacks otherwise. -/
def State.kernelWord (s : State) (fe : Nat) (us : PageUser) (r : Launch) : Except NoPage (Option (BitVec 256)) :=
  let a := r.entry.toNat
  if a < 32 ∨ !globalAddr (a - 32) then .ok none
  else
    match s.get (feDie fe) fe us (a - 32) 32 with
    | .ok (bs, _) => .ok (some (BitVec.ofNat 256 (ofBytes bs)))
    | .error p => if s.pageRefused (feDie fe) fe 0 p us then .ok none else .error p

/-- The shared cache after that word has been read (R253). -/
def State.readKernel (s : State) (fe : Nat) (us : PageUser) (r : Launch) : State :=
  let a := r.entry.toNat
  if a < 32 ∨ !globalAddr (a - 32) then s
  else
    match s.get (feDie fe) fe us (a - 32) 32 with
    | .ok (_, s) => s
    | .error _ => s

/-- Validate a record (R22, R97, R121, R234, R246, R406, R407). Where it fails several checks, the spec does not say
which code the record of R402 holds: `Config.pick` chooses one of them (log 12). -/
def State.validate (s : State) (fe : Nat) (us : PageUser) (r : Launch) (zeroed : Bool) (curves bmaps : Nat) : Checked22 :=
  match s.kernelWord fe us r with
  | .error p => .noPage p
  | .ok k =>
    match failures (s.fe fe) r zeroed curves bmaps k with
    | [] => .fine ((k.map Needs.ofWord).getD default)
    | c :: cs => .malformed ((c :: cs).getD (Config.pick s.freeCtr % (cs.length + 1)) c)

/-! ## Handles -/

/-- Handles in use. -/
def State.handles (s : State) : List (BitVec 32) :=
  (s.grids.filter fun g => !g.retired).map Grid.handle ++
    (s.subs.filter fun u => !u.finished).filterMap fun u => u.redemption.map Redemption.handle

/-- The lowest nonzero handle that a list does not hold, counted from `n`. -/
def lowestFree (fuel n : Nat) (l : List (BitVec 32)) : BitVec 32 :=
  match fuel with
  | 0 => BitVec.ofNat 32 n
  | fuel + 1 => if l.contains (BitVec.ofNat 32 n) then lowestFree fuel (n + 1) l else BitVec.ofNat 32 n

/-- A fresh nonzero handle: a free value of what it is given for (log 8), but none in use. -/
def State.newHandle (s : State) (key : List Nat) : BitVec 32 :=
  let h := Config.handleBits key
  let l := s.handles
  if h = 0 ∨ l.contains h then lowestFree (l.length + 1) 1 l else h

/-- What a grid's handle is given for: its record, and the place of a child's launch in its team, so that it does not depend on what
else runs (R301). -/
def State.handleKey (s : State) (r : Launch) (o : Origin) : List Nat :=
  [r.entry.toNat, r.gx.toNat, r.gy.toNat, r.gz.toNat, r.teamShape.toNat, r.sched.toNat, r.roles.toNat, r.partition.toNat,
    r.mode.toNat, r.disp.toNat, r.parent.toNat, r.stackBase.toNat, r.tkTable.toNat, r.vregion.toNat] ++
    r.fslots.map BitVec.toNat ++ r.keys.map BitVec.toNat ++ r.args.map BitVec.toNat ++
    (match o with
     | .child t c _ => [(s.team t).index, (s.team t).seqNext, c]
     | _ => [])

/-! ## Starting a grid -/

/-- The submission that a grid belongs to, itself or through its parents (R407). -/
def State.subOf (fuel : Nat) (s : State) (g : Nat) : Option Nat :=
  match fuel with
  | 0 => none
  | fuel + 1 =>
    match (s.grid g).origin with
    | .node u _ => some u
    | .child t _ _ => State.subOf fuel s (s.team t).grid
    | _ => none

def State.sub (s : State) (u : Nat) : Submission := nth s.subs u
def State.bin (s : State) (b : Nat) : Binary := nth s.bins b

def State.modSub (s : State) (u : Nat) (f : Submission → Submission) : State := { s with subs := upd s.subs u f }

/-- First address of a block (R408). -/
def Binary.blockAt (b : Binary) (i : Nat) : Nat :=
  let k := nth b.blocks i
  (nth b.pools k.pool).base.toNat + k.offset

/-- Owners of the lines of a block in a grid of `teams` teams (R408). -/
def blockOwners (a : Nat) (k : DataBlock) (teams : Nat) : List (Nat × LineOwner) :=
  let first := a / 128
  let n := if k.size = 0 then 0 else (a + k.size - 1) / 128 + 1 - first
  if k.own = 1 then (List.range n).map fun i => (first + i, .shared)
  else if k.own = 2 then
    (List.range n).filterMap fun i =>
      let j := i / max 1 k.privLines
      if j < teams then some (first + i, .team j) else none
  else []

/-- The line ownership map at launch (R292, R408): a later block's entry comes before an earlier one's. -/
def Binary.owners (b : Binary) (teams : Nat) : List (Nat × LineOwner) :=
  (List.range b.blocks.length).foldl (fun l i => blockOwners (b.blockAt i) (nth b.blocks i) teams ++ l) []

/-- A new grid (R68, R292, R297). -/
def Grid.start (fe : Nat) (r : Launch) (n : Needs) (o : Origin) (handle : BitVec 32) (curves bmaps : List Word64)
    (owners : List (Nat × LineOwner)) : Grid where
  fe := fe
  record := r
  needs := n
  origin := o
  handle := handle
  nextTeam := 0
  ended := 0
  failed := false
  retired := false
  staged := false
  noMore := false
  head := 0
  owners := owners
  curves := curves
  bmaps := bmaps
  children := 0
  replay := false
  issued := 0

/-- A record that stands becomes a grid with a fresh handle. -/
def State.addGrid (s : State) (fe : Nat) (r : Launch) (n : Needs) (o : Origin) (curves bmaps : List Word64)
    (bin : Option Nat) : Nat × State :=
  let h := s.newHandle (s.handleKey r o)
  let owners := match bin with
    | some b => if r.ord then (s.bin b).owners r.teams else []
    | none => []
  (s.grids.length, { s with grids := s.grids ++ [Grid.start fe r n o h curves bmaps owners] })

/-- Priority ceiling of a front end (R399). -/
def FrontEnd.ceiling (f : FrontEnd) : Nat := (f.part.extractLsb' 52 3).toNat

/-! ## launch (R197, R198) -/

/-- The record of a child with what the engine writes into it (R197). -/
def State.childRecord (s : State) (t : Nat) (bs : List Byte) : Launch :=
  let g := s.gridOf t
  let r := Launch.ofBytes bs
  { r with parent := g.handle, mode := withDepth r.mode (g.record.depth + 1) }

/-- The status goes to D and the lane's launch is complete. -/
def State.launchDone (s : State) (e : LogEntry) (a : LaneAcc) (status : BitVec 32) : State :=
  ((s.giveDatum e a status.toNat).accDone e.id a.lane).launchOver e.team

/-- A rejected launch completes at once for w5 (R197). -/
def State.launchRejected (s : State) (e : LogEntry) (a : LaneAcc) : State :=
  (s.modCrew e.team e.crew fun cr => cr.lower a.data2.toNat).launchDone e a 0

/-- Whether an accepted launch is performed at once (R198, R293): in free mode, and in an ordered grid where the global lines of
its record are private to the team. A line that it finds in another state becomes shared. -/
def State.launchDirect (s : State) (e : LogEntry) (a : LaneAcc) (p : Place) : Bool × State :=
  if !(s.gridOf e.team).record.ord then (true, s)
  else if !s.mapped e a p then (false, s)
  else (linesAt a.addr.toNat 256).foldl (fun r l =>
    let (shared, s) := r.2.findShared e.team l true
    (r.1 && !shared, s)) (true, s)

/-- The staged entry of a launch (R296). -/
def State.stagedLaunch (s : State) (e : LogEntry) (a : LaneAcc) (grid : Nat) : Staged :=
  { seq := (s.team e.team).seqNext, kind := .launch, crew := e.crew, lane := a.l, addr := a.addr, size := .b8,
    ty := .b32, aop := .add, data := a.addr, data2 := 0, dreg := none, log := e.id, acc := grid, waiting := false }

/-- An accepted launch (R198): the child grid exists; in an ordered grid it waits for its release unless `now`.
One that is performed at once ends its team's relaunchability as a released one does (the model's choice, log 23). -/
def State.launchAccepted (s : State) (e : LogEntry) (a : LaneAcc) (r : Launch) (n : Needs) (now : Bool) : State :=
  let t := e.team
  let g := s.gridOf t
  let held := g.record.ord && !now
  let (k, s) := s.addGrid g.fe (r.cap g.record.prio) n (.child t e.crew a.data2.toNat) g.curves g.bmaps
    ((s.subOf 16 (s.team t).grid).map fun u => (s.sub u).bin)
  let s := s.modGrid k fun gr => { gr with staged := held }
  let s := s.modGrid (s.team t).grid fun gr => { gr with children := gr.children + 1 }
  let s := if held then
      let st := s.stagedLaunch e a k
      s.modTeam t fun tm => { tm with staged := tm.staged ++ [st], seqNext := tm.seqNext + 1 }
    else s.modTeam t fun tm => { tm with escaped := true }
  s.launchDone e a (s.grid k).handle

/-- The engine has a child's record. At depth 9 the lane takes its trap. Else the engine validates the record and answers, or
waits for a page, or for an entry of a full ordered-atomic buffer (R71, R197, R198, R293, R295). -/
def State.launchWith (s : State) (e : LogEntry) (a : LaneAcc) (p : Place) (bs : List Byte) : State :=
  let t := e.team
  let fe := s.feOf t
  let g := s.gridOf t
  if g.record.depth = 9 then s.accTraps [(e.id, a.lane)] 8 9
  else
    let (direct, s) := s.launchDirect e a p
    let r := s.childRecord t bs
    match s.validate fe .frontEnd r false g.curves.length g.bmaps.length with
    | .noPage q => s.askPage (feDie fe) fe 0 q
    | .malformed _ => ((s.readKernel fe .frontEnd r).dropRefused (feDie fe) fe .frontEnd).launchRejected e a
    | .fine n =>
      let s := s.readKernel fe .frontEnd r
      if direct then s.launchAccepted e a r n true
      else s.stageWith e a p (fun s => s.launchAccepted e a r n false) fun s => s.launchAccepted e a r n true

/-- Whether the engine may answer a lane of a launch now; a team may retire before (R72). -/
def State.launchReady (s : State) (e : LogEntry) (a : LaneAcc) : Bool :=
  e.kind.isLaunch && ((s.team e.team).status == .resident || (s.team e.team).status == .retired) && s.freeToGo e a &&
  s.peersAcked e a && (match a.status with
   | .ready _ | .stageWait _ _ => true
   | .ordered _ => s.loadReady e a
   | _ => false)

/-- The place of the second line of a launch record. -/
def State.secondLine (s : State) (e : LogEntry) (a : LaneAcc) (p : Place) : Place :=
  match p with
  | .phys pa => .phys (pa + 128)
  | _ =>
    match decodeAddr (a.addr.toNat + 128) with
    | .error _ => p
    | .ok d =>
      match s.resolve e.team e.crew a.l d with
      | .ok (.place q) => q
      | _ => p

/-- Both lines of a launch record, each at its place, as one access that touches a guard once (R197, R251). -/
def State.readRecord (s : State) (e : LogEntry) (a : LaneAcc) (p : Place) : List Byte × State :=
  let (lo, s) := s.readAt e a p 128
  match p, s.secondLine e a p with
  | .guard _ _ _, .guard _ _ _ => (lo ++ List.replicate 128 0, s)
  | _, q =>
    let (hi, s) := s.readAt e a q 128
    (lo ++ hi, s)

/-- Whether the record's read has to wait for its team's turn (R293, R298): a line of it is shared, or becomes so. -/
def State.recordShared (s : State) (e : LogEntry) (a : LaneAcc) (p : Place) : Bool × State :=
  if !s.mapped e a p then (s.stagedAhead e a p, s)
  else (linesAt a.addr.toNat 256).foldl (fun r l =>
    let (shared, s) := r.2.findShared e.team l false
    (r.1 || shared, s)) (false, s)

/-- Read a launch record at its place (R197: a load) and act on it. -/
def State.launchAt (s : State) (e : LogEntry) (a : LaneAcc) (p : Place) : State :=
  let go (s : State) (p : Place) : State :=
    let (bs, s) := (s.orderAt e a).readRecord e a p
    s.launchWith e a p bs
  match p with
  | .phys pa0 =>
    let pa := s.redirect (s.feOf e.team) pa0
    if isPeer pa then s.sendTo e a p else go s (.phys pa)
  | p => go s p

/-- The read of a record, held for its team's turn where it has to be. -/
def State.launchFirst (s : State) (e : LogEntry) (a : LaneAcc) (p : Place) : State :=
  let (wait, s) := s.recordShared e a p
  if wait then s.awaitTurn e a p else s.launchAt e a p

/-- LAUNCH_STATUS_RETURN: the record is read after what a release waits for (R442), as a load (R197, R298). -/
def execLaunchStatusReturn (log lane : Nat) (s : State) : Result :=
  .next (match s.logEntry log with
    | none => s
    | some e =>
      match e.acc lane with
      | none => s
      | some a =>
        if !s.launchReady e a then s
        else
          match a.status with
          | .ready p =>
            (match s.releaseWait e a p with
             | some st => s.setStatus log lane st
             | none => s.launchFirst e a p)
          | .ordered p | .stageWait _ p => s.launchAt e a p
          | _ => s)

/-- Whether a trained link leads to the peer that an address names, by the issuing die's route table (R450). -/
def State.routed (s : State) (die pa : Nat) : Bool :=
  let mask : BitVec 12 := nth (s.die die).routes (pa / 2 ^ 45 % 64)
  (List.range 12).any fun k => mask.getLsbD k && (s.link k).trained

/-- A write that has left its team is refused, and dropped: that of a release kills its team, with a record that holds no address of
an instruction (R318, R450, R468, log 70). -/
def State.refusePosted (s : State) (e : LogEntry) (a : LaneAcc) : State :=
  let s := if a.released then s.killTeam e.team e.crew 6 (laneBit a.l) 0 0x20 { imprecise := true } true none else s
  { s with log := s.log.filter fun k => k.id != e.id }.advanceHead (s.team e.team).grid

/-- PEER_ACCESS (R451, R468): the peer's answer, or its refusal, which also an AtomicOp to host memory can meet. -/
def execPeerAccess (log lane : Nat) (answer : Option (List Byte)) (s : State) : Result :=
  .next (match s.logEntry log with
    | none => s
    | some e =>
      match e.acc lane with
      | none => s
      | some a =>
        let refused (s : State) : State :=
          if e.posted then s.refusePosted e a
          else if a.released then
            s.killTeam e.team e.crew 6 (laneBit a.l) 0 0x20 { imprecise := true } true none
          else (s.accTraps [(log, lane)] 6 0x20).launchOver e.team
        match a.status, answer with
        | .peer (.phys pa), some bs => if !s.routed (e.core / 64) pa then s else (match e.kind with
          | .launch _ => s.launchWith e a (.phys pa) bs
          | _ => (s.orderAt e a).finishWith e a bs)
        | .peer (.phys pa), none => if s.routed (e.core / 64) pa then refused s else s
        | .ready (.phys pa), none => if isHost pa && e.kind.atomic then refused s else s
        | .exported _ _ (.phys pa), none => if isHost pa && e.kind.atomic then (refused s).raisePrefix (e.core / 64) else s
        | _, _ => s)

end Sys2Proof.Machine
end

