-- ==== Sys2Proof/Machine/Binary.lean ====
section
/-! DEFINITION. Reading a graph binary (R405 to R408, R418). -/

namespace Sys2Proof.Machine

/-- Bits `lo` to `lo + n - 1` of a number. -/
def bitsOf (x lo n : Nat) : Nat := x / 2 ^ lo % 2 ^ n

/-- The number in `n` bytes of a list from an offset. -/
def numAt (bs : List Byte) (off n : Nat) : Nat := ofBytes ((bs.drop off).take n)

/-- Bytes of an entry of each section kind (R405); CODE counts bytes. -/
def entryBytes : Nat → Nat
  | 1 => 1
  | 2 => 32
  | 3 => 320
  | 4 => 8
  | 5 => 32
  | 6 => 32
  | 7 => 8
  | 8 => 4
  | 9 => 4
  | 10 => 64
  | _ => 0

/-- Kind, count and offset of a section. -/
structure BinSection where
  kind : Nat
  count : Nat
  off : Nat
  deriving DecidableEq, Repr, Inhabited

/-- The section descriptors of a binary (R405). -/
def sectionsOf (bs : List Byte) : List BinSection :=
  (List.range (numAt bs 6 2)).map fun i =>
    let d := numAt bs (64 + 16 * i) 16
    ⟨bitsOf d 0 8, bitsOf d 32 32, bitsOf d 64 64⟩

/-- R405: the header and descriptors within their limits; the length is also that of the ring entry (R404). -/
def headerOk (bs : List Byte) (length : Nat) : Bool :=
  let secs := sectionsOf bs
  decide (64 ≤ bs.length) && numAt bs 0 4 == 0x01424747 && numAt bs 4 2 == 1 && numAt bs 8 8 == length &&
    numAt bs 16 48 == 0 && bs.length == length && decide (64 + 16 * secs.length ≤ length) &&
    (secs.all fun k => decide (1 ≤ k.kind) && decide (k.kind ≤ 10) &&
      decide (k.off + k.count * entryBytes k.kind ≤ length) && secs.countP (fun j => j.kind == k.kind) == 1)

/-- Entries of a section as numbers; none for a section that does not appear. -/
def entriesOf (bs : List Byte) (kind : Nat) : List Nat :=
  match (sectionsOf bs).find? fun k => k.kind == kind with
  | none => []
  | some k => (List.range k.count).map fun i => numAt bs (k.off + entryBytes kind * i) (entryBytes kind)

/-- Bytes of the CODE section. -/
def codeBytes (bs : List Byte) : Nat := (((sectionsOf bs).find? fun k => k.kind == 1).map BinSection.count).getD 0

/-- R406, R407: a kernel entry of the KERNELS section. -/
def kernelOk (code e : Nat) : Bool :=
  let w := BitVec.ofNat 256 e
  let n := Needs.ofWord w
  let off := bitsOf e 0 32
  needsOk w && n.spadb % 128 == 0 && off % 8 == 0 && decide (32 ≤ off) && decide (off + n.codelen + n.tablen ≤ code)

def nodeOf (e : Nat) : Node :=
  let d := bitsOf e 2048 512
  { record := BitVec.ofNat 2048 e
    kernel := bitsOf d 0 16
    inputs := (List.range (bitsOf d 16 16)).map fun q => bitsOf d (64 + 16 * q) 16 }

/-- R405: a node descriptor. -/
def nodeOk (kernels blocks e : Nat) : Bool :=
  let d := bitsOf e 2048 512
  let n := bitsOf d 16 16
  decide (n ≤ 8) && decide (bitsOf d 0 16 < kernels) && bitsOf d 32 32 == 0 && d / 2 ^ (64 + 16 * n) == 0 &&
    (nodeOf e).inputs.all fun b => decide (b < blocks)

def poolOf (e : Nat) : Pool := ⟨BitVec.ofNat 64 e, bitsOf e 64 64, bitsOf e 128 64, bitsOf e 192 2⟩

def blockOf (e : Nat) : DataBlock :=
  { offset := bitsOf e 0 64, size := bitsOf e 64 64, pool := bitsOf e 128 16, producer := bitsOf e 144 16,
    lastUse := bitsOf e 160 16, evict := bitsOf e 176 1 == 1, own := bitsOf e 178 2, privLines := bitsOf e 192 32 }

/-- R408: a block entry. -/
def blockOk (pools e : Nat) : Bool :=
  bitsOf e 178 2 != 3 && bitsOf e 177 1 == 0 && bitsOf e 180 12 == 0 && bitsOf e 224 32 == 0 &&
    decide (bitsOf e 128 16 < pools)

def ticketClassOf (e : Nat) : TicketClass :=
  { fwdFirst := bitsOf e 128 16, fwdLast := bitsOf e 144 16, bwdFirst := bitsOf e 160 16, bwdLast := bitsOf e 176 16,
    update := bitsOf e 192 16, inBlock := bitsOf e 208 16, eta := BitVec.ofNat 32 (bitsOf e 224 32),
    lambda := (List.range 8).map fun d => BitVec.ofNat 32 (bitsOf e (256 + 32 * d) 32) }

/-- R418: a ticket class, whose ranges and update node stand in the order in which they run (log 15). -/
def ticketClassOk (nodes : List Node) (blocks e : Nat) : Bool :=
  let k := ticketClassOf e
  let finite (w : Word32) : Bool := bitsOf w.toNat 23 8 != 255
  bitsOf e 0 128 == 0 && decide (k.fwdFirst ≤ k.fwdLast) && decide (k.bwdFirst ≤ k.bwdLast) &&
    decide (k.fwdLast < k.bwdFirst) && decide (k.bwdLast < k.update) && decide (k.update < nodes.length) && decide (k.inBlock < blocks) &&
    ((List.range (k.fwdLast + 1 - k.fwdFirst)).all fun i =>
      (nth nodes (k.fwdFirst + i)).record.getLsbD 352) && finite k.eta && k.lambda.all finite

/-- A graph binary from its bytes, none where it breaks R405 to R408 or R418. -/
def readBinary (fe : Nat) (graph : BitVec 32) (base : Word64) (bs : List Byte) (length : Nat) : Option Binary :=
  if !headerOk bs length then none
  else
    let kernels := entriesOf bs 2
    let nodes := entriesOf bs 3
    let pools := entriesOf bs 5
    let blocks := entriesOf bs 6
    let curves := entriesOf bs 8
    let bmaps := entriesOf bs 9
    let classes := entriesOf bs 10
    let ns := nodes.map nodeOf
    if (kernels.all fun e => kernelOk (codeBytes bs) e) && (nodes.all fun e => nodeOk kernels.length blocks.length e) &&
      (pools.all fun e => bitsOf e 192 2 != 3 && bitsOf e 194 62 == 0) && (blocks.all fun e => blockOk pools.length e) &&
      ((curves ++ bmaps).all fun i => decide (i < blocks.length)) && (classes.all fun e => ticketClassOk ns blocks.length e)
    then some
      { fe := fe, graphId := graph, base := base, kernels := kernels.length, nodes := ns
        edges := (entriesOf bs 4).map fun e => (bitsOf e 0 32, bitsOf e 32 32)
        pools := pools.map poolOf, blocks := blocks.map blockOf, curves := curves, bmaps := bmaps
        classes := classes.map ticketClassOf }
    else none

/-- The launch record of a node. -/
def Binary.recordOf (b : Binary) (n : Nat) : Launch := Launch.ofBytes (bytesOf 256 (nth b.nodes n).record.toNat)

/-- Addresses of the curve blocks and branch maps (R120, R405). -/
def Binary.curveAddrs (b : Binary) : List Word64 := b.curves.map fun i => BitVec.ofNat 64 (b.blockAt i)
def Binary.bmapAddrs (b : Binary) : List Word64 := b.bmaps.map fun i => BitVec.ofNat 64 (b.blockAt i)

end Sys2Proof.Machine
end

