-- ==== Sys2Proof/Machine/FrontEnd.lean ====
section
/-! DEFINITION. The command front ends: rings, records, the range of clusters (R399 to R404, R417). -/

namespace Sys2Proof.Machine

/-! ## Records (R402, R403) -/

def powerOfTwo (n : Nat) : Bool := n != 0 && n &&& (n - 1) == 0

/-- R403: RECCTL.SIZE in range. -/
def FrontEnd.recSizeOk (f : FrontEnd) : Bool :=
  powerOfTwo f.recSize.toNat && decide (4 ≤ f.recSize.toNat) && decide (f.recSize.toNat ≤ 32768)

/-- R403: the record ring is full, or counts as full. -/
def FrontEnd.recFull (f : FrontEnd) : Bool :=
  !f.recSizeOk || f.recRefused ||
    (f.recWr.toNat + 2 ^ 32 - f.recRd.toNat) % (2 * f.recSize.toNat) == f.recSize.toNat

/-- R403: no further record may wait inside the front end. -/
def FrontEnd.recBlocked (f : FrontEnd) : Bool := decide (64 ≤ f.pending.length)

/-- Global address of the next record (R402). -/
def FrontEnd.recAt (f : FrontEnd) : Nat := f.recBase.toNat + 32 * (f.recWr.toNat % f.recSize.toNat)

/-- Whether the record ring counts as full: it is, or its next page has been found not present (R403). -/
def State.recFull (s : State) (fe : Nat) : Bool :=
  let f := s.fe fe
  f.recFull || (!f.pending.isEmpty && (s.die (feDie fe)).waiting.any fun k =>
    k.1 == ⟨f.pasid, pageOf f.recAt, true, fe, 0, .frontEnd⟩)

/-- Whether the next record can be written, or its page asked for. -/
def State.recordDue (s : State) (fe : Nat) : Bool :=
  let f := s.fe fe
  !f.pending.isEmpty && !f.recFull &&
    (s.walkReady (feDie fe) fe 0 f.recAt true .frontEnd || s.walkRefused (feDie fe) fe 0 f.recAt true .frontEnd)

/-- RECORD_POST: the oldest waiting record is written and RECWR advances; a missing page is asked for, and a refused
one counts as a full ring (R403). -/
def execRecordPost (fe : Nat) (s : State) : Result :=
  let f := s.fe fe
  .next (match f.pending with
    | [] => s
    | r :: rest =>
      if f.recFull then s
      else if s.walkRefused (feDie fe) fe 0 f.recAt true .frontEnd then
        (s.dropRefused (feDie fe) fe .frontEnd).modFe fe fun f => { f with stopped := true, recRefused := true }
      else
        match s.walkWrite (feDie fe) fe 0 f.recAt (bytesOf 32 r.toNat) with
        | (false, s) => s
        | (true, s) => s.modFe fe fun f =>
            { f with pending := rest, recWr := BitVec.ofNat 32 ((f.recWr.toNat + 1) % (2 * f.recSize.toNat)) })

/-- RECRD_WRITE (R403). -/
def execRecrdWrite (fe : Nat) (value : BitVec 32) (s : State) : Result :=
  .next (s.modFe fe fun f => { f with recRd := value })

/-- RECBASE_WRITE: a new base ends a refusal of the ring's page; a new size may bring the ring into range (R403). -/
def execRecbaseWrite (fe : Nat) (base : Option Word64) (size : Option (BitVec 16)) (s : State) : Result :=
  .next (s.modFe fe fun f =>
    let f := match base with
      | some b => { f with recBase := b &&& 0x00FFFFFFFFFFFF80, recRefused := false }
      | none => f
    match size with
    | some n => { f with recSize := n, sized := true }
    | none => f)

/-! ## The command ring (R400, R401) -/

/-- R401: the ring is rejected. -/
def State.rejectRing (s : State) (fe which : Nat) (value : Word64) : State :=
  (s.modFe fe fun f => { f with stopped := true, halted := true }).post fe (malformedRing value which)

/-- RINGWR_DOORBELL: a value that R401 refuses is not kept (log 14). -/
def execRingwrDoorbell (fe : Nat) (w : BitVec 32) (s : State) : Result :=
  let f := s.fe fe
  let n := f.ringSize.toNat
  .next (if f.ringEn && (decide (2 * n ≤ w.toNat) || decide (n < (w.toNat + 2 ^ 32 - f.ringRd.toNat) % (2 * n))) then
      s.rejectRing fe 3 (w.setWidth 64)
    else s.modFe fe fun f => { f with ringWr := w })

/-- RINGCTL_ENABLE: a write of RINGCTL; EN written 1 is checked, and from 0 to 1 the front end takes entries again. -/
def execRingctlEnable (fe : Nat) (value : BitVec 32) (s : State) : Result :=
  let f := s.fe fe
  let en := value.getLsbD 31
  let size : BitVec 17 := value.extractLsb' 0 17
  let s := s.modFe fe fun f => { f with ringEn := en, ringSize := size }
  .next (if !en then s
    else if !powerOfTwo size.toNat || decide (65536 < size.toNat) then s.rejectRing fe 0 (size.setWidth 64)
    else if !isGlobal f.ringBase.toNat || decide (2 ^ 56 ≤ f.ringBase.toNat) then s.rejectRing fe 1 f.ringBase
    else if f.ringEn then s else s.modFe fe fun f => { f with halted := false })

/-- FESTAT_STOPPED_CLEAR (R401). -/
def execFestatStoppedClear (fe : Nat) (s : State) : Result := .next (s.modFe fe fun f => { f with stopped := false })

/-- Whether a migration keeps the front end from its ring (R454). -/
def MigState.still : MigState → Bool
  | .idle | .resumed | .aborted => false
  | _ => true

/-- R400, R401, R403, R462: whether the front end takes an entry. -/
def State.entryDue (s : State) (fe : Nat) : Bool :=
  let f := s.fe fe
  s.ready && f.ringEn && !f.halted && !s.recFull fe && !f.migState.still && f.ringSize != 0 &&
    (f.ringWr.toNat + 2 ^ 32 - f.ringRd.toNat) % (2 * f.ringSize.toNat) != 0

/-- Index and global address of the next entry (R400). -/
def FrontEnd.entryIndex (f : FrontEnd) : Nat := f.ringRd.toNat % f.ringSize.toNat
def FrontEnd.entryAt (f : FrontEnd) : Nat := f.ringBase.toNat + 256 * f.entryIndex

/-- R400: the entry is consumed. -/
def State.consume (s : State) (fe : Nat) : State :=
  s.modFe fe fun f => { f with ringRd := BitVec.ofNat 32 ((f.ringRd.toNat + 1) % (2 * f.ringSize.toNat)) }

/-- A malformed-launch record for a ring entry, which is consumed. -/
def State.badEntry (s : State) (fe index code : Nat) : State :=
  ((s.dropRefused (feDie fe) fe .frontEnd).post fe (malformedLaunch (BitVec.ofNat 64 index) 0 code)).consume fe

/-- R467: no load of a grid returns a copy of host or CXL memory filled before its entry was read. -/
def State.forgetHost (s : State) : State :=
  { s with cores := s.cores.map fun c => { c with rcache := c.rcache.filter fun r => !isHost (128 * r.line) } }

/-- A launch record on the ring (R404, R407). -/
def State.takeLaunch (s : State) (fe index : Nat) (bs : List Byte) : State :=
  let r := Launch.ofBytes bs
  match s.validate fe .frontEnd r true 0 0 with
  | .noPage p => s.askPage (feDie fe) fe 0 p
  | .malformed code => (s.readKernel fe .frontEnd r).badEntry fe index code
  | .fine n =>
    (((s.readKernel fe .frontEnd r).addGrid fe (r.cap (s.fe fe).ceiling) n (.ring index) [] [] none).2.consume fe).forgetHost

/-- A new submission of a binary (R404, R409). -/
def Submission.start (fe bin index first count : Nat) : Submission where
  fe := fe
  bin := bin
  ringIndex := index
  first := first
  count := count
  launched := 0
  grids := []
  retiredNodes := []
  live := []
  evicted := []
  replays := []
  pins := []
  issueLog := []
  logAt := []
  redemption := none
  started := false
  finished := false
  failed := false
  failNode := 0

/-- R409: the range of a submission. -/
def rangeOf (nodes first count : Nat) : Option Nat :=
  if nodes ≤ first then none
  else
    let n := if count = 0 then nodes - first else count
    if nodes < first + n then none else some n

/-- A graph submission (R404). A submission word with a reserved bit set, no graph id or a misaligned address is
malformed; the spec gives no check code for these, so it is free between 0 and 3 (log 12). -/
def State.takeSubmission (s : State) (fe index : Nat) (bs : List Byte) : State :=
  let w := ofBytes bs
  let addr := bitsOf w 0 56
  let len := bitsOf w 64 64
  let graph := BitVec.ofNat 32 (bitsOf w 128 32)
  if bitsOf w 224 1824 ≠ 0 ∨ graph = 0 ∨ addr % 4096 ≠ 0 then
    { s.badEntry fe index (3 * (Config.pick s.freeCtr % 2)) with freeCtr := s.freeCtr + 1 }
  else
    match s.get (feDie fe) fe .frontEnd addr len with
    | .error p => if s.pageRefused (feDie fe) fe 0 p then s.badEntry fe index 3 else s.askPage (feDie fe) fe 0 p
    | .ok (data, s) =>
      match readBinary fe graph (BitVec.ofNat 64 addr) data len with
      | none => s.badEntry fe index 3
      | some b =>
        match rangeOf b.nodes.length (bitsOf w 160 32) (bitsOf w 192 32) with
        | none => s.badEntry fe index 3
        | some n =>
          let k := s.bins.length
          let u := Submission.start fe k index (bitsOf w 160 32) n
          ({ (s.consume fe).forgetHost with bins := s.bins ++ [b], subs := s.subs ++ [u] }).modFe fe fun f =>
            { f with binaries := f.binaries ++ [k] }

/-- RING_ENTRY_TAKEN: the next entry is read and acted on (R400, R404); a refused page rejects the ring (R401). -/
def execRingEntryTaken (fe : Nat) (s : State) : Result :=
  let f := s.fe fe
  .next (if !s.entryDue fe then s
    else
      match s.get (feDie fe) fe .frontEnd f.entryAt 256 with
      | .error p =>
        if s.pageRefused (feDie fe) fe 0 p then
          (s.dropRefused (feDie fe) fe .frontEnd).rejectRing fe 2 (BitVec.ofNat 64 f.entryAt)
        else s.askPage (feDie fe) fe 0 p
      | .ok (bs, s) =>
        match (numAt bs 7 1) with
        | 0 => s.takeLaunch fe f.entryIndex bs
        | 1 => s.takeSubmission fe f.entryIndex bs
        | _ => s.badEntry fe f.entryIndex 0)

/-! ## The range of clusters (R399, R417) -/

/-- Clusters of a front end's range. -/
def FrontEnd.clusters (f : FrontEnd) : List Nat :=
  let lo := (f.part.extractLsb' 0 6).toNat
  let hi := (f.part.extractLsb' 8 6).toNat
  (List.range 64).filter fun c => decide (lo ≤ c) && decide (c ≤ hi)

/-- PART_WRITE (R417): clusters that leave the range drain, and ones that come back are released. -/
def execPartWrite (fe : Nat) (value : Word64) (s : State) : Result :=
  let old := (s.fe fe).clusters
  let s := s.modFe fe fun f => { f with part := value &&& 0x007FFFFFFFFF3F3F }
  let new := (s.fe fe).clusters
  .next (s.modFe fe fun f =>
    let gone := (f.removed ++ old.filter fun c => !new.contains c).eraseDups.filter fun c => !new.contains c
    { f with removed := gone, shrinking := f.shrinking || !gone.isEmpty, cut := f.cut || !gone.isEmpty })

/-- Whether a team of the front end stands on a removed cluster. -/
def State.rangeBusy (s : State) (fe : Nat) : Bool :=
  s.teams.any fun tm => tm.status == .resident && (s.grid tm.grid).fe == fe &&
    (s.fe fe).removed.contains (tm.core / Config.coresPerCluster)

/-- RANGE_SHRINK_COMPLETE (R417): every removed cluster is empty, and a range-changed record follows. -/
def execRangeShrinkComplete (fe : Nat) (s : State) : Result :=
  let f := s.fe fe
  .next (if !f.shrinking || s.rangeBusy fe || f.recBlocked then s
    else (s.modFe fe fun f => { f with shrinking := false, removed := [] }).post fe
      (rangeChanged (f.part.extractLsb' 8 6).toNat))

/-- FESTAT (R399). RFULL reads 0 after a reset, although SIZE is 0 then; a SIZE out of range that the driver writes counts as
a full ring (R403, log 62). -/
def State.festat (s : State) (fe : Nat) : BitVec 32 :=
  let f := s.fe fe
  (0 : BitVec 28) ++ bit1 f.shrinking ++ bit1 ((f.sized || f.recSizeOk) && s.recFull fe) ++ bit1 f.stopped ++ (0 : BitVec 1)

end Sys2Proof.Machine
end

