-- ==== Sys2Proof/Machine/Issue.lean ====
section
/-! DEFINITION. Selection of a bundle, issue of clause headers and instructions, and the issue cycle of a core
(R48, R65 to R67, R75 to R78, R206). -/

namespace Sys2Proof.Machine

/-! ## Runs (R75) -/

/-- Add a lane at an address to runs in ascending order of address. -/
def addRun (runs : List (Word64 × Mask)) (p : Word64) (m : Mask) : List (Word64 × Mask) :=
  match runs with
  | [] => [(p, m)]
  | (q, k) :: r =>
    if p = q then (q, k ||| m) :: r
    else if p.toNat < q.toNat then (p, m) :: (q, k) :: r
    else (q, k) :: addRun r p m

/-- The runs of a crew: all active threads that share one PC, in ascending PC. -/
def Crew.runs (cr : Crew) : List (Word64 × Mask) :=
  (lanesOf (cr.inState fun th => th.state == .active)).foldl (fun rs l => addRun rs (cr.th l).pc (laneBit l)) []

/-- Whether what the thread waits for beside its own header has come (R77, R199, R329, R342, R378). -/
def State.threadFree (s : State) (t c : Nat) (th : Thread) : Bool :=
  (th.awaits.all fun id => !((s.crew t c).outs.any fun o => o.id == id)) && s.waitOver t c th

/-- Whether a header traps when it issues (R25, R66, R329): the class and %tinfo. -/
def State.headerTrap (s : State) (t c : Nat) (h : Header) : Option (Nat × Word32) :=
  let r := (s.gridOf t).record
  if h.malformed then some (3, 1)
  else if h.rwait && (nth (s.team t).rings h.ring).stages == 0 then some (3, 1)
  else if h.rwait && (List.range r.crews).any fun k => r.role k == 3 then
    some (2, BitVec.ofNat 32 (256 * r.role c))
  else none

/-- R48: every WAIT bound and the ring condition of a header hold together. A thread that stands active at a join header is past
its join (R80). -/
def State.headerHolds (s : State) (t c : Nat) (h : Header) : Bool :=
  let cr := s.crew t c
  (s.headerTrap t c h).isSome ||
  (((List.range 8).all fun n => decide (cr.counter n ≤ h.bound n)) &&
    (!h.rwait || (nth (s.team t).rings h.ring).shows h.phase))

/-- Whether a run is ready (R75). -/
def State.runReady (s : State) (t c : Nat) (r : Word64 × Mask) : Bool :=
  let im := s.image t
  let cr := s.crew t c
  ((lanesOf r.2).all fun l => s.threadFree t c (cr.th l)) &&
  (im.inside r.1 || (im.marked r.1 && s.headerHolds t c (im.header r.1)))

def State.readyRuns (s : State) (t c : Nat) : List (Word64 × Mask) :=
  (s.crew t c).runs.filter fun r => s.runReady t c r

/-! ## Selection (R76, R206) -/

/-- The run chosen with the fairness count and PC that follow. -/
def Crew.choose (cr : Crew) (ready : List (Word64 × Mask)) : Option ((Word64 × Mask) × Nat × Word64) :=
  match ready with
  | [] => none
  | [r] => some (r, 0, cr.fpc)
  | r :: q :: rest =>
    if cr.fcount = 4 then
      let later := (q :: rest).filter fun k => decide (r.1.toNat < k.1.toNat) && decide (cr.fpc.toNat < k.1.toNat)
      let k := later.headD q
      some (k, 0, k.1)
    else some (r, cr.fcount + 1, cr.fpc)

/-- The selection after a yield (R206). -/
def Crew.chooseYield (cr : Crew) (ready : List (Word64 × Mask)) : Option (Word64 × Mask) :=
  match ready.find? fun r => r.2 &&& cr.yielding == 0 with
  | some r => some r
  | none => ready.head?

/-- Whether the die controller has stopped a core's intake, to load an image that a team on it waits for (R26). -/
def State.intakeStopped (s : State) (core : Nat) : Bool :=
  (s.core core).loading.any fun g =>
    (s.imageOn g core).isNone && s.teams.any fun tm => tm.status == .resident && tm.core == core && tm.grid == g

/-- Whether the crew may issue at all. -/
def State.issues? (s : State) (t c : Nat) : Bool :=
  let tm := s.team t
  let co := s.core tm.core
  tm.status == .resident && !tm.stop && !tm.saving && !co.halted && !co.failed && decide (c < tm.crews.length) &&
    !(s.crew t c).retired && s.imageHere t && !s.intakeStopped tm.core

/-- Lanes whose wait for child grids is over. -/
def Crew.childWaits (cr : Crew) (m : Mask) : Mask :=
  m &&& maskOf fun l => match (cr.th l).runWait with
    | some (.child _) => true
    | _ => false

/-- Lanes whose wait for a ring is over, with the ring. -/
def Crew.ringsOf (cr : Crew) (m : Mask) : List (Nat × Fin 16) :=
  (lanesOf m).filterMap fun l => match (cr.th l).runWait with
    | some (.ring r _) => some (l, r)
    | _ => none

/-- Whether the seals that a wait lifts are those of a copy or matrix operation, which happens before what follows (R340,
R356). -/
def Crew.covered (old cr : Crew) : Bool := old.seals.any fun k => (k.ctr == 2 || k.ctr == 3) && !cr.seals.contains k

/-- Make a ready run the bundle: its waits are over, and the lanes of R357 take their trap at the mwait. The end of a
wait.child is an acquire at .dev, and what a copy or matrix operation wrote happens before what follows the wait that covers
it, after which the read cache gives no older copy (R199, R284, R340, R356). -/
def State.takeRun (s : State) (t c : Nat) (m : Mask) : State :=
  let cr := s.crew t c
  let bad := cr.matrixTraps m
  let s := if cr.childWaits m = 0 ∧ (cr.ringsOf m).isEmpty ∧ !cr.covered (cr.liftWaits m) then s else s.dropLines (s.team t).core
  let s := ((cr.ringsOf m).foldl (fun s p => s.observeStage t c p.2 (laneBit p.1)) s).yieldEngine (s.team t).core t c
  let s := s.modCrew t c fun cr => { cr.endWaits (m &&& ~~~bad) with bundle := m, long := none, picked := true }
  s.mwaitTrap t c bad

/-- A selection point of a crew (R75, R76, R206). -/
def State.select (s : State) (t c : Nat) : State :=
  let cr := s.crew t c
  let ready := s.readyRuns t c
  if cr.yielding != 0 then
    match cr.chooseYield ready with
    | none => s
    | some r => (s.modCrew t c fun cr => { cr with yielding := 0 }).takeRun t c r.2
  else
    match cr.choose ready with
    | none => s
    | some (r, n, p) => (s.modCrew t c fun cr => { cr with fcount := n, fpc := p }).takeRun t c r.2

/-- SELECTION: has no effect on a crew that has a bundle or may not issue. -/
def execSelection (t c : Nat) (s : State) : Result :=
  .next (if s.issues? t c && (s.crew t c).bundle == 0 then s.select t c else s)

/-! ## Clause headers (R48, R66) -/

/-- The address that a bundle stands at. -/
def Crew.bundlePc (cr : Crew) : Word64 := (cr.th (lowestLane cr.bundle)).pc

/-- A bundle passes the header at `p`: its waits lift seals (R17), and it stands at the clause's first instruction. -/
def Crew.passHeader (cr : Crew) (h : Header) (p : Word64) : Crew :=
  { ((List.range 6).foldl (fun cr n => cr.lift n (h.bound n)) cr).modLanes cr.bundle fun _ th => { th with pc := p + 8 } with
    headed := some cr.seals }

/-- The first instruction of a clause does not issue in the cycle in which its header did, so that the bundle stands at the
header as before (R48). -/
def Crew.backToHeader (cr : Crew) : Crew :=
  match cr.headed with
  | none => cr
  | some seals =>
    { cr.modLanes cr.bundle fun _ th => { th with pc := th.pc - 8 } with seals := seals, headed := none }

/-- Issue a header whose conditions hold, or take its trap (R48, R66). What a copy or matrix operation wrote happens before what
follows a wait that covers it, or a ring wait (R340, R356). -/
def State.issueHeader (s : State) (t c : Nat) : State :=
  let cr := s.crew t c
  let p := cr.bundlePc
  let h := (s.image t).header p
  match s.headerTrap t c h with
  | some (cls, info) =>
    if s.effected t c cr.bundle then s.trap t c cls cr.bundle (fun _ => info) p else s
  | none =>
    let s := if h.rwait || cr.covered (cr.passHeader h p) then s.dropLines (s.team t).core else s
    let s := if h.rwait then s.observeStage t c (Fin.ofNat 16 h.ring) cr.bundle else s
    s.modCrew t c fun cr => cr.passHeader h p

/-- CLAUSE_HEADER_ISSUE: has no effect unless the crew's bundle stands at a header whose conditions hold. -/
def execClauseHeaderIssue (t c : Nat) (s : State) : Result :=
  let cr := s.crew t c
  let im := s.image t
  .next (if s.issues? t c && cr.bundle != 0 && im.marked cr.bundlePc && s.headerHolds t c (im.header cr.bundlePc)
    then s.issueHeader t c else s)

/-! ## Fetching an instruction -/

/-- What stands at a crew's issue. -/
inductive Fetch where
  | nothing
  | header
  | illegal
  | held
  | run (i : Instr)
  deriving Repr

/-- R66: the place of an instruction in its clause. -/
def Image.placed (im : Image) (pc : Word64) (inf : Info) : Bool :=
  let h := im.headerOf pc
  let last := (im.after pc).2
  if branchMajor inf.major then last else inf.cls == (im.header h).cls

/-- Whether an access of a crew waits at issue for a buffer entry (R295). -/
def State.stageWaits (s : State) (t c : Nat) : Bool :=
  s.log.any fun e => e.team == t && e.crew == c && e.lanes.any fun a => match a.status with
    | .stageWait _ _ => true
    | _ => false

/-- mfs and mts that name %fpflags or %fptrap (R162). -/
def namesFlags : Instr → Bool
  | .mfs _ _ .fpflags | .mfs _ _ .fptrap | .mts _ .fpflags _ | .mts _ .fptrap _ => true
  | _ => false

/-- Whether a floating-point instruction of a bundle's lanes has still to complete (R162). -/
def Crew.flagsOut (cr : Crew) : Bool := cr.outs.any fun o => o.fp &&& cr.bundle != 0

/-- The instruction at the crew's bundle: its word decoded (R59), its place checked (R66), the scoreboard asked
(R77, R162). A bundle whose task instruction has not returned issues nothing (R229), nor does one while an access of its crew waits
for a buffer entry (R295). -/
def State.fetch (s : State) (t c : Nat) : Fetch :=
  let cr := s.crew t c
  let im := s.image t
  let p := cr.bundlePc
  if cr.bundle = 0 then .nothing
  else if s.stageWaits t c || (lanesOf cr.bundle).any fun l => !s.threadFree t c (cr.th l) then .held
  else if im.marked p then .header
  else
    match decode ((im.word p).getD 0) with
    | .error _ => .illegal
    | .ok i =>
      match info i with
      | none => .illegal
      | some inf =>
        if !im.placed p inf then .illegal
        else if cr.long.isNone && (cr.held (inf.srcs ++ inf.dsts) || (namesFlags i && cr.flagsOut)) then .held
        else .run i

/-- The state in which an instruction of a crew is about to issue. -/
def State.enter (s : State) (t c : Nat) : State :=
  let p := (s.crew t c).bundlePc
  let im := s.image t
  { s with cur := some ⟨t, c, im.headerOf p, p, (im.word p).getD 0, false⟩ }

/-- Bit [63] of a word, the switch marker (R52). -/
def wordSw (w : Word64) : Bool := w.getLsbD 63

/-- The lanes left in a crew's bundle go on after the instruction at `pc`: to the next word or, past the clause, by
fall-through (R65); a switch marker releases the crew's issue (R77). A lane that has parked at the access itself is no longer in
the bundle and, once it is released, awaits no other result of that issue (the model's choice, log 20). -/
def State.advance (s : State) (t c : Nat) (pc word : Word64) : State :=
  let b := (s.crew t c).bundle
  if b = 0 then s
  else if wordSw word then
    (s.modCrew t c fun cr => { cr.modLanes b fun _ th => { th with awaits := cr.outs.map Outstanding.id } with
      bundle := 0 }).goOn t c b
  else
    let nx := (s.image t).after pc
    let s := s.modCrew t c fun cr => cr.modLanes b fun _ th => { th with pc := nx.1 }
    if nx.2 then s.reach t c b b else s

/-- A crew whose instruction cannot issue in this cycle was not eligible in it, unless it was at a selection point with a ready run
(R78), and has not passed its header (R48). -/
def State.notEligible (s : State) (t c : Nat) : State :=
  s.modCrew t c fun cr => { cr.backToHeader with age := if cr.picked then cr.age else 0 }

/-- What follows an instruction: a stall leaves the bundle where it is; else the crew has issued, and its bundle goes
on. -/
def State.finish (s : State) (t c : Nat) (x : Cur) : State :=
  let stalled := match s.cur with
    | some k => k.stalled
    | none => false
  let s := { s with cur := none }
  if (s.team t).status != .resident then s
  else if stalled then s.notEligible t c
  else (s.spend t c).advance t c x.pc x.word

/-! ## The issue cycle of a core (R78) -/

/-- Whether a crew may be eligible in this cycle; whether its instruction stalls at issue shows at its turn
(`State.notEligible`). -/
def State.eligible (s : State) (t c : Nat) : Bool :=
  s.issues? t c &&
  (match s.fetch t c with
   | .nothing => !(s.readyRuns t c).isEmpty
   | .header => s.headerHolds t c ((s.image t).header (s.crew t c).bundlePc)
   | .held => false
   | _ => true)

/-- Crews on a core, as (team, crew). -/
def State.crewsOn (s : State) (core : Nat) : List (Nat × Nat) :=
  (List.range s.teams.length).flatMap fun t =>
    let tm := s.team t
    if tm.core = core ∧ tm.status = .resident then (List.range tm.crews.length).map fun c => (t, c) else []

/-- Rank of an eligible crew in the cycle that begins, whose %cyc is one above the last, and what orders crews within a rank: least
recent issue, earlier placement, lower %crew. -/
def State.rank (s : State) (k : Nat × Nat) : List Nat :=
  let tm := s.team k.1
  let cr := s.crew k.1 k.2
  let r := (s.gridOf k.1).record
  let e := r.schedEntry (((s.core tm.core).cyc + 1).toNat % 16)
  let rk := if 32 ≤ cr.age then 0 else if e ≠ 3 ∧ r.role k.2 = e then 1 else 2
  [rk, cr.lastIssue, tm.placed, k.2]

def lexLe : List Nat → List Nat → Bool
  | a :: r, b :: q => if a = b then lexLe r q else decide (a < b)
  | _, _ => true

def insertRanked (x : List Nat × (Nat × Nat)) : List (List Nat × (Nat × Nat)) → List (List Nat × (Nat × Nat))
  | [] => [x]
  | y :: r => if lexLe x.1 y.1 then x :: y :: r else y :: insertRanked x r

/-- The falls and joins of every crew of a team. -/
def State.evalCrews (s : State) (t : Nat) : State :=
  (List.range (s.team t).crews.length).foldl (fun s c =>
    if (s.team t).status = .resident then (s.evalFalls t c).evalJoins t c else s) s

/-- Lanes that wait for the driver (R74, R231). -/
def Thread.waitsDriver (th : Thread) : Bool :=
  th.state == .parked && (th.parkWhy == .report || th.parkWhy == .breakpoint)

/-- The parked lanes of a resident team go on at their recorded addresses (R74, R231), once its core holds the image. -/
def State.resumeTeam (s : State) (t : Nat) : State :=
  let s := s.modTeam t fun tm => { tm with stop := false, resumed := !s.imageHere t }
  if !s.imageHere t then s
  else (List.range (s.team t).crews.length).foldl (fun s c =>
    let cr := s.crew t c
    let m := cr.inState Thread.waitsDriver
    if m = 0 then s else s.resume t c m fun l => (cr.th l).pc) s

/-- Lanes parked at an access that is complete: their core did not hold the image then. -/
def State.completedLanes (s : State) (t c : Nat) : Mask :=
  (s.crew t c).inState (fun th => th.state == .parked && (th.parkWhy == .presence || th.parkWhy == .pageFault)) &&&
    maskOf fun l => s.log.all fun e => e.team != t || e.crew != c ||
      e.lanes.all fun a => !a.parked || a.status == .done || !(e.lanesFor a.lane).getLsbD l

/-- Whether lanes of a restored team wait for nothing but the image (R231, R320). -/
def State.waitsImage (s : State) (t : Nat) : Bool :=
  (s.team t).resumed || (List.range (s.team t).crews.length).any fun c => s.completedLanes t c != 0

/-- They go on when the core holds it. -/
def State.imageCame (s : State) (t : Nat) : State :=
  let s := (List.range (s.team t).crews.length).foldl (fun s c =>
    let m := s.completedLanes t c
    if m = 0 then s else s.goOn t c m) s
  if (s.team t).resumed && (s.team t).status == .resident then s.resumeTeam t else s

/-- Take the traps that are due, and evaluate the barriers of the teams on a core at which crews have arrived, and the falls
and joins of their crews: accesses may have been performed (R65, R194, R229), lanes have entered a handler, or a mate is lost
(R80, R195). A team whose image has not been loaded waits for it. -/
def State.evalWaiting (s : State) (core : Nat) : State :=
  (List.range s.teams.length).foldl (fun s t =>
    let s := if (s.team t).core = core ∧ (s.team t).status = .resident then s.evalTraps t else s
    let here (s : State) : Bool :=
      decide ((s.team t).core = core) && (s.team t).status == .resident && !(s.team t).saving && s.imageHere t
    let s := if here s && s.waitsImage t then s.imageCame t else s
    let tm := s.team t
    if here s && !tm.stop then
      let s := if tm.bars.any Barrier.tset then
        ((((s.evalBar t 0).evalBar t 1).evalBar t 2).evalBar t 3).evalCohort t else s
      s.evalCrews t
    else s) s

/-- What a division or square root that is variable-latency leaves outstanding in some of its lanes, with the cycles that it takes
and whether it decides flags: a function of the operand values, within the ranges of R136 and R163; a bundle takes as long as the
slowest of its lanes (log 52). -/
def State.slowOf (s : State) (x : Issue) (i : Instr) (m : Mask) : Option (List Res × Nat × Mask) :=
  let span (major lo hi : Nat) (fp : Mask) (f : Nat → Nat × Nat) : Option (List Res × Nat × Mask) :=
    if m = 0 then none
    else some (x.inf.dsts, (lanesOf m).foldl (fun n l =>
      max n (lo + Config.slowCycles major (f l).1 (f l).2 % (hi + 1 - lo))) lo, fp)
  match i with
  | .idiv _ _ w _ a b => span 0x06 8 (if w then 48 else 24) 0 fun l => (s.bits x.t x.c w a l, s.bits x.t x.c w b l)
  | .irem _ _ w _ a b => span 0x07 8 (if w then 48 else 24) 0 fun l => (s.bits x.t x.c w a l, s.bits x.t x.c w b l)
  | .fdiv _ f64 _ _ a b =>
    span 0x26 (if f64 then 20 else 12) (if f64 then 40 else 20) m fun l => (s.bits x.t x.c f64 a l, s.bits x.t x.c f64 b l)
  | .fsqrt _ f64 _ _ a =>
    span 0x27 (if f64 then 20 else 12) (if f64 then 40 else 20) m fun l => (s.bits x.t x.c f64 a l, 0)
  | _ => none

/-- Whether the instruction that is issuing stalls (R48). -/
def State.stalls (s : State) : Bool :=
  match s.cur with
  | some x => x.stalled
  | none => false

/-- The result of an instruction that has issued stays outstanding for its cycles (R77). -/
def State.timed (s : State) (t c : Nat) (slow : Option (List Res × Nat × Mask)) : State :=
  match slow with
  | none => s
  | some (rs, n, fp) =>
    if s.stalls then s
    else
      let (id, s) := s.fresh
      s.modCrew t c fun cr => cr.awaitCycles id rs (n - 1) fp

/-- What an instruction that has issued leaves to what reads its results, in the lanes that it has not trapped: how long they are
outstanding, and what they have overwritten (R77, R135, R270); nothing where its trap has killed the team. -/
def State.issued (r s : State) (t c : Nat) (i : Instr) : State :=
  match s.issuing i with
  | none => r
  | some x =>
    if (r.team t).kills ≠ (s.team t).kills then r
    else (r.timed t c (s.slowOf x i (x.act &&& ~~~s.trapped r x))).noteStale s t c x.inf.dsts x.lanes

/-- CORE_ISSUE_CYCLE: the eligible crews in rank order may issue, eight in all. The cycle counts for the front end that
holds the core (R414). -/
def execCoreIssueCycle (core : Nat) (s : State) : Result :=
  let s := (s.retryFills (core / Config.coresPerDie)).evalWaiting core
  let crews := s.crewsOn core
  let s := crews.foldl (fun s k => s.modCrew k.1 k.2 Crew.passCycle) s
  let able := crews.filter fun k => s.eligible k.1 k.2
  let order := (able.map fun k => (s.rank k, k)).foldr insertRanked []
  let s := crews.foldl (fun s k => s.modCrew k.1 k.2 fun cr =>
    { cr with age := if able.contains k then cr.age + 1 else 0, picked := false }) s
  .next (if (s.core core).failed || (s.core core).halted then s
    else { s.modCore core fun c =>
        { c with cyc := c.cyc + 1, count := if c.holder.isSome then c.count + 1 else c.count } with
      slots := order.map Prod.snd
      budget := 8
      issues := s.issues + 1 })

/-! ## Cross-lane completion, traps, kills, retirement -/

/-- TRAP_TAKEN: a trap of a class in lanes of a crew, each at its own address, by the class's disposition. -/
def execTrapTaken (t c : Nat) (cls : Fin 14) (lanes : Mask) (tinfo : Word32) (s : State) : Result :=
  let s := s.stopLong t c
  let cr := s.crew t c
  .next (s.trapWith t c cls.val (lanes &&& cr.inState fun th => th.state == .active) (fun _ => tinfo)
    (fun l => (cr.th l).pc) {} none)

/-- TEAM_KILL (R235). -/
def execTeamKill (t c : Nat) (cls : Fin 14) (lanes : Mask) (pc : Word64) (tinfo : Word32) (s : State) : Result :=
  .next (s.killTeam t c cls.val lanes pc tinfo {} true none)

end Sys2Proof.Machine
end

