-- ==== Sys2Proof/Machine/CrewEvents.lean ====
section
/-! DEFINITION. The driver's resume and kill of a grid, the uncorrectable error, and the retirement of crews (R72, R231, R233,
R235, R238). -/

namespace Sys2Proof.Machine

/-- Apply `f` to every team of a grid. -/
def State.forTeams (s : State) (g : Nat) (f : State → Nat → State) : State :=
  (List.range s.teams.length).foldl (fun s t => if (s.team t).grid = g then f s t else s) s

/-- DRIVER_RESUME_GRID (R231): a saved team's lanes are resumed when it has been restored. -/
def execDriverResumeGrid (grid : Nat) (s : State) : Result :=
  .next (s.forTeams grid fun s t =>
    match (s.team t).status with
    | .resident => s.resumeTeam t
    | .saved => s.modTeam t fun tm => { tm with resumed := true }
    | _ => s)

/-- A team of a killed grid ends for good, unless it has ended already. -/
def State.killForGood (s : State) (t : Nat) : State :=
  let tm := s.team t
  if s.teamDone t then s
  else
    let was := if tm.status = .retired then 1 else 0
    (s.discardTeam t fun k => { k with status := .dead }).modGrid tm.grid fun g => { g with ended := g.ended + 1 - was }

/-- DRIVER_KILL_GRID (R238): every team of the grid ends, parked and handler lanes alike, and the grid fails. -/
def execDriverKillGrid (grid : Nat) (s : State) : Result :=
  .next (if (s.grid grid).retired then s
    else
      (s.forTeams grid State.killForGood).stopPlacing grid)

/-- Park a crew whole (R233): its active and its held threads; one parked already keeps what it waits for. -/
def Crew.parkWhole (cr : Crew) (info : Word32) : Crew :=
  let live := cr.inState fun th => th.state != .exited
  { cr.modLanes live fun _ th => { th with
      tcause := BitVec.ofNat 32 (12 + 32)
      tinfo := info
      late := false
      state := .parked
      parkWhy := if th.state = .parked then th.parkWhy else .report } with
    bundle := 0 }

/-- The records of a crew parked whole: one for its lanes in the handler, one for the others (R234, R236). -/
def State.wholeRecords (s : State) (t c : Nat) (info : Word32) : State :=
  let cr := s.crew t c
  let g := s.gridOf t
  let rcd (s : State) (m : Mask) (dbl : Bool) : State :=
    if m = 0 then s
    else s.post g.fe (trapRecord (cr.th (lowestLane m)).pc info (s.team t).index g.handle m c 12
      { imprecise := true, double := dbl })
  let inside := cr.inState fun th => th.state != .exited && th.inh
  let rest := cr.inState fun th => th.state != .exited && !th.inh
  rcd (rcd s inside true) rest false

/-- UNCORRECTABLE_ERROR (R233): issue stops in every crew, and the disposition applies to the whole team; the handler
disposition parks it. -/
def execUncorrectableError (team : Nat) (storage : Fin 4) (s : State) : Result :=
  let info := BitVec.ofNat 32 storage.val
  let crews := List.range (s.team team).crews.length
  .next (if (s.team team).status ≠ .resident then s
    else if (s.gridOf team).record.disposition 12 = 2 then
      let c := (crews.find? fun c => (s.crew team c).live).getD 0
      let cr := s.crew team c
      let m := cr.inState fun th => th.state != .exited
      s.killTeam team c 12 m (cr.th (lowestLane m)).pc info { imprecise := true } true none
    else
      let s := crews.foldl (fun s c => s.wholeRecords team c info) s
      (crews.foldl (fun s c => (s.stopLong team c).modCrew team c fun cr => cr.parkWhole info) s).modTeam team fun tm =>
        { tm with stop := true })

/-! ## Retirement of crews (R72) -/

/-- Whether a crew retires: every thread has exited and w0 to w4 are zero. -/
def State.crewOver (s : State) (t c : Nat) : Bool :=
  let cr := s.crew t c
  (s.team t).status == .resident && decide (c < (s.team t).crews.length) && !cr.retired && !cr.live &&
    (List.range 5).all fun n => cr.counter n == 0

/-- CREW_RETIRE (R72, R193). -/
def execCrewRetire (team crew : Nat) (s : State) : Result :=
  .next (if s.crewOver team crew then (s.modCrew team crew fun cr => { cr with retired := true }).evalBarriers team
    else s)

/-- The team whose scratchpad window an access reaches. -/
def State.padOwner (s : State) (e : LogEntry) (a : LaneAcc) : Option Nat :=
  match decodeAddr a.addr.toNat with
  | .ok (.own _) => some e.team
  | .ok (.peer r _) => s.mate e.team r
  | _ => none

end Sys2Proof.Machine
end

