-- ==== Sys2Proof/Machine/Tickets.lean ====
section
/-! DEFINITION. Claim tickets and weight versions: the ticket table, the input store, version regions, and the task
instructions (R418 to R432, R435). -/

namespace Sys2Proof.Machine

/-- Put a field of `n` bits at bit `lo` of a number. -/
def setBits (x lo n v : Nat) : Nat := x - bitsOf x lo n * 2 ^ lo + v % 2 ^ n * 2 ^ lo

/-! ## Version regions (R423, R424, R432) -/

/-- The header of a version region as a number. -/
def State.versionHead (s : State) (die fe : Nat) (us : PageUser) (vr : Nat) : Except NoPage (Nat × State) := s.getNat die fe us vr 64

def curOf (h : Nat) : Nat := bitsOf h 0 32
def draftOf (h : Nat) : Nat := bitsOf h 32 32
def oldestOf (h : Nat) : Nat := bitsOf h 64 32
def granulesOf (h : Nat) : Nat := bitsOf h 96 24
def poolCount (h : Nat) : Nat := bitsOf h 120 24
def poolBase (h : Nat) : Nat := bitsOf h 144 56
def freeMap (h : Nat) : Nat := bitsOf h 200 56
def pinsOf (h v : Nat) : Nat := bitsOf h (256 + 16 * (v % 9)) 16

/-- Address of the pointer table of a version (R424). -/
def tableAt (vr h v : Nat) : Nat := vr + 4096 + 8 * granulesOf h * (v % 9)

/-- Entry `g` of a version's pointer table. -/
def State.granule (s : State) (die fe : Nat) (us : PageUser) (vr h v g : Nat) : Except NoPage (Nat × State) :=
  s.getNat die fe us (tableAt vr h v + 8 * g) 8

/-- The pool slot that an address names, if it does (R432). -/
def slotAt (h a : Nat) : Option Nat :=
  let p := (a - poolBase h) / 65536
  if poolBase h ≤ a ∧ (a - poolBase h) % 65536 = 0 ∧ p < poolCount h then some p else none

/-- Set or clear the bit of a pool slot in the free map. -/
def State.markSlot (s : State) (die fe : Nat) (us : PageUser) (h p : Nat) (free : Bool) : Except NoPage State := do
  let (b, s) ← s.getNat die fe us (freeMap h + p / 8) 1
  s.put die fe us (freeMap h + p / 8) [BitVec.ofNat 8 (setBits b (p % 8) 1 (if free then 1 else 0))]

/-- Free every pool slot of version `a`'s table that version `b`'s does not share (R432). -/
def State.freeSlots (s : State) (die fe : Nat) (us : PageUser) (vr h a b : Nat) : Except NoPage State :=
  (List.range (granulesOf h)).foldlM (fun s g => do
    let (x, s) ← s.granule die fe us vr h a g
    let (y, s) ← s.granule die fe us vr h b g
    match slotAt h x with
    | some p => if x = y then return s else s.markSlot die fe us h p true
    | none => return s) s

/-- The lowest free pool slot. -/
def State.freeSlot (s : State) (die fe : Nat) (us : PageUser) (h : Nat) : Except NoPage (Option Nat × State) := do
  let (bs, s) ← s.get die fe us (freeMap h) ((poolCount h + 7) / 8)
  return ((List.range (poolCount h)).find? fun p => (bs.getD (p / 8) 0).getLsbD (p % 8), s)

def State.putHead (s : State) (die fe : Nat) (us : PageUser) (vr h : Nat) : Except NoPage State := s.put die fe us vr (bytesOf 64 h)

/-- wvcommit.open (R432): status and state after. -/
def State.openDraft (s : State) (die fe : Nat) (us : PageUser) (vr : Nat) : Except NoPage (Nat × State) := do
  let (h, s) ← s.versionHead die fe us vr
  if draftOf h ≠ 0 then return (2, s)
  else if curOf h = 2 ^ 32 - 1 then return (3, s)
  else
    let (tab, s) ← s.get die fe us (tableAt vr h (curOf h)) (8 * granulesOf h)
    let s ← s.put die fe us (tableAt vr h (curOf h + 1)) tab
    let s ← s.putHead die fe us vr (setBits h 32 32 (curOf h + 1))
    return (0, s)

/-- wvcommit.cow (R432). -/
def State.cowGranule (s : State) (die fe : Nat) (us : PageUser) (vr g : Nat) : Except NoPage (Nat × State) := do
  let (h, s) ← s.versionHead die fe us vr
  if draftOf h = 0 then return (1, s)
  else if granulesOf h ≤ g then return (4, s)
  else
    let (old, s) ← s.granule die fe us vr h (curOf h) g
    let (now, s) ← s.granule die fe us vr h (draftOf h) g
    if now ≠ old then return (0, s)
    else
      match ← s.freeSlot die fe us h with
      | (none, s) => return (5, s)
      | (some p, s) =>
        let (data, s) ← s.get die fe us old 65536
        let s ← s.markSlot die fe us h p false
        let s ← s.put die fe us (poolBase h + 65536 * p) data
        let s ← s.put die fe us (tableAt vr h (draftOf h) + 8 * g) (bytesOf 8 (poolBase h + 65536 * p))
        return (0, s)

/-- wvcommit.fin (R432). -/
def State.finDraft (s : State) (die fe : Nat) (us : PageUser) (vr : Nat) : Except NoPage (Nat × State) := do
  let (h, s) ← s.versionHead die fe us vr
  if draftOf h = 0 then return (1, s)
  else if curOf h + 1 - oldestOf h < 8 then
    let s ← s.putHead die fe us vr (setBits (setBits h 0 32 (draftOf h)) 32 32 0)
    return (0, s)
  else if pinsOf h (oldestOf h) ≠ 0 then return (2, s)
  else
    let s ← s.freeSlots die fe us vr h (oldestOf h) (oldestOf h + 1)
    let s ← s.putHead die fe us vr (setBits (setBits (setBits h 0 32 (draftOf h)) 32 32 0) 64 32 (oldestOf h + 1))
    return (0, s)

/-- wvcommit.drop (R432). -/
def State.dropDraft (s : State) (die fe : Nat) (us : PageUser) (vr : Nat) : Except NoPage (Nat × State) := do
  let (h, s) ← s.versionHead die fe us vr
  if draftOf h = 0 then return (1, s)
  else
    let s ← s.freeSlots die fe us vr h (draftOf h) (curOf h)
    let s ← s.putHead die fe us vr (setBits h 32 32 0)
    return (0, s)

/-- Raise or lower the pin count of a version (R425, R430). -/
def State.pinVersion (s : State) (die fe : Nat) (us : PageUser) (vr v : Nat) (up : Bool) : Except NoPage State := do
  let (h, s) ← s.versionHead die fe us vr
  s.putHead die fe us vr (setBits h (256 + 16 * (v % 9)) 16 (if up then pinsOf h v + 1 else pinsOf h v - 1))

/-! ## The ticket table (R420, R421) -/

/-- CRC-32C of bytes (R421, R445). -/
def crcStep (c : BitVec 32) (b : Byte) : BitVec 32 :=
  (List.range 8).foldl (fun c _ => if c.getLsbD 0 then (c >>> 1) ^^^ 0x82F63B78 else c >>> 1) (c ^^^ b.setWidth 32)

def crc32c (bs : List Byte) : BitVec 32 := ~~~(bs.foldl crcStep (BitVec.allOnes 32))

/-- Address of the slot of a ticket id. -/
def ticketAt (table head n : Nat) : Nat := table + 64 + 64 * (n % 2 ^ bitsOf head 0 5)

def stateOf (t : Nat) : Nat := bitsOf t 0 3
def ticketVersion (t : Nat) : Nat := bitsOf t 448 32

/-- R421: whether a slot is valid for an id. -/
def ticketValid (t n : Nat) : Bool :=
  bitsOf t 16 48 == n && bitsOf t 480 32 == (crc32c (bytesOf 60 t)).toNat && decide (1 ≤ stateOf t) &&
    decide (stateOf t ≤ 4)

/-- R421: CHECK is rewritten with every change. -/
def sealTicket (t : Nat) : Nat := setBits t 480 32 (crc32c (bytesOf 60 t)).toNat

def State.putTicket (s : State) (die fe : Nat) (us : PageUser) (a t : Nat) : Except NoPage State := s.put die fe us a (bytesOf 64 (sealTicket t))

/-! ## The input record (R422) -/

/-- Lines of a block, the last one completed with zero bytes. -/
def blockLines (bs : List Byte) (n : Nat) : List (List Byte) :=
  (List.range ((n + 127) / 128)).map fun i =>
    let l := (bs.drop (128 * i)).take 128
    l ++ List.replicate (128 - l.length) 0

/-- Pad to a multiple of 128 bytes. -/
def padLine (bs : List Byte) : List Byte := bs ++ List.replicate ((128 - bs.length % 128) % 128) 0

/-- The mask of the lines that hold a nonzero byte, then those lines. -/
def inputRecord (lines : List (List Byte)) : List Byte :=
  let used (i : Nat) : Bool := (nth lines i).any (· != 0)
  let mask := (List.range ((lines.length + 7) / 8)).map fun k =>
    (List.range 8).foldl (fun (b : Byte) i => if used (8 * k + i) then b ||| ((1 : Byte) <<< i) else b) 0
  padLine mask ++ (lines.filter fun l => l.any (· != 0)).flatten

/-- A block from its record: `l` lines of which `n` bytes are the block's own. -/
def expandRecord (mask : List Byte) (stored : List Byte) (l i : Nat) : List Byte :=
  match l with
  | 0 => []
  | l + 1 =>
    if (mask.getD (i / 8) 0).getLsbD (i % 8) then stored.take 128 ++ expandRecord mask (stored.drop 128) l (i + 1)
    else List.replicate 128 0 ++ expandRecord mask stored l (i + 1)

/-- Bytes of the mask of a record of `l` lines. -/
def maskBytes (l : Nat) : Nat := ((l + 7) / 8 + 127) / 128 * 128

/-! ## Actions -/

/-- The answer to a task instruction: a value for D, or the version-retired trap with the ticket's VERSION. -/
inductive TaskAnswer where
  | value (w : Nat)
  | retired (v : Nat)
  deriving DecidableEq, Repr

/-- The redemption whose forward range a grid replays (R428). -/
def State.redeems (s : State) (g : Nat) : Option Redemption :=
  match (s.grid g).origin with
  | .node u n =>
    match (s.sub u).redemption with
    | some r =>
      let k := nth (s.bin (s.sub u).bin).classes r.cls
      if k.fwdFirst ≤ n ∧ n ≤ k.fwdLast then some r else none
    | none => none
  | _ => none

/-- Whether a .recompute names a node: it produces an evictable block (R408, R475). -/
def Binary.recomputed (b : Binary) (n : Nat) : Bool := b.blocks.any fun k => k.evict && k.producer == n

/-- The results that a node's tkissues have returned (R429). -/
def Submission.results (u : Submission) (n : Nat) : List Word64 :=
  ((u.issueLog.find? fun p => p.1 == n).map Prod.snd).getD []

/-- Add a result to a node's issue log, which stops past 4,096 (R429). -/
def Submission.addResult (u : Submission) (n : Nat) (w : Word64) : Submission :=
  let l := u.results n
  { u with issueLog := (n, if l.length ≤ 4096 then l ++ [w] else l) :: u.issueLog.filter fun p => p.1 != n }

/-- The version of a region that a grid of a submission reads (R425). -/
def State.versionRead (s : State) (die fe : Nat) (us : PageUser) (u vr : Nat) : Except NoPage (Nat × State) :=
  match (s.sub u).pins.find? fun p => p.vregion.toNat == vr with
  | some p => .ok (p.version.toNat, s)
  | none => (s.versionHead die fe us vr).map fun p => (curOf p.1, p.2)

/-- A new ticket of the class (R428): the result, and the state with slot, record and header written. -/
def State.newTicket (s : State) (die fe : Nat) (us : PageUser) (g u cls : Nat) : Except NoPage (Nat × State) := do
  let gr := s.grid g
  let b := s.bin (s.sub u).bin
  let k := nth b.classes cls
  let table := gr.record.tkTable.toNat
  let (h, s) ← s.getNat die fe us table 64
  let n := bitsOf h 64 48
  let blk := nth b.blocks k.inBlock
  let (data, s) ← s.get die fe us (b.blockAt k.inBlock) blk.size
  let lines := blockLines data blk.size
  let record := inputRecord lines
  let size := bitsOf h 168 32
  let head := bitsOf h 200 32
  let tail := bitsOf h 232 32
  let skip := if size < head % size + record.length then size - head % size else 0
  if n = 2 ^ 48 - 1 ∨ size = 0 ∨ size < (head + 2 * size - tail % (2 * size)) % (2 * size) + record.length + skip then
    return (3 * 2 ^ 56, s)
  else
    let (slot, s) ← s.getNat die fe us (ticketAt table h n) 64
    if stateOf slot ≠ 0 then return (2 * 2 ^ 56, s)
    else
      let vr := gr.record.vregion.toNat
      let (v, s) ← if vr = 0 then .ok (0, s) else s.versionRead die fe us u vr
      let off := (head + skip) % (2 * size)
      let s ← s.put die fe us (bitsOf h 112 56 + off % size) record
      let keys := (List.range 4).foldl (fun a i => a + (gr.record.key i).toNat * 2 ^ (32 * i)) 0
      let draw := numAt gr.record.args 120 4
      let t := setBits (setBits (setBits (setBits (setBits 0 0 3 1) 16 48 n) 448 32 v) 288 128 keys) 416 32 draw
      let t := setBits (setBits (setBits t 192 32 b.graphId.toNat) 176 16 cls) 256 32 off
      let t := setBits (setBits (setBits t 160 16 k.fwdLast) 112 16 k.fwdFirst) 232 24 lines.length
      let s ← s.putTicket die fe us (ticketAt table h n) t
      let s ← s.put die fe us table (bytesOf 64 (setBits (setBits h 64 48 (n + 1)) 200 32 ((off + record.length) % (2 * size))))
      return (n, s)

/-- tkissue (R428); every result of a grid of a node that a .recompute names is logged, and a replay takes them from there (R429). -/
def State.issueTicket (s : State) (die fe : Nat) (us : PageUser) (t : Nat) (cls : Nat) : Except NoPage (Nat × State) := do
  let g := (s.team t).grid
  match (s.grid g).origin with
  | .node u n =>
    let b := s.bin (s.sub u).bin
    if (s.grid g).replay then
      return ((nth ((s.sub u).results n) (s.grid g).issued).toNat, s.modGrid g fun gr => { gr with issued := gr.issued + 1 })
    else
      let (w, s) ← if b.classes.length ≤ cls then .ok (6 * 2 ^ 56, s)
        else match s.redeems g with
          | some r => .ok (r.ticket.toNat, s)
          | none => if n = (nth b.classes cls).fwdLast then s.newTicket die fe us g u cls else .ok (6 * 2 ^ 56, s)
      return (w, if b.recomputed n then s.modSub u fun k => k.addResult n (BitVec.ofNat 64 w) else s)
  | _ => return (6 * 2 ^ 56, s)

/-- The binary of a graph id that was submitted last on a front end (R430). -/
def State.lastBinary (s : State) (fe : Nat) (graph : Nat) : Option Nat :=
  (s.fe fe).binaries.foldl (fun r b => if (s.bin b).graphId.toNat = graph then some b else r) none

/-- tkredeem (R430). A ticket whose class the bound binary does not hold is answered as one without a binary
(log 15). -/
def State.redeemTicket (s : State) (die fe : Nat) (us : PageUser) (t : Nat) (id fb : Word64) : Except NoPage (TaskAnswer × State) := do
  let gr := s.gridOf t
  let table := gr.record.tkTable.toNat
  let (h, s) ← s.getNat die fe us table 64
  let a := ticketAt table h id.toNat
  let (k, s) ← s.getNat die fe us a 64
  if !ticketValid k id.toNat then return (.value 4, s)
  else if stateOf k ≠ 1 then return (.value 1, s)
  else
    let cls := bitsOf k 176 16
    match s.lastBinary fe (bitsOf k 192 32) with
    | none => return (.value 7, s)
    | some bi =>
      let b := s.bin bi
      if b.classes.length ≤ cls then return (.value 7, s)
      else
        let c := nth b.classes cls
        let vr := (b.recordOf c.fwdLast).vregion.toNat
        let v := ticketVersion k
        let (vh, s) ← if v = 0 then .ok (0, s) else s.versionHead die fe us vr
        if v ≠ 0 ∧ v < oldestOf vh then return (.retired v, s)
        else
          let s ← if v = 0 then .ok s else s.pinVersion die fe us vr v true
          let hd := s.newHandle [table, id.toNat, fb.toNat]
          let s ← s.putTicket die fe us a (setBits (setBits k 0 3 2) 128 32 hd.toNat)
          let red : Redemption :=
            { table := gr.record.tkTable, ticket := BitVec.ofNat 48 id.toNat, cls := cls, version := BitVec.ofNat 32 v,
              vregion := BitVec.ofNat 64 vr
              keys := (List.range 4).map fun i => BitVec.ofNat 32 (bitsOf k (288 + 32 * i) 32)
              draw := BitVec.ofNat 32 (bitsOf k 416 32), fbaddr := fb, inoff := bitsOf k 256 32
              inlines := bitsOf k 232 24, stage := .expand, dropped := false, drafting := false, lambda := none, uscale := 0
              handle := hd }
          let u := { Submission.start fe bi 0 c.fwdFirst (c.fwdLast + 1 - c.fwdFirst) with redemption := some red }
          return (.value 0, { s with subs := s.subs ++ [u] })

/-- tkstate (R431). -/
def State.ticketState (s : State) (die fe : Nat) (us : PageUser) (t : Nat) (id : Word64) (op : Nat) : Except NoPage (Nat × State) := do
  let table := (s.gridOf t).record.tkTable.toNat
  let (h, s) ← s.getNat die fe us table 64
  let a := ticketAt table h id.toNat
  let (k, s) ← s.getNat die fe us a 64
  if !ticketValid k id.toNat then return (4, s)
  else
    match op with
    | 0 => return (stateOf k * 256 + bitsOf k 4 1 * 2048, s)
    | 1 =>
      if stateOf k ≠ 1 then return (1, s)
      else
        let s ← s.putTicket die fe us a (setBits k 0 3 4)
        return (0, s)
    | _ =>
      if stateOf k < 3 then return (1, s)
      else
        let s ← s.put die fe us a (List.replicate 64 0)
        return (0, s)

/-- What a task instruction does and answers. -/
def State.taskAction (s : State) (x : TaskOp) : Except NoPage (TaskAnswer × State) :=
  let fe := s.feOf x.team
  let die := s.dieOf x.team
  let us := PageUser.op x.id
  let vr := (s.gridOf x.team).record.vregion.toNat
  let plain (r : Except NoPage (Nat × State)) : Except NoPage (TaskAnswer × State) := r.map fun p => (.value p.1, p.2)
  match x.kind with
  | .issue cls => plain (s.issueTicket die fe us x.team cls.toNat)
  | .redeem k fb => s.redeemTicket die fe us x.team k fb
  | .stateGet k => plain (s.ticketState die fe us x.team k 0)
  | .stateVoid k => plain (s.ticketState die fe us x.team k 1)
  | .stateFree k => plain (s.ticketState die fe us x.team k 2)
  | .wvOpen => plain (s.openDraft die fe us vr)
  | .wvCow g => plain (s.cowGranule die fe us vr g.toNat)
  | .wvFin => plain (s.finDraft die fe us vr)
  | .wvDrop => plain (s.dropDraft die fe us vr)

/-! ## Issue (R426) -/

/-- Whether an operation stages its instruction in an ordered grid (R428, R430). -/
def TaskKind.staged : TaskKind → Bool
  | .issue _ | .redeem _ _ => true
  | _ => false

/-- The result of a task instruction is a pair. -/
def TaskKind.pair : TaskKind → Bool
  | .issue _ => true
  | _ => false

/-- The staged entry of a task instruction (R428, R430). -/
def State.stagedTask (s : State) (x : Issue) (d : Fin 128) (k : TaskKind) (id : Nat) : Staged :=
  { seq := (s.team x.t).seqNext, kind := .task, crew := x.c, lane := lowestLane x.act, addr := 0, size := .b8, ty := .b32,
    aop := .add
    data := match k with
      | .issue cls => cls.setWidth 64
      | .redeem t _ => t
      | _ => 0
    data2 := match k with
      | .redeem _ fb => fb
      | _ => 0
    dreg := some (.s d), log := id, acc := 0, waiting := false }

/-- StageWrite of a task instruction (R295, R428): whether it takes an entry of the buffer, or acts at once; none while it stalls. -/
def State.stageTask (s : State) (x : Issue) (k : TaskKind) : Option Bool × State :=
  let core := (s.team x.t).core
  if !(k.staged && (s.gridOf x.t).record.ord) then (some false, s)
  else if s.entryTaken core x.t s.nextId then (none, s)
  else if !s.bufferFull core x.t s.nextId then (some true, s)
  else if !isHead s x.t then (none, s)
  else if (s.team x.t).staged.isEmpty then (some false, s)
  else
    match s.releaseOldest x.t with
    | (true, s) => (some true, s)
    | (false, s) => (none, s)

/-- Issue a task instruction: once, and only if Active() is not empty; the bundle stays at it until the result has
returned (R229). -/
def taskOp (i : Instr) (s : State) (d : Fin 128) (bad : Issue → Bool) (kind : Issue → TaskKind) : Result :=
  crewOp i s (fun x => if bad x then { bundle := some 0 } else {}) fun x =>
    if x.act = 0 then s
    else
      let k := kind x
      match s.stageTask x k with
      | (none, s) => s.stall
      | (some entry, s) =>
        let (id, s) := s.fresh
        let seq := if k.staged && (s.gridOf x.t).record.ord then some (s.team x.t).seqNext else none
        let new := if entry then [s.stagedTask x d k id] else []
        let s := if seq.isSome then s.modTeam x.t fun tm =>
            { tm with seqNext := tm.seqNext + 1, staged := tm.staged ++ new } else s
        let s := s.modCrew x.t x.c fun cr =>
          (cr.await id (sregs d (if k.pair then 2 else 1))).modLanes x.lanes fun _ th => { th with awaits := [id] }
        let op : TaskOp := ⟨id, x.t, x.c, x.pc, x.act, .s d, k, seq, false⟩
        let s := { s with tasks := s.tasks ++ [op] }
        (s.spend x.t x.c).stall

def State.noTable (s : State) (x : Issue) : Bool := (s.gridOf x.t).record.tkTable == 0
def State.noRegion (s : State) (x : Issue) : Bool := (s.gridOf x.t).record.vregion == 0

def execTkissue (g : Guard) (d : Fin 128) (a : Opnd) (s : State) : Result :=
  taskOp (.tkissue g d a) s d
    (fun x => s.noTable x || !(s.gridOf x.t).record.ord ||
      (x.act != 0 && decide (65535 < s.rd32 x.t x.c a (lowestLane x.act))))
    fun x => .issue (BitVec.ofNat 32 (s.rd32 x.t x.c a (lowestLane x.act)))

def execTkredeem (g : Guard) (d a b : Fin 128) (s : State) : Result :=
  taskOp (.tkredeem g d a b) s d s.noTable fun x =>
    .redeem ((s.crew x.t x.c).s64 a.val) ((s.crew x.t x.c).s64 b.val)

def execTkstateGet (g : Guard) (d a : Fin 128) (s : State) : Result :=
  taskOp (.tkstateGet g d a) s d s.noTable fun x => .stateGet ((s.crew x.t x.c).s64 a.val)

def execTkstateVoid (g : Guard) (d a : Fin 128) (s : State) : Result :=
  taskOp (.tkstateVoid g d a) s d s.noTable fun x => .stateVoid ((s.crew x.t x.c).s64 a.val)

def execTkstateFree (g : Guard) (d a : Fin 128) (s : State) : Result :=
  taskOp (.tkstateFree g d a) s d s.noTable fun x => .stateFree ((s.crew x.t x.c).s64 a.val)

def execWvcommitOpen (g : Guard) (d : Fin 128) (s : State) : Result :=
  taskOp (.wvcommitOpen g d) s d s.noRegion fun _ => .wvOpen

def execWvcommitCow (g : Guard) (d : Fin 128) (a : Opnd) (s : State) : Result :=
  taskOp (.wvcommitCow g d a) s d s.noRegion fun x =>
    .wvCow (BitVec.ofNat 32 (s.rd32 x.t x.c a (lowestLane x.act)))

def execWvcommitFin (g : Guard) (d : Fin 128) (s : State) : Result :=
  taskOp (.wvcommitFin g d) s d s.noRegion fun _ => .wvFin

def execWvcommitDrop (g : Guard) (d : Fin 128) (s : State) : Result :=
  taskOp (.wvcommitDrop g d) s d s.noRegion fun _ => .wvDrop

/-! ## The answer -/

def State.taskOf (s : State) (id : Nat) : Option TaskOp := s.tasks.find? fun x => x.id == id

/-- R428, R430, R435: whether an instruction's action may be performed: its lanes' accesses have been, staged ones too (log 70), and
what these come after; its crew's earlier task instructions have acted, the crew's clock is covered, and in an ordered grid its turn
has come. -/
def State.taskReady (s : State) (x : TaskOp) : Bool :=
  (s.pendingAccs x.team x.crew x.lanes).isEmpty && s.clocksHold x.team x.crew && (s.team x.team).status == .resident &&
    ((lanesOf x.lanes).all fun l => ((s.crew x.team x.crew).th l).beforeAll.all fun n => !s.holdsBack x.team n) &&
    (x.seq.isSome || (s.team x.team).staged.all fun k => k.crew != x.crew || !x.lanes.getLsbD k.lane) &&
    !(s.releasing fun u => (s.team u).grid == (s.team x.team).grid) &&
    (s.tasks.all fun y => y.team != x.team || y.crew != x.crew || decide (x.id ≤ y.id)) &&
    (match x.seq with
     | none => true
     | some q => isHead s x.team && ((s.team x.team).staged.all fun k => decide (q ≤ k.seq)) &&
       s.tasks.all fun y => y.team != x.team || (match y.seq with
         | some r => decide (q ≤ r)
         | none => true))

/-- The result has returned: the instruction is complete, and its entry is free. -/
def State.taskEnd (s : State) (x : TaskOp) : State :=
  let s := s.modTeam x.team fun tm => { tm with staged := tm.staged.filter fun k => !(k.kind == .task && k.log == x.id) }
  { s.modCrew x.team x.crew fun cr => (cr.returned x.id).modLanes (BitVec.allOnes 16) fun _ th =>
      { th with awaits := th.awaits.filter (· != x.id) } with
    tasks := s.tasks.filter fun y => y.id != x.id }.forgetWaits [.op x.id]

/-- The lanes that remain in the bundle go on after the instruction, unless a save has moved them on. -/
def State.taskPast (s : State) (x : TaskOp) : State :=
  if !x.past && (s.team x.team).status = .resident then s.advance x.team x.crew x.pc (((s.image x.team).word x.pc).getD 0) else s

/-- The action ends in a precise trap of every lane of Active() (R426, R430), once their crossbar and matrix results are written
(R229). -/
def State.taskTrap (s : State) (x : TaskOp) (cls : Nat) (info : Word32) : State :=
  if !(s.crossDone x.team x.crew x.lanes && s.readsDone x.team x.crew x.lanes) then s
  else ((s.taskEnd x).trap x.team x.crew cls x.lanes (fun _ => info) x.pc).taskPast x

/-- TASK_RESULT_RETURN (R426): the action happens at once and its status goes to D, or it waits for a page; a refused
page ends it in the address trap, and a retired version in its own. -/
def execTaskResultReturn (op : Nat) (s : State) : Result :=
  .next (match s.taskOf op with
    | none => s
    | some x =>
      if !s.taskReady x then s
      else
        let core := (s.team x.team).core
        match s.taskAction x with
        | .error p =>
          if s.pageRefused (s.dieOf x.team) (s.feOf x.team) core p (.op x.id) then
            s.taskTrap x 6 0x20
          else s.askPage (s.dieOf x.team) (s.feOf x.team) core p (.op x.id)
        | .ok (.retired v, _) => s.taskTrap x 13 (BitVec.ofNat 32 v)
        | .ok (.value w, s) =>
          let s := s.dropLines core
          let s := if x.seq.isSome then s.modTeam x.team fun tm => { tm with escaped := true } else s
          ((s.modCrew x.team x.crew fun cr => cr.setD x.d x.kind.pair 0 w).taskEnd x).taskPast x)

end Sys2Proof.Machine
end

