-- ==== Sys2Proof/Machine/Graph.lean ====
section
/-! DEFINITION. Submissions, replays, redemptions and the retirement of grids (R26, R402, R409, R415, R416, R419,
R425, R429, R433, R434). -/

namespace Sys2Proof.Machine

/-! ## The memory plan (R415) -/

/-- Nodes of a submission that have launched and not retired, replays among them. -/
def Submission.running (u : Submission) : List Nat :=
  ((u.grids.map Prod.fst).filter fun n => !u.retiredNodes.contains n) ++ u.replays.map Prod.fst

/-- Whether two blocks of a binary overlap. -/
def Binary.overlap (b : Binary) (i j : Nat) : Bool :=
  let x := nth b.blocks i
  let y := nth b.blocks j
  i != j && x.pool == y.pool && decide (x.offset < y.offset + y.size) && decide (y.offset < x.offset + x.size)

/-- Whether a running node lists a block as an input or produces it. -/
def State.pinned (s : State) (u i : Nat) : Bool :=
  let k := s.sub u
  let b := s.bin k.bin
  k.running.any fun n => (nth b.nodes n).inputs.contains i || (nth b.blocks i).producer == n

/-- EVICT of a block; 0 once its producer's issue log has stopped (R429). -/
def State.evictable (s : State) (u i : Nat) : Bool :=
  let k := s.sub u
  let d := nth (s.bin k.bin).blocks i
  d.evict && decide ((k.results d.producer).length ≤ 4096)

/-- Blocks that a node produces. -/
def Binary.products (b : Binary) (n : Nat) : List Nat :=
  (List.range b.blocks.length).filter fun i => (nth b.blocks i).producer == n

/-- The bytes of an evicted block are undefined (R415): they become free values (log 9), at once where a cache holds their
translation, and else when one comes. -/
def State.loseBytes (fuel : Nat) (s : State) (fe a n : Nat) : State :=
  match fuel with
  | 0 => s
  | fuel + 1 =>
    if n = 0 then s
    else
      let k := min n (4096 - a % 4096)
      let s := match s.anyTranslation fe a with
        | some tr => s.freeBytes fe (tr.to a) k
        | none => { s with lost := (fe, a, k) :: s.lost }
      State.loseBytes fuel s fe (a + k) (n - k)

/-- Evict a block. -/
def State.evict (s : State) (u i : Nat) : State :=
  let k := s.sub u
  let b := s.bin k.bin
  let n := (nth b.blocks i).size
  (s.modSub u fun k => { k with live := k.live.filter (· != i), evicted := i :: k.evicted }).loseBytes (pages n) k.fe
    (b.blockAt i) n

/-- R415, 1: evict what overlaps the blocks of a node and may be. -/
def State.evictOverlaps (s : State) (u n : Nat) : State :=
  let b := s.bin (s.sub u).bin
  let hits := (s.sub u).live.filter fun i =>
    s.evictable u i && !s.pinned u i && (b.products n).any fun j => b.overlap i j
  hits.foldl (fun s i => s.evict u i) s

/-- R415, 2: whether a live block still overlaps one of a node's. -/
def State.overlapped (s : State) (u n : Nat) : Bool :=
  let b := s.bin (s.sub u).bin
  (s.sub u).live.any fun i => (b.products n).any fun j => b.overlap i j

/-- Bytes of a pool that live blocks hold. -/
def State.poolHeld (s : State) (u p : Nat) : Nat :=
  let b := s.bin (s.sub u).bin
  (((s.sub u).live.filter fun i => (nth b.blocks i).pool == p).map fun i => (nth b.blocks i).size).sum

/-- The block to evict next from a pool: the highest LASTUSE, then the lowest index. -/
def State.nextEvict (s : State) (u p : Nat) : Option Nat :=
  let b := s.bin (s.sub u).bin
  let able := (List.range b.blocks.length).filter fun i =>
    (s.sub u).live.contains i && (nth b.blocks i).pool == p && s.evictable u i && !s.pinned u i
  able.foldl (fun r i => match r with
    | none => some i
    | some j => if (nth b.blocks j).lastUse < (nth b.blocks i).lastUse then some i else some j) none

/-- R415, 3: evict while the pool's free bytes fall below WMARK. -/
def State.keepMark (fuel : Nat) (s : State) (u p : Nat) : State :=
  match fuel with
  | 0 => s
  | fuel + 1 =>
    let k := nth (s.bin (s.sub u).bin).pools p
    if k.size - s.poolHeld u p < k.wmark then
      match s.nextEvict u p with
      | some i => State.keepMark fuel (s.evict u i) u p
      | none => s
    else s

/-- The blocks of a launched node are live (R415). -/
def State.makeLive (s : State) (u n : Nat) : State :=
  let b := s.bin (s.sub u).bin
  let new := b.products n
  let s := s.modSub u fun k => { k with live := (k.live ++ new).eraseDups }
  (new.map fun i => (nth b.blocks i).pool).eraseDups.foldl (fun s p => s.keepMark (b.blocks.length + 1) u p) s

/-- Drop the blocks whose readers have all retired (R415). -/
def State.dropBlocks (s : State) (u : Nat) : State :=
  let k := s.sub u
  let b := s.bin k.bin
  let past (i : Nat) : Bool := (List.range ((nth b.blocks i).lastUse + 1)).all fun n =>
    decide (n < k.first) || k.retiredNodes.contains n
  s.modSub u fun k => { k with live := k.live.filter fun i => !past i, evicted := k.evicted.filter fun i => !past i }

/-! ## Node records (R419, R425, R433) -/

/-- The region whose retained version a redemption reads; none for a ticket issued without a region (R430). -/
def Redemption.region (r : Redemption) : Nat := if r.version = 0 then 0 else r.vregion.toNat

def State.ticketClass (s : State) (u : Nat) : TicketClass :=
  nth (s.bin (s.sub u).bin).classes (((s.sub u).redemption.map Redemption.cls).getD 0)

/-- WTAB of a node (R419, R425, R434). -/
def State.wtab (s : State) (u n : Nat) (r : Launch) : Except NoPage (Nat × State) :=
  let k := s.sub u
  let vr := r.vregion.toNat
  if vr = 0 then .ok (0, s)
  else do
    let (h, s) ← s.versionHead (feDie k.fe) k.fe (.sub u) vr
    let draft := match k.redemption with
      | some d => d.region == vr && n == (s.ticketClass u).update
      | none => false
    let (v, s) ← if draft then .ok (draftOf h, s) else s.versionRead (feDie k.fe) k.fe (.sub u) u vr
    return (tableAt vr h v, s)

/-- The record of a node as it launches: ARGS bytes 104 to 127, and a redemption's KEYS (R419, R433). -/
def State.nodeRecord (s : State) (u n : Nat) : Except NoPage (Launch × State) := do
  let k := s.sub u
  let r := (s.bin k.bin).recordOf n
  let c := s.ticketClass u
  let fwd := decide (c.fwdFirst ≤ n) && decide (n ≤ c.fwdLast)
  let keyed : Launch := match k.redemption with
    | some d => if fwd then { r with keys := d.keys } else r
    | none => r
  if r.tkTable = 0 ∧ r.vregion = 0 then return (keyed, s)
  else
    let (w, s) ← s.wtab u n r
    let args := match k.redemption with
      | none => patch (patch r.args 104 (bytesOf 8 0)) 112 (bytesOf 8 w)
      | some d =>
        let a := patch (patch r.args 104 (bytesOf 8 (if fwd then 0 else d.fbaddr.toNat))) 112 (bytesOf 8 w)
        let a := if fwd then patch a 120 (bytesOf 4 d.draw.toNat) else a
        if n = c.update then patch a 124 (bytesOf 4 d.uscale.toNat) else a
    return ({ keyed with args := args }, s)

/-- Regions of the nodes whose versions a submission pins at its first launch (R425). -/
def State.pinRegions (s : State) (u : Nat) : List Nat :=
  let k := s.sub u
  let b := s.bin k.bin
  let c := s.ticketClass u
  let ns := match k.redemption with
    | none => (List.range k.count).map fun i => k.first + i
    | some _ => ((List.range (c.fwdLast + 1 - c.fwdFirst)).map fun i => c.fwdFirst + i) ++
        ((List.range (c.bwdLast + 1 - c.bwdFirst)).map fun i => c.bwdFirst + i) ++ [c.update]
  ((ns.map fun n => (b.recordOf n).vregion.toNat).filter fun v => v != 0).eraseDups

/-- Pin the versions that a submission reads (R425); that of a ticket is pinned already (R430). -/
def State.pinAll (s : State) (u : Nat) : Except NoPage State :=
  let k := s.sub u
  let own := (k.redemption.map Redemption.region).getD 0
  (s.pinRegions u).foldlM (fun s vr => do
    if vr = own then
      let v := (k.redemption.map Redemption.version).getD 0
      return s.modSub u fun k => { k with pins := k.pins ++ [⟨BitVec.ofNat 64 vr, v⟩] }
    else
      let (h, s) ← s.versionHead (feDie k.fe) k.fe (.sub u) vr
      let s ← s.pinVersion (feDie k.fe) k.fe (.sub u) vr (curOf h) true
      return s.modSub u fun k => { k with pins := k.pins ++ [⟨BitVec.ofNat 64 vr, BitVec.ofNat 32 (curOf h)⟩] }) s

/-- Lower the pins of a submission, but that of its ticket. -/
def State.unpinAll (s : State) (u : Nat) : Except NoPage State :=
  let k := s.sub u
  let own := (k.redemption.map Redemption.region).getD 0
  (k.pins.filter fun p => p.vregion.toNat != own).foldlM (fun s p =>
    s.pinVersion (feDie k.fe) k.fe (.sub u) p.vregion.toNat p.version.toNat false) (s.modSub u fun k => { k with pins := [] })

/-! ## The end of a submission (R402, R409) -/

/-- INDEX of a record of a node (R402). -/
def State.nodeIndex (s : State) (u n : Nat) : Word64 := (s.bin (s.sub u).bin).graphId ++ BitVec.ofNat 32 n

/-- Handle of the grid of a node; where the node has none the spec gives none, and it is free (log 8). -/
def State.nodeHandle (s : State) (u n : Nat) : BitVec 32 :=
  (((s.sub u).grids.find? fun p => p.1 == n).map fun p => (s.grid p.2).handle).getD (Config.handleBits [u, n])

/-- R409: whether a submission that is no redemption has come to its end. -/
def Submission.isOver (u : Submission) : Bool :=
  u.redemption.isNone && !u.finished && u.running.isEmpty && (u.failed || u.launched == u.count)

/-- End a submission: versions are unpinned and the grid-retired record is posted; a refused page leaves the pins. -/
def State.endSub (s : State) (u : Nat) : State :=
  let k := s.sub u
  if !k.isOver then s
  else
    let node := if k.failed then k.failNode else k.first + k.count - 1
    let post (s : State) : State :=
      (s.modSub u fun k => { k with finished := true }).post k.fe
        (gridRetired (s.nodeIndex u node) 1 (s.nodeHandle u node) k.failed)
    match s.unpinAll u with
    | .ok s => post s
    | .error p => if s.pageRefused (feDie k.fe) k.fe 0 p (.sub u) then post (s.dropRefused (feDie k.fe) k.fe (.sub u))
        else s.askPage (feDie k.fe) k.fe 0 p (.sub u)

/-! ## Launching nodes (R409, R415) -/

/-- R433: submissions and redemptions of one graph id on one front end run one at a time, in order. -/
def State.subTurn (s : State) (u : Nat) : Bool :=
  let k := s.sub u
  !k.finished && (List.range u).all fun j =>
    let o := s.sub j
    o.finished || o.fe != k.fe || (s.bin o.bin).graphId != (s.bin k.bin).graphId

/-- The node that launches next. -/
def Submission.next (u : Submission) : Nat := u.first + u.launched

/-- R409: whether every node that an edge orders before a node has retired. -/
def State.edgesMet (s : State) (u n : Nat) : Bool :=
  let k := s.sub u
  (s.bin k.bin).edges.all fun e =>
    e.2 != n || decide (e.1 < k.first) || decide (k.first + k.count ≤ e.1) || k.retiredNodes.contains e.1

/-- Evicted inputs of a node (R416). -/
def State.evictedInputs (s : State) (u n : Nat) : List Nat :=
  (nth (s.bin (s.sub u).bin).nodes n).inputs.filter (s.sub u).evicted.contains

/-- Whether a submission is at a stage in which nodes launch under R409. -/
def Submission.launches (u : Submission) : Bool :=
  match u.redemption with
  | none => true
  | some r => r.stage == .forward || r.stage == .backward || r.stage == .update

/-- Whether the next node is ready (R409). -/
def State.nodeReady (s : State) (u : Nat) : Bool :=
  let k := s.sub u
  s.subTurn u && !k.failed && k.launches && decide (k.launched < k.count) && s.edgesMet u k.next &&
    !(s.fe k.fe).migState.still

/-- A submission fails at a node (R409). -/
def State.failSub (s : State) (u n : Nat) : State := s.modSub u fun k => { k with failed := true, failNode := n }

/-- A node's record does not stand: the malformed-launch record, and the submission ends there (R402, R409). -/
def State.badNode (s : State) (u n code : Nat) : State :=
  let fe := (s.sub u).fe
  ((s.dropRefused (feDie fe) fe (.sub u)).failSub u n).post fe (malformedLaunch (s.nodeIndex u n) 1 code)

/-- Start the grid of a node with a record that stands. -/
def State.startNode (s : State) (u n : Nat) (r : Launch) (needs : Needs) : State :=
  let k := s.sub u
  let b := s.bin k.bin
  let (g, s) := s.addGrid k.fe (r.cap (s.fe k.fe).ceiling) needs (.node u n) b.curveAddrs b.bmapAddrs (some k.bin)
  (s.modSub u fun k => { k with launched := k.launched + 1, grids := k.grids ++ [(n, g)] }).makeLive u n

/-- The launch of a node whose turn has come. -/
def State.launchNode (s : State) (u n : Nat) : Except NoPage State := do
  let s ← if (s.sub u).started then .ok s else s.pinAll u
  let s := s.modSub u fun k => { k with started := true }
  let (r, s) ← s.nodeRecord u n
  let b := s.bin (s.sub u).bin
  match s.validate (s.sub u).fe (.sub u) r true b.curves.length b.bmaps.length with
  | .noPage p => .error p
  | .malformed code => return (s.readKernel (s.sub u).fe (.sub u) r).badNode u n code
  | .fine needs => return (s.readKernel (s.sub u).fe (.sub u) r).startNode u n r needs

/-- NODE_READY_LAUNCH (R409, R415): the next node of a submission launches, unless an evicted input or an overlapping
block holds it back. A page that the engine needs is asked for; a refused one makes the launch malformed (R476). It
also ends a submission that is over. -/
def execNodeReadyLaunch (sub : Nat) (s : State) : Result :=
  let k := s.sub sub
  let fe := k.fe
  .next (if k.isOver then s.endSub sub
    else if !s.nodeReady sub || !(s.evictedInputs sub k.next).isEmpty then s
    else
      let s := s.evictOverlaps sub k.next
      if s.overlapped sub k.next then s
      else
        match s.launchNode sub k.next with
        | .ok s => s
        | .error p => if s.pageRefused (feDie fe) fe 0 p (.sub sub) then s.badNode sub k.next 3 else s.askPage (feDie fe) fe 0 p (.sub sub))

/-! ## Replays (R416) -/

/-- Blocks that have to be rebuilt for a list of blocks: each whose producer's own inputs are at hand, else those
inputs. -/
def State.rebuild (fuel : Nat) (s : State) (u : Nat) (blocks : List Nat) : List Nat :=
  match fuel with
  | 0 => []
  | fuel + 1 => blocks.flatMap fun i =>
    match s.evictedInputs u (nth (s.bin (s.sub u).bin).blocks i).producer with
    | [] => [i]
    | more => State.rebuild fuel s u more

/-- Whether a block's producer is to be replayed now. -/
def State.replayDue (s : State) (u i : Nat) : Bool :=
  let k := s.sub u
  let p := (nth (s.bin k.bin).blocks i).producer
  s.nodeReady u && (s.rebuild ((s.bin k.bin).blocks.length + 1) u (s.evictedInputs u k.next)).contains i &&
    !(k.replays.any fun r => r.1 == p) && k.grids.any fun g => g.1 == p

/-- REPLAY_GRID_LAUNCH (R415, R416): the producer of an evicted block launches again, from its own record with the
same keys and arguments. -/
def execReplayGridLaunch (sub block : Nat) (s : State) : Result :=
  let p := (nth (s.bin (s.sub sub).bin).blocks block).producer
  .next (if !s.replayDue sub block then s
    else
      let s := s.evictOverlaps sub p
      if s.overlapped sub p then s
      else
        let k := s.sub sub
        let old := s.grid (((k.grids.find? fun g => g.1 == p).map Prod.snd).getD 0)
        let (g, s) := s.addGrid k.fe old.record old.needs (.node sub p) old.curves old.bmaps (some k.bin)
        let s := s.modGrid g fun gr => { gr with replay := true }
        (s.modSub sub fun k => { k with replays := k.replays ++ [(p, g)] }).makeLive sub p)

/-! ## Redemptions (R433, R434) -/

def State.modRedemption (s : State) (u : Nat) (f : Redemption → Redemption) : State :=
  s.modSub u fun k => { k with redemption := k.redemption.map f }

/-- Address and contents of a redemption's ticket. -/
def State.ticketOf (s : State) (fe : Nat) (us : PageUser) (r : Redemption) : Except NoPage (Nat × Nat × State) := do
  let (h, s) ← s.getNat (feDie fe) fe us r.table.toNat 64
  let a := ticketAt r.table.toNat h r.ticket.toNat
  let (t, s) ← s.getNat (feDie fe) fe us a 64
  return (a, t, s)

/-- Step 1: the input record is expanded into INBLOCK, of which only its own bytes are written (R422). -/
def State.expandInput (s : State) (u : Nat) (r : Redemption) : Except NoPage State := do
  let k := s.sub u
  let die := feDie k.fe
  let b := s.bin k.bin
  let (h, s) ← s.getNat die k.fe (.sub u) r.table.toNat 64
  let size := bitsOf h 168 32
  let base := bitsOf h 112 56 + (if size = 0 then 0 else r.inoff % size)
  let (mask, s) ← s.get die k.fe (.sub u) base (maskBytes r.inlines)
  let used := ((List.range r.inlines).filter fun i => (mask.getD (i / 8) 0).getLsbD (i % 8)).length
  let (stored, s) ← s.get die k.fe (.sub u) (base + maskBytes r.inlines) (128 * used)
  let blk := (s.ticketClass u).inBlock
  s.put die k.fe (.sub u) (b.blockAt blk) ((expandRecord mask stored r.inlines 0).take (nth b.blocks blk).size)

/-- The nodes of the next range of a redemption. -/
def State.nextRange (s : State) (u : Nat) (stage : RedeemStage) (first last : Nat) : State :=
  (s.modRedemption u fun r => { r with stage := stage }).modSub u fun k =>
    { k with first := first, count := last + 1 - first, launched := 0 }

/-- What ends a redemption (R433, 5): the versions are unpinned, the ticket takes its state and the record is posted. -/
def State.closeRedemption (s : State) (u : Nat) (r : Redemption) (failed unpin : Bool) : Except NoPage State := do
  let k := s.sub u
  let die := feDie k.fe
  let s ← if failed && r.drafting then (s.dropDraft die k.fe (.sub u) r.region).map Prod.snd else .ok s
  let s ← if unpin && r.region != 0 then s.pinVersion die k.fe (.sub u) r.region r.version.toNat false else .ok s
  let s ← s.unpinAll u
  let (a, t, s) ← s.ticketOf k.fe (.sub u) r
  s.putTicket die k.fe (.sub u) a (setBits t 0 3 (if failed then 4 else 3))

/-- The record that ends a redemption carries its update node (R402). -/
def State.endRedemption (s : State) (u : Nat) (failed : Bool) : State :=
  let k := s.sub u
  (s.modSub u fun k => { k with finished := true }).post k.fe
    (gridRetired (s.nodeIndex u (s.ticketClass u).update) 1 (s.nodeHandle u (s.ticketClass u).update) failed)

/-- Do a step of a redemption; a page that it lacks is asked for, and a refused one fails the redemption (R426). -/
def State.redeemStep (s : State) (u : Nat) (step : Except NoPage State) : State :=
  let fe := (s.sub u).fe
  match step with
  | .ok s => s
  | .error p =>
    if s.pageRefused (feDie fe) fe 0 p (.sub u) then (s.dropRefused (feDie fe) fe (.sub u)).failSub u (s.ticketClass u).update
    else s.askPage (feDie fe) fe 0 p (.sub u)

/-- A failed redemption ends once none of its grids runs; a refused page leaves its memory as it is. -/
def State.failRedemption (s : State) (u : Nat) (r : Redemption) : State :=
  let fe := (s.sub u).fe
  match s.closeRedemption u r true (r.stage != .finished) with
  | .ok s => s.endRedemption u true
  | .error p =>
    if s.pageRefused (feDie fe) fe 0 p (.sub u) then (s.dropRefused (feDie fe) fe (.sub u)).endRedemption u true
    else s.askPage (feDie fe) fe 0 p (.sub u)

/-- Whether every node of the present range has retired. -/
def Submission.rangeDone (u : Submission) : Bool := u.running.isEmpty && u.launched == u.count

/-- REDEMPTION_RUN (R433): the input is expanded, the forward range gives way to the backward range, and a failed
redemption ends. -/
def execRedemptionRun (sub : Nat) (s : State) : Result :=
  let k := s.sub sub
  .next (match k.redemption with
    | none => s
    | some r =>
      if !s.subTurn sub then s
      else if k.failed then (if k.running.isEmpty then s.failRedemption sub r else s)
      else
        match r.stage with
        | .expand => s.redeemStep sub ((s.expandInput sub r).map fun s =>
            s.modRedemption sub fun r => { r with stage := .forward })
        | .forward =>
          if k.rangeDone then s.nextRange sub .backward (s.ticketClass sub).bwdFirst (s.ticketClass sub).bwdLast else s
        | _ => s)

/-- Whether the update node of a redemption is ready (R434). -/
def State.updateReady (s : State) (u : Nat) : Bool :=
  let k := s.sub u
  s.subTurn u && !k.failed && k.rangeDone && (match k.redemption with
    | some r => r.stage == .backward
    | none => false)

/-- R434: λ[d] is zero. -/
def zeroF32 (w : Word32) : Bool := w.toNat % 2 ^ 31 == 0

/-- The redemption is dropped. -/
def State.dropRedemption (s : State) (u : Nat) (r : Redemption) : Except NoPage State := do
  let k := s.sub u
  let die := feDie k.fe
  let (h, s) ← s.getNat die k.fe (.sub u) r.table.toNat 64
  let s ← s.put die k.fe (.sub u) r.table.toNat (bytesOf 64 (setBits h 264 32 (bitsOf h 264 32 + 1)))
  let (a, t, s) ← s.ticketOf k.fe (.sub u) r
  let s ← s.putTicket die k.fe (.sub u) a (setBits t 4 1 1)
  let s ← s.closeRedemption u r false true
  return (s.modRedemption u fun r => { r with dropped := true }).endRedemption u false

/-- η × λ[d], rounded to nearest (R434). -/
def updateScale (eta lambda : Word32) : Word32 :=
  BitVec.ofNat 32 (mulRounded .fp32 .rne (FFmt.fp32.value eta.toNat) (FFmt.fp32.value lambda.toNat)).code

/-- λ[d] of a redemption whose update node is ready: CUR is read once. Without a region the spec gives no d: it is free
(log 16). -/
def State.staleness (s : State) (u : Nat) (r : Redemption) : Except NoPage (Word32 × State) :=
  match r.lambda with
  | some x => .ok (x, s)
  | none => do
    let k := s.sub u
    let (cur, s) ← if r.region = 0 then .ok (Config.pick s.freeCtr % 8, s)
      else (s.versionHead (feDie k.fe) k.fe (.sub u) r.region).map fun p => (curOf p.1, p.2)
    let x := nth (s.ticketClass u).lambda (cur - r.version.toNat)
    return (x, s.modRedemption u fun r => { r with lambda := some x })

/-- The update node's turn: the redemption is dropped, or waits for another draft, or opens its own; its node then launches as any
other does (`execNodeReadyLaunch`). -/
def State.runUpdate (s : State) (u : Nat) (r : Redemption) : Except NoPage State := do
  let k := s.sub u
  let c := s.ticketClass u
  let (x, s) ← s.staleness u r
  if zeroF32 x then s.dropRedemption u r
  else
    let (st, s) ← if r.region = 0 then .ok (0, s) else s.openDraft (feDie k.fe) k.fe (.sub u) r.region
    if st ≠ 0 then return s
    else
      let s := s.modRedemption u fun r =>
        { r with uscale := updateScale c.eta x, drafting := r.region != 0, stage := .update }
      return s.nextRange u .update c.update c.update

/-- UPDATE_NODE_READY (R434): λ[d] decides whether the draft is opened, and the update node launches. -/
def execUpdateNodeReady (sub : Nat) (s : State) : Result :=
  let k := s.sub sub
  .next (match k.redemption with
    | none => s
    | some r => if s.updateReady sub then { s.redeemStep sub (s.runUpdate sub r) with freeCtr := s.freeCtr + 1 } else s)

/-- v is unpinned first; then the draft is committed, waiting while the oldest version is pinned (R434). -/
def State.commitUpdate (s : State) (u : Nat) (r : Redemption) : Except NoPage State := do
  let k := s.sub u
  let die := feDie k.fe
  let s ← if r.stage == .update && r.region != 0 then s.pinVersion die k.fe (.sub u) r.region r.version.toNat false else .ok s
  let s := s.modRedemption u fun r => { r with stage := .finished }
  let (st, s) ← if r.drafting then s.finDraft die k.fe (.sub u) r.region else .ok (0, s)
  if st = 2 then return s
  else
    let s ← s.closeRedemption u r false false
    return s.endRedemption u false

/-- Whether the update node has retired and its draft is still to be committed. -/
def State.updateRetired (s : State) (u : Nat) : Bool :=
  let k := s.sub u
  !k.failed && !k.finished && k.rangeDone && (match k.redemption with
    | some r => r.stage == .update || r.stage == .finished
    | none => false)

/-- UPDATE_NODE_RETIRE (R434). -/
def execUpdateNodeRetire (sub : Nat) (s : State) : Result :=
  let k := s.sub sub
  .next (match k.redemption with
    | none => s
    | some r => if s.updateRetired sub then s.redeemStep sub (s.commitUpdate sub r) else s)

/-! ## Retirement of a grid (R26, R199, R402, R409) -/

/-- Whether a grid retires: its last team, its staged entries and its child grids are done. -/
def State.gridOver (s : State) (g : Nat) : Bool :=
  let gr := s.grid g
  decide (g < s.grids.length) && !gr.retired && !gr.staged && gr.children == 0 && (s.fe gr.fe).recBlocked == false &&
    (gr.noMore || gr.nextTeam == gr.record.teams) && (List.range s.teams.length).all fun t => (s.team t).grid != g || s.teamDone t

/-- A grid of a submission has retired. -/
def State.nodeRetired (s : State) (u n g : Nat) : State :=
  let gr := s.grid g
  let b := s.bin (s.sub u).bin
  let s := if gr.replay then s.modSub u fun k => { k with
      replays := k.replays.filter fun r => r.2 != g
      evicted := if gr.failed then k.evicted else k.evicted.filter fun i => !(b.products n).contains i }
    else s.modSub u fun k => { k with retiredNodes := k.retiredNodes ++ [n] }
  let s := if gr.failed && !(s.sub u).failed then s.failSub u n else s
  (s.dropBlocks u).endSub u

/-- GRID_RETIRE (R26, R402): the grid retires after its last team and child grids; its origin says who learns of it. -/
def execGridRetire (grid : Nat) (s : State) : Result :=
  let gr := s.grid grid
  .next (if !s.gridOver grid then s
    else
      let s := s.modGrid grid fun g => { g with retired := true }
      match gr.origin with
      | .ring i => s.post gr.fe (gridRetired (BitVec.ofNat 64 i) 0 gr.handle gr.failed)
      | .node u n => s.nodeRetired u n grid
      | .child t c id =>
        (s.modCrew t c fun cr => cr.lower id).modGrid (s.team t).grid fun g => { g with children := g.children - 1 }
      | .firmware => s)

end Sys2Proof.Machine
end

