-- ==== Sys2Proof/Machine/Placement.lean ====
section
/-! DEFINITION. Where teams may stand: the buddy allocator, save slots, the choice of cores, kernel images, the
compactor, and what takes teams off their cores (R26 to R29, R50, R92, R96 to R101, R300, R358, R410 to R417). -/

namespace Sys2Proof.Machine

/-! ## The buddy allocator (R96, R98, R100) -/

/-- The least power of two at or above a number. -/
def pow2Up (n : Nat) : Nat := if n ≤ 1 then 1 else 2 ^ (Nat.log2 (n - 1) + 1)

/-- Granules of a share of a core under a partition: 0 vector, 1 scratchpad, 2 and 3 the accumulator banks. -/
def Launch.granules (r : Launch) (share : Nat) : Nat :=
  if share = 0 then 128 * (r.partition.extractLsb' 0 5).toNat
  else if share = 1 then 32 * (r.partition.extractLsb' 5 5).toNat
  else r.bankTiles

/-- Whether a range of a share is free of the blocks. -/
def freeRange (blocks : List Block) (share first size : Nat) : Bool :=
  blocks.all fun b => b.share != share || decide (first + size ≤ b.first) || decide (b.first + b.size ≤ first)

/-- The lowest aligned free block of a power of two of granules (R100). -/
def findBlock (blocks : List Block) (share size total : Nat) : Option Nat :=
  ((List.range (total / size)).map fun k => k * size).find? fun a => freeRange blocks share a size

/-- Take a block for a request, if there is one; a request of nothing takes none. -/
def takeBlock (blocks : List Block) (r : Launch) (share request team crew : Nat) : Option (List Block) :=
  if request = 0 then some blocks
  else
    let n := pow2Up request
    (findBlock blocks share n (r.granules share)).map fun a => blocks ++ [⟨share, a, n, team, crew⟩]

/-- Granules of the scratchpad block of a kernel. -/
def Needs.spadGranules (n : Needs) : Nat := (n.spadb + 512 + 4095) / 4096

/-- The blocks of a team: one vector block a crew, one scratchpad block, one accumulator block in the bank. -/
def takeBlocks (blocks : List Block) (r : Launch) (n : Needs) (team bank : Nat) (tiles : Bool) : Option (List Block) :=
  let crews := (List.range r.crews).foldl (fun bs c => bs.bind fun b => takeBlock b r 0 (n.vregs / 16) team c) (some blocks)
  let pad := crews.bind fun b => takeBlock b r 1 n.spadGranules team 0
  if tiles then pad.bind fun b => takeBlock b r (2 + bank) n.atiles team 0 else pad

/-- First granule of a block that a team owns; 0 when it owns none. -/
def firstOf (blocks : List Block) (share team crew : Nat) : Nat :=
  ((blocks.find? fun b => b.share == share && b.team == team && b.crew == crew).map Block.first).getD 0

/-! ## Save slots (R239, R410, R465) -/

def up64 (n : Nat) : Nat := (n + 63) / 64 * 64

/-- The most that a saved context of a grid's team takes: a full ordered-atomic buffer in an ordered grid, and a full
operand log (log 24). -/
def Grid.contextBytes (g : Grid) : Nat :=
  let n := g.needs
  4096 + 4096 * n.atiles + g.record.crews * (576 + 64 * n.vregs + 4096) + 128 +
    up64 (64 + 32 * (if g.record.ord then Config.orderedBuffer else 0)) + (64 + 512 * Config.operandLog) + up64 n.spadb

/-- Bytes of an issue log of 4,096 results (R429). -/
def issueLogBytes : Nat := 8 * 4096

/-- The room of the issue logs of a submission that last: while a block that the node produces is live, evicted or not (R429). -/
def State.logRooms (s : State) (k : Submission) : List (Nat × Nat) :=
  let b := s.bin k.bin
  (k.logAt.filter fun p => (k.live ++ k.evicted).any fun i => (nth b.blocks i).producer == p.1).map fun p => (p.2, issueLogBytes)

/-- Bytes of the tables that a move has brought, and where they stand in the save area: at its end (R454, log 28). -/
def FrontEnd.tableBytes (f : FrontEnd) : Nat := up64 (f.tables.map fun k => k.2.length).sum
def FrontEnd.tablesAt (f : FrontEnd) : Nat := f.saveBase.toNat + f.saveSize.toNat - f.tableBytes

/-- Room that teams, issue logs and the tables of a move hold in a front end's save area, as (first byte, bytes). -/
def State.slotsOf (s : State) (fe : Nat) : List (Nat × Nat) :=
  ((s.teams.filter fun tm => (s.grid tm.grid).fe == fe && (tm.status == .resident || tm.status == .saved)).map fun tm =>
    (tm.saveAt, (s.grid tm.grid).contextBytes)) ++ (s.subs.filter fun k => k.fe == fe).flatMap s.logRooms ++
    [((s.fe fe).tablesAt, (s.fe fe).tableBytes)]

/-- R465: the save area lies in the HBM pages. -/
def FrontEnd.saveOk (f : FrontEnd) : Bool :=
  decide (f.hbm.1 ≤ f.saveBase.toNat) && decide (f.saveBase.toNat + f.saveSize.toNat ≤ f.hbm.2) && f.saveSize != 0

/-- The lowest free slot of a size in a front end's save area. -/
def State.saveSlot (s : State) (fe size : Nat) : Option Nat :=
  let f := s.fe fe
  let used := s.slotsOf fe
  let cands := up64 f.saveBase.toNat :: used.map fun u => up64 (u.1 + u.2)
  let able := cands.filter fun a =>
    decide (f.saveBase.toNat ≤ a) && decide (a + size ≤ f.saveBase.toNat + f.saveSize.toNat) &&
      used.all fun u => decide (a + size ≤ u.1) || decide (u.1 + u.2 ≤ a)
  if f.saveOk then able.foldl (fun m a => match m with
    | none => some a
    | some b => some (min a b)) none
  else none

/-! ## Cores that a team may use (R27, R29, R97, R410, R414, R474) -/

def clusterOf (core : Nat) : Nat := core / Config.coresPerCluster

/-- Teams on a core. -/
def State.teamsOn (s : State) (core : Nat) : List Nat :=
  (List.range s.teams.length).filter fun t => (s.team t).status == .resident && (s.team t).core == core

/-- Saved teams whose tiles stand in a held or surplus bank of a core (R358). -/
def State.heldOn (s : State) (core : Nat) : List Nat :=
  (List.range s.teams.length).filter fun t =>
    let tm := s.team t
    tm.status == .saved && tm.tilesAt != .area && tm.core == core && (s.gridOf t).needs.atiles != 0

/-- The front end that holds a core (R414); one with QUANTUM 0 holds it only while it keeps a team there. -/
def State.holderOf (s : State) (core : Nat) : Option Nat :=
  let c := s.core core
  match c.holder with
  | none => none
  | some h =>
    let keeps := (s.teamsOn core).any fun t => (s.gridOf t).fe == h
    if keeps || ((s.fe h).quantum != 0 && !c.draining) then some h else none

/-- Whether no core of a cluster has failed (R29). -/
def State.isWhole (s : State) (cluster : Nat) : Bool := (List.range 4).all fun i => !(s.core (4 * cluster + i)).failed

/-- Whole clusters of a front end's range (R29). -/
def State.wholeClusters (s : State) (fe : Nat) : List Nat := (s.fe fe).clusters.filter s.isWhole

/-- Whether a core may take teams of a front end, a drain under R414 apart: one of a whole cluster of its range (R410), in which
teams stay that stand beside a failed core (R29, log 32). -/
def State.coreUp (s : State) (fe core : Nat) : Bool :=
  let c := s.core core
  let d := s.die (core / Config.coresPerDie)
  decide (core < Config.cores) && !c.halted && !d.thermal && !d.thermalHold && !d.inReset &&
    (s.fe fe).clusters.contains (clusterOf core) && s.isWhole (clusterOf core)

/-- Bytes of a kernel image. -/
def Needs.image (n : Needs) : Nat := n.codelen + n.tablen

/-- R27: whether the clause store can take a grid's image beside those of the resident teams. -/
def State.imageFits (s : State) (g core : Nat) : Bool :=
  let key (k : Nat) := ((s.grid k).fe, (s.grid k).record.entry, (s.grid k).needs.image)
  let held := ((s.teamsOn core).map fun t => key (s.team t).grid).eraseDups.filter fun k => k != key g
  decide ((held.map fun k => k.2.2).sum + (s.grid g).needs.image ≤ Config.clauseStoreBytes)

/-- Whether the team's mates, those of its cohort that stand on cores, allow a core (R70). -/
def State.matesAllow (s : State) (g index core : Nat) : Bool :=
  let c := (s.grid g).record.cohort
  s.teams.all fun tm => tm.grid != g || tm.status != .resident || tm.index / c != index / c || tm.index == index ||
    (tm.core != core && clusterOf tm.core == clusterOf core)

/-- Where a team would stand on a core: all blocks of the core with its own, its tiles' bank, its save slot. -/
structure Fit where
  blocks : List Block
  bank : Nat
  saveAt : Nat
  deriving Repr

/-! ## What waits for a place (R92, R235, R300, R410) -/

/-- What is placed or restored together: the grid, and each team with its index; `back` for saved teams. -/
structure WaitUnit where
  grid : Nat
  back : Bool
  members : List (Nat × Nat)
  deriving DecidableEq, Repr

/-- Teams of a grid in a state, as (team, index). -/
def State.teamsOf (s : State) (g : Nat) (p : Team → Bool) : List (Nat × Nat) :=
  ((List.range s.teams.length).filter fun t => (s.team t).grid == g && p (s.team t)).map fun t => (t, (s.team t).index)

/-- The lowest indices first. -/
def sortIndex (l : List (Nat × Nat)) : List (Nat × Nat) :=
  l.foldr (fun x r => (r.filter fun y => decide (y.2 < x.2)) ++ x :: (r.filter fun y => !decide (y.2 < x.2))) []

/-- R300: whether the head team of an ordered grid is off its core. -/
def State.headAway (s : State) (g : Nat) : Bool :=
  let gr := s.grid g
  gr.record.ord && s.teams.any fun tm => tm.grid == g && tm.index == gr.head &&
    (tm.status == .saved || tm.status == .waiting || tm.saving)

/-- The teams that are placed next: a whole grid, or the cohort of the next index. -/
def State.freshUnit (s : State) (g : Nat) : List WaitUnit :=
  let gr := s.grid g
  if gr.noMore || gr.nextTeam ≥ gr.record.teams || s.headAway g then []
  else
    let n := if gr.record.coop then gr.record.teams
      else min (gr.record.cohort - gr.nextTeam % gr.record.cohort) (gr.record.teams - gr.nextTeam)
    [⟨g, false, (List.range n).map fun k => (s.teams.length + k, gr.nextTeam + k)⟩]

/-- Teams of a grid that have been killed and are to be placed again (R235). -/
def State.killed (s : State) (g : Nat) : List (Nat × Nat) := s.teamsOf g fun tm => tm.status == .waiting

/-- Killed teams that are placed again (R235): those of a cooperative grid all at once, while no team of it is saved (R92); in an
ordered grid none while the head is off its core but the head (R300). -/
def State.againUnits (s : State) (g : Nat) : List WaitUnit :=
  let gr := s.grid g
  let ms := (s.killed g).filter fun m => (s.team m.1).owed.isEmpty && (!s.headAway g || m.2 == gr.head)
  if gr.noMore then []
  else if gr.record.coop then
    if ms.isEmpty || ms.length != (s.killed g).length || !(s.teamsOf g fun tm => tm.status == .saved || tm.saving).isEmpty then []
    else [⟨g, false, ms⟩]
  else ms.map fun m => ⟨g, false, [m]⟩

/-- Saved teams that are restored together (R70, R92, R238, R300): those of a cooperative grid, with its killed ones once these may
be placed again, those of a cohort, or one. -/
def State.backUnits (s : State) (g : Nat) : List WaitUnit :=
  let gr := s.grid g
  let c := gr.record.cohort
  let saved := s.teamsOf g fun tm => tm.status == .saved
  let killed := if gr.record.coop && !gr.noMore then s.killed g else []
  let all := if saved.isEmpty || killed.any fun m => !(s.team m.1).owed.isEmpty then [] else sortIndex (saved ++ killed)
  let still (k : Nat) : Bool := s.teams.any fun tm => tm.grid == g && tm.saving && tm.status == .resident &&
    (gr.record.coop || tm.index / c == k)
  let groups := if all.isEmpty then []
    else if gr.record.coop then [all]
    else ((all.map fun m => m.2 / c).eraseDups).map fun k => all.filter fun m => m.2 / c == k
  let groups := if gr.record.ord then groups.take 1 else groups
  (groups.filter fun m => !still (((m.head?.map Prod.snd).getD 0) / c)).map fun m => ⟨g, true, m⟩

/-- Everything of a grid that waits. -/
def State.unitsOf (s : State) (g : Nat) : List WaitUnit :=
  let gr := s.grid g
  if gr.retired || gr.staged || (s.fe gr.fe).migState.still then []
  else s.backUnits g ++ s.againUnits g ++ s.freshUnit g

/-- Everything that waits for a place. -/
def State.allUnits (s : State) : List WaitUnit := (List.range s.grids.length).flatMap s.unitsOf

/-- Whether a core takes teams of a front end at all: one that has drained passes to a front end that waits for it (R414). -/
def State.coreOpen (s : State) (fe core : Nat) : Bool :=
  let c := s.core core
  s.coreUp fe core && !(c.draining && c.holder == some fe &&
    (s.holderOf core == some fe || s.allUnits.any fun u => (s.grid u.grid).fe != fe && s.coreUp (s.grid u.grid).fe core))

/-- Entries of an operand log that a team takes. -/
def State.logOf (s : State) (t : Nat) : Nat := s.log.countP fun e => e.team == t && e.kind.logged && !e.posted

/-- Whether and where team `t`, of the grid and index, fits on a core. A saved team's tiles come back to their held
bank, which becomes the current one, or are filled into the current bank; held or spilled on another core they do not
fit before they are spilled to the save area (R358). Its staged entries need room in the core's buffer, and what it has outstanding
in the core's log (R294, R312). A core whose held or surplus bank has another partition takes no team before these tiles are spilled,
although it is empty (R97; the model's choice, log 32). -/
def State.fit (s : State) (g index t core : Nat) : Option Fit :=
  let gr := s.grid g
  let c := s.core core
  let tm := s.team t
  let saved := tm.status == .saved
  let away := saved && tm.tilesAt != .area && tm.core != core
  let held := saved && tm.tilesAt == .held && gr.needs.atiles != 0
  let bank := if held then tm.bank else c.bank
  let flips := held && bank != c.bank
  let clash := (s.heldOn core).any fun k => (s.gridOf k).record.partition != gr.record.partition
  let slot := if saved then some tm.saveAt else s.saveSlot gr.fe gr.contextBytes
  if !s.coreOpen gr.fe core || away || clash || !s.matesAllow g index core || !s.imageFits g core ||
      (c.partition.isSome && c.partition != some gr.record.partition) || (flips && !(s.teamsOn core).isEmpty) ||
      decide (Config.orderedBuffer < s.entriesOn core + s.reservedOn core t s.nextId + tm.staged.length) ||
      decide (Config.operandLog < s.logUsed core + s.logOf t) ||
      decide (Config.crewsPerCore < ((s.teamsOn core).map fun t => (s.team t).crews.length).sum + gr.record.crews) then none
  else
    match takeBlocks c.blocks gr.record gr.needs t bank (!held), slot with
    | some bs, some a => some ⟨bs, bank, a⟩
    | _, _ => none

/-- Move the image of a grid to the front, as the most recently launched (R27). -/
def State.touchImage (s : State) (g core : Nat) : State :=
  s.modCore core fun c =>
    { c with images := (c.images.filter fun im => s.imageIs g im) ++ c.images.filter fun im => !s.imageIs g im }

/-- Give a team its place on a core. Its loads find no copy of a line that was filled before, for what was written
before its grid's launch happens before them (R278, R285, R467). -/
def State.seat (s : State) (t core : Nat) (f : Fit) : State :=
  let tm := s.team t
  let gr := s.grid tm.grid
  let h := s.holderOf core
  let back := tm.status == .saved
  let s := s.modCore core fun c =>
    { c with
      blocks := f.blocks
      partition := some gr.record.partition
      bank := f.bank
      holder := if h.isNone then some gr.fe else h
      count := if h.isNone then ((c.charges.filter fun k => k.1 == gr.fe).map Prod.snd).sum else c.count
      charges := if h.isNone then c.charges.filter fun k => k.1 != gr.fe else c.charges
      draining := c.draining && h.isSome
      rcache := [] }
  let crews := (List.range tm.crews.length).map fun c => { nth tm.crews c with vbase := firstOf f.blocks 0 t c }
  ({ s.modTeam t fun tm => { tm with
      status := .resident
      core := core
      placed := s.nextId
      crews := crews
      spadBase := firstOf f.blocks 1 t 0
      accBase := firstOf f.blocks (2 + f.bank) t 0
      bank := f.bank
      saveAt := f.saveAt
      spad := if back then tm.spad else []
      unsealed := if back then tm.unsealed else []
      absent := if back then tm.absent else []
      stop := tm.stop && back
      saving := false } with
    nextId := s.nextId + 1 }).touchImage tm.grid core

/-- The node whose grid keeps an issue log that has no room yet (R429). -/
def State.logDue (s : State) (g : Nat) : Option (Nat × Nat) :=
  match (s.grid g).origin with
  | .node u n => if (s.bin (s.sub u).bin).recomputed n && !(s.grid g).replay && !((s.sub u).logAt.any fun p => p.1 == n) then
      some (u, n) else none
  | _ => none

/-- Reserve the room of the issue log that a grid keeps; its first team waits for it (R410, R429). -/
def State.reserveLog (s : State) (g : Nat) : Option State :=
  match s.logDue g with
  | none => some s
  | some (u, n) => (s.saveSlot (s.grid g).fe issueLogBytes).map fun a => s.modSub u fun k => { k with logAt := (n, a) :: k.logAt }

/-- Bring a member of a unit onto a core, if it fits. -/
def State.placeOne (s : State) (u : WaitUnit) (m : Nat × Nat) (core : Nat) : Option State :=
  let gr := s.grid u.grid
  let new := decide (s.teams.length ≤ m.1)
  let s := if new then { s with teams := s.teams ++ [Team.start u.grid m.2 gr.record] } else s
  (s.fit u.grid m.2 m.1 core).bind fun f =>
    let s := s.seat m.1 core f
    if new then (s.reserveLog u.grid).map fun s => s.modGrid u.grid fun g => { g with nextTeam := g.nextTeam + 1 } else some s

/-- Bring a member onto the first core of a list that takes it. -/
def State.placeAny (s : State) (u : WaitUnit) (m : Nat × Nat) (cores : List Nat) : Option State :=
  cores.findSome? fun c => s.placeOne u m c

/-- Bring members onto the cores of a list, each onto the first that takes it. -/
def State.placeAll (s : State) (u : WaitUnit) (ms : List (Nat × Nat)) (cores : List Nat) : Option State :=
  ms.foldl (fun s m => s.bind fun s => s.placeAny u m cores) (some s)

def clusterCores (cluster : Nat) : List Nat := (List.range 4).map fun i => 4 * cluster + i

/-- Members in the cohorts that stand together. -/
def cohorts (c : Nat) (ms : List (Nat × Nat)) : List (List (Nat × Nat)) :=
  ((ms.map fun m => m.2 / c).eraseDups).map fun k => ms.filter fun m => m.2 / c == k

/-- Place a unit so that its first member stands on the core: the other teams of a cohort on the cluster's other cores
(R70), those of a cooperative grid on whole clusters of the range, of which MINCL have to be there (R92). -/
def State.placeUnit (s : State) (u : WaitUnit) (core : Nat) : Option State :=
  let gr := s.grid u.grid
  let c := gr.record.cohort
  let whole := s.wholeClusters gr.fe
  match u.members with
  | [] => none
  | m :: ms =>
    if gr.record.coop then
      if whole.length < gr.record.minCl || !whole.contains (clusterOf core) then none
      else
        (s.placeOne u m core).bind fun s =>
          (cohorts c ms).foldl (fun s k => s.bind fun s =>
            (clusterOf core :: whole).findSome? fun w => s.placeAll u k (clusterCores w)) (some s)
    else (s.placeOne u m core).bind fun s => s.placeAll u ms (clusterCores (clusterOf core))

/-! ## Whose turn it is (R410, R411) -/

/-- What orders the units that wait for a core. -/
def State.unitRank (s : State) (u : WaitUnit) (core : Nat) : List Nat :=
  let gr := s.grid u.grid
  let low := u.members.foldl (fun m k => min m k.2) (2 ^ 32)
  [8 - gr.record.prio, if s.holderOf core = some gr.fe then 0 else 1, gr.fe, low, u.grid]

/-- Cores as they will be when the saves under way have ended and the banks held for saved teams have been spilled; the saved teams
keep their room in the save area. -/
def State.afterSaves (s : State) : State :=
  (List.range s.teams.length).foldl (fun s t =>
    if (s.team t).saving || ((s.team t).status == .saved && (s.team t).tilesAt != .area) then
      (s.freeBlocks t).modTeam t fun tm => { tm with status := .saved, saving := false, tilesAt := .area }
    else s) s

/-- Whether no unit before this one in the order would fit on the core. -/
def State.turnFor (s : State) (u : WaitUnit) (core : Nat) : Bool :=
  let k := s.unitRank u core
  let later := s.afterSaves
  s.allUnits.all fun o => o == u || lexLe k (s.unitRank o core) || (later.placeUnit o core).isNone

/-- Place or restore a unit whose turn it is on every core that it takes. -/
def State.give (s : State) (u : WaitUnit) (core : Nat) : Option State :=
  match s.placeUnit u core with
  | none => none
  | some s' => if u.members.all fun m => s.turnFor u (s'.team m.1).core then some s' else none

/-- The unit of a grid that may be placed. -/
def State.nextUnit (s : State) (g : Nat) : Option WaitUnit :=
  (s.unitsOf g).filter (fun u => !u.back) |>.foldl (fun b u => match b with
    | none => some u
    | some k => if lexLe (s.unitRank k 0) (s.unitRank u 0) then some k else some u) none

/-- TEAM_PLACEMENT (R26, R97, R100, R410): the next teams of a grid take the core, the first of them there. -/
def execTeamPlacement (grid core : Nat) (s : State) : Result :=
  .next (((s.nextUnit grid).bind fun u => s.give u core).getD s)

/-! ## Kernel images (R27, R50, R413, R476) -/

/-- R50: the header walk; the words that it marks, or none when the image is refused. -/
def walkHeaders (fuel : Nat) (words : List Word64) (i code : Nat) : Option (List Nat) :=
  match fuel with
  | 0 => none
  | fuel + 1 =>
    if i = code then some []
    else if code < i then none
    else
      let h := nth words i
      if 4 < Header.cls h then none
      else (walkHeaders fuel words (i + Header.count h + 2) code).map fun r => i :: r

/-- Whether the image of a grid still has to be loaded for a team on the core. -/
def State.imageDue (s : State) (g core : Nat) : Bool :=
  (s.imageOn g core).isNone && !(s.core core).failed && (s.teamsOn core).any fun t => (s.team t).grid == g

/-- Evict images that no resident team executes, the least recently launched first, until one fits (R27). -/
def State.evictImages (fuel : Nat) (s : State) (core need : Nat) : State :=
  match fuel with
  | 0 => s
  | fuel + 1 =>
    let c := s.core core
    if (c.images.map fun im => 8 * im.words.length).sum + need ≤ Config.clauseStoreBytes then s
    else
      let idle (im : Image) : Bool := (s.teamsOn core).all fun t => !s.imageIs (s.team t).grid im
      match c.images.reverse.find? idle with
      | none => s
      | some im => State.evictImages fuel (s.modCore core fun c => { c with images := c.images.filter fun k => k != im }) core need

/-- Write an image into a core's clause store; its cycles count for the front end that placed the incoming team (R413). -/
def State.putImage (s : State) (g core : Nat) (bs : List Byte) (marks : List Nat) : State :=
  let gr := s.grid g
  let n := gr.needs
  let words := (List.range ((bs.length + 7) / 8)).map fun i => BitVec.ofNat 64 (ofBytes ((bs.drop (8 * i)).take 8))
  let im : Image := ⟨gr.record.entry, n.codelen, words, marks, g⟩
  let s := s.evictImages (s.core core).images.length core n.image
  let cost := (n.image + 31) / 32
  let mine := s.holderOf core == some gr.fe
  s.modCore core fun c => { c with
    images := im :: c.images
    loading := none
    count := if mine then c.count + cost else c.count
    charges := if mine then c.charges else (gr.fe, cost) :: c.charges }

/-- Teams of a grid that cannot run for want of their image leave their cores for good. -/
def State.dropImageless (s : State) (g : Nat) : State :=
  s.forTeams g fun s t => if (s.team t).status != .resident || (s.imageOn g (s.team t).core).isSome then s
    else s.killForGood t

/-- R50: a refused image is handled as a malformed launch: a record, and nothing launches. A grid some of whose teams
already run fails instead when they have retired. -/
def State.refuseImage (s : State) (g : Nat) : State :=
  let gr := s.grid g
  let s := (s.dropImageless g).stopPlacing g
  let s := match gr.origin with
    | .ring i => s.post gr.fe (malformedLaunch (BitVec.ofNat 64 i) 0 3)
    | .node u n => s.post gr.fe (malformedLaunch (s.nodeIndex u n) 1 3)
    | _ => s
  let gone := (s.teamsOf g fun tm => tm.status != .dead).isEmpty
  match gr.origin with
  | .ring _ => if gone then s.modGrid g fun gr => { gr with retired := true } else s
  | _ => s

/-- Whether a stop need not wait for an access: it is complete, staged or not begun (R265), it waits for a page or a presence
bit, for another team (R298) or a buffer entry, or it is not free to go, as where it comes after one of these. -/
def State.accStops (s : State) (e : LogEntry) (a : LaneAcc) : Bool :=
  match a.status with
  | .done | .staged | .later | .behind | .presence _ _ | .ats | .fault _ | .trapping _ _ | .pulling _ _ _ | .ordered _
  | .stageWait _ _ => true
  | .ready _ => a.parked || !s.freeToGo e a
  | _ => false

/-- Whether a core's queues hold nothing that its intake has brought in and that goes on by itself (R26). -/
def State.queuesEmpty (s : State) (core : Nat) : Bool :=
  (s.log.all fun e => e.core != core || e.lanes.all fun a => s.accStops e a) &&
    s.cross.all fun x => (s.team x.team).core != core || (s.team x.team).status != .resident

/-- KERNEL_IMAGE_LOAD (R26, R27, R50, R413, R476): the image is read and walked, the core's intake is stopped, and the image is
written in once the core's queues have drained. -/
def execKernelImageLoad (grid core : Nat) (s : State) : Result :=
  let gr := s.grid grid
  let die := feDie gr.fe
  let n := gr.needs
  .next (if !s.imageDue grid core then s
    else
      match s.get die gr.fe .frontEnd gr.record.entry.toNat n.image with
      | .error p =>
        if s.pageRefused die gr.fe core p then ((s.dropRefused die gr.fe .frontEnd).dropImageless grid).stopPlacing grid
        else s.askPage die gr.fe core p
      | .ok (bs, s) =>
        let words := (List.range ((bs.length + 7) / 8)).map fun i => BitVec.ofNat 64 (ofBytes ((bs.drop (8 * i)).take 8))
        match if n.codelen % 8 = 0 then walkHeaders (n.codelen / 8 + 1) words 0 (n.codelen / 8) else none with
        | none => s.refuseImage grid
        | some marks => if s.queuesEmpty core then s.putImage grid core bs marks
          else s.modCore core fun c => { c with loading := some grid })

/-! ## The compactor (R101) -/

/-- Whether the owner of a block is quiet enough for it to move. -/
def State.mayMove (s : State) (b : Block) : Bool :=
  let tm := s.team b.team
  let cr := nth tm.crews b.crew
  if b.share = 0 then cr.bundle == 0 && cr.counter 0 == 0 && cr.counter 3 == 0 && cr.counter 4 == 0 && cr.outs.isEmpty
  else if b.share = 1 then (tm.crews.all fun cr => cr.counter 1 == 0 && cr.counter 2 == 0) && tm.absent.isEmpty
  else s.mops.all fun m => m.team != b.team

/-- COMPACTOR_MOVE (R101): a block moves to a free aligned place of its share, and its base is rewritten. -/
def execCompactorMove (core block first : Nat) (s : State) : Result :=
  let c := s.core core
  let b := nth c.blocks block
  let others := c.blocks.eraseIdx block
  let total := (s.gridOf b.team).record.granules b.share
  .next (if c.blocks.length ≤ block || b.size = 0 || !s.mayMove b || first % b.size != 0 || decide (total < first + b.size) ||
      !freeRange others b.share first b.size then s
    else
      let s := s.modCore core fun c => { c with blocks := upd c.blocks block fun b => { b with first := first } }
      if b.share = 0 then s.modCrew b.team b.crew fun cr => { cr with vbase := first }
      else if b.share = 1 then s.modTeam b.team fun tm => { tm with spadBase := first }
      else s.modTeam b.team fun tm => { tm with accBase := first })

/-! ## Saves (R70, R92, R237, R300, R411) -/

/-- Whether saving team `t` takes team `k` along: a mate of its cohort, a team of its cooperative grid, a team above
the head of its ordered grid. -/
def State.takesAlong (s : State) (t k : Nat) : Bool :=
  let a := s.team t
  let b := s.team k
  let gr := s.grid a.grid
  b.status == .resident && a.grid == b.grid &&
    (gr.record.coop || a.index / gr.record.cohort == b.index / gr.record.cohort ||
      (gr.record.ord && a.index == gr.head && decide (a.index < b.index)))

/-- A set of teams with all that have to be saved with them. -/
def State.saveClosure (fuel : Nat) (s : State) (ts : List Nat) : List Nat :=
  match fuel with
  | 0 => ts
  | fuel + 1 =>
    let more := (List.range s.teams.length).filter fun k => !ts.contains k && ts.any fun t => s.takesAlong t k
    if more.isEmpty then ts else State.saveClosure fuel s (ts ++ more)

/-- Teams stop at instruction boundaries (R237), with all that are saved with them. -/
def State.saveTeams (s : State) (ts : List Nat) : State :=
  (s.saveClosure (s.teams.length + 1) ts).foldl (fun s t =>
    if (s.team t).status = .resident then s.modTeam t fun tm => { tm with saving := true } else s) s

/-- Lowest priority on a core of a team that is not being saved, and when its last team was placed. -/
def State.lowestOn (s : State) (core : Nat) : Option (Nat × Nat) :=
  match s.teamsOn core with
  | [] => none
  | t :: ts => some ((t :: ts).foldl (fun m k => min m (s.gridOf k).record.prio) 8,
      (t :: ts).foldl (fun m k => max m (s.team k).placed) 0)

/-- Whether a front end's save area has room for the teams of a unit (R410). -/
def State.roomFor (s : State) (u : WaitUnit) : Bool :=
  let gr := s.grid u.grid
  (u.members.foldl (fun (s : Option State) m => s.bind fun s =>
    if (s.team m.1).status == .saved && decide (m.1 < s.teams.length) then some s
    else (s.saveSlot gr.fe gr.contextBytes).map fun a =>
      { s with teams := s.teams ++ [{ Team.start u.grid m.2 gr.record with status := .saved, saveAt := a }] })
    (s.reserveLog u.grid)).isSome

/-- Cores of a front end's range. -/
def State.coresIn (s : State) (fe : Nat) : List Nat := (List.range Config.cores).filter fun c => s.coreOpen fe c

/-- Whether a unit of a grid is ready, its room in the save area free, and finds no core, the saves under way counted as ended. -/
def State.starved (s : State) (u : WaitUnit) : Bool :=
  let later := s.afterSaves
  s.roomFor u && (s.coresIn (s.grid u.grid).fe).all fun c => (later.placeUnit u c).isNone

/-- Whether the unit would fit on a core once that core is emptied (R412). -/
def State.fitsEmptied (s : State) (u : WaitUnit) (core : Nat) : Bool :=
  let s := (s.teamsOn core).foldl (fun s t => s.modTeam t fun tm => { tm with saving := true }) s
  let later := s.afterSaves
  match u.members with
  | [] => false
  | m :: _ => (later.placeOne u m core).isSome

/-- PRIORITY_PREEMPT (R411): a ready team that finds no core has the core saved that hosts the lowest-priority team below
it, of such cores the one whose teams were placed last. -/
def execPriorityPreempt (grid core : Nat) (s : State) : Result :=
  let p := (s.grid grid).record.prio
  let better (a b : Nat × Nat) : Bool := decide (a.1 < b.1) || (a.1 == b.1 && decide (b.2 < a.2))
  .next (match (s.unitsOf grid).find? fun u => s.starved u && s.fitsEmptied u core with
    | none => s
    | some _ =>
      match s.lowestOn core with
      | none => s
      | some k =>
        if p ≤ k.1 || !s.coreOpen (s.grid grid).fe core then s
        else if (s.coresIn (s.grid grid).fe).any fun c => match s.lowestOn c with
            | none => false
            | some o => better o k then s
        else s.saveTeams (s.teamsOn core))

/-- QUANTUM_EXPIRY (R414): the count has passed QUANTUM while another front end of equal or higher priority waits. -/
def execQuantumExpiry (core : Nat) (s : State) : Result :=
  let c := s.core core
  .next (match s.holderOf core with
    | none => s
    | some h =>
      let q := (s.fe h).quantum.toNat
      let top := (s.teamsOn core).foldl (fun m t => if (s.gridOf t).fe = h then max m (s.gridOf t).record.prio else m) 0
      let wanted := s.allUnits.any fun u => (s.grid u.grid).fe != h && s.coreOpen (s.grid u.grid).fe core &&
        decide (top ≤ (s.grid u.grid).record.prio)
      if q ≠ 0 ∧ q < c.count ∧ wanted then s.modCore core fun c => { c with draining := true } else s)

/-- CORE_FAILURE (R29): the die controller reports the core and takes it out of placement; its teams move (R237). -/
def execCoreFailure (core : Nat) (s : State) : Result :=
  let s := s.modDie (core / Config.coresPerDie) fun d => { d with dieFail := d.dieFail ||| ((1 : BitVec 64) <<< (core % 64)) }
  .next ((s.modCore core fun c => { c with failed := true }).saveTeams (s.teamsOn core))

/-- CORE_RESTART (R208): the die controller restarts a core that hlt has stopped. -/
def execCoreRestart (core : Nat) (s : State) : Result := .next (s.modCore core fun c => { c with halted := false })

/-- Whether a cooperative grid whose range has lost clusters, and holds too few, is at a drain point (R417). -/
def State.drainPoint (s : State) (g : Nat) : Bool :=
  let gr := s.grid g
  let ts := s.teamsOf g fun tm => tm.status == .resident
  gr.record.coop && (s.fe gr.fe).cut && decide ((s.wholeClusters gr.fe).length < gr.record.minCl) && !ts.isEmpty &&
    ts.all fun m => (s.team m.1).crews.all fun cr => cr.threads.all fun th =>
      th.state == .exited || (th.state == .held && th.holdAt != .join)

/-- COOP_DRAIN_POINT (R417): the grid is saved whole. -/
def execCoopDrainPoint (grid : Nat) (s : State) : Result :=
  .next (if s.drainPoint grid then s.saveTeams ((s.teamsOf grid fun tm => tm.status == .resident).map Prod.fst) else s)

end Sys2Proof.Machine
end

