-- ==== Sys2Proof/Machine/ContextBytes.lean ====
section
/-! DEFINITION. The records of a saved context as bytes, and their reading back (R107, R108, R239 to R241, R296, R317,
R328, R349, R365, R386). What no record holds stays in the team (log 25). -/

namespace Sys2Proof.Machine

/-- Fields of a word, each with its lowest bit. -/
def packFields (l : List (Nat × Nat)) : Nat := l.foldl (fun x f => x + f.2 * 2 ^ f.1) 0

def zeros (n : Nat) : List Byte := List.replicate n 0

/-- Bytes filled up to a length. -/
def fillTo (n : Nat) (bs : List Byte) : List Byte := bs ++ zeros (n - bs.length)

/-- Bytes filled up to a 64-byte boundary. -/
def fill64 (bs : List Byte) : List Byte := fillTo (up64 bs.length) bs

/-! ## Team record (R108, R328, R349, R386) -/

def ConvState.code : ConvState → Nat
  | .idle => 0
  | .armed => 1
  | .started => 2

def ConvState.ofCode (k : Nat) : ConvState := if k = 1 then .armed else if k = 2 then .started else .idle

def Conv.word (k : Conv) : Nat :=
  packFields [(0, k.arrived.toNat), (64, k.setbase), (70, k.setcnt), (72, k.state.code), (74, k.armcrew), (80, k.armoff)]

def Conv.ofWord (x : Nat) : Conv where
  arrived := BitVec.ofNat 64 x
  setbase := bitsOf x 64 6
  setcnt := bitsOf x 70 2
  state := .ofCode (bitsOf x 72 2)
  armcrew := bitsOf x 74 6
  armoff := bitsOf x 80 18

def Ring.word (r : Ring) : Nat :=
  packFields [(31, r.stages), (35, r.free), (40, r.prod), (44, r.cons), (48, r.ph.toNat)]

def Ring.ofWord (x : Nat) : Ring where
  stages := bitsOf x 31 4
  free := bitsOf x 35 5
  prod := bitsOf x 40 4
  cons := bitsOf x 44 4
  ph := BitVec.ofNat 16 (bitsOf x 48 16)

def DnSlot.byte (d : DnSlot) : Nat := packFields [(0, d.nb), (7, if d.loaded then 1 else 0)]

def DnSlot.ofByte (x : Nat) : DnSlot := ⟨x / 128 % 2 == 1, x % 32⟩

/-- The team record without tiles. -/
def Team.record (tm : Team) : List Byte :=
  fillTo 4096 ((tm.tregs.flatMap fun w => bytesOf 32 w.toNat) ++ (tm.conv.flatMap fun k => bytesOf 16 k.word) ++
    (tm.rings.flatMap fun r => bytesOf 8 r.word) ++ (tm.stencils.flatMap fun w => bytesOf 64 w.toNat) ++
    tm.dnslots.flatMap fun d => bytesOf 1 d.byte)

/-- Bytes of a tile (R108, R365). -/
def Team.tileBytes (tm : Team) (i : Nat) : List Byte :=
  (List.range 1024).flatMap fun j => bytesOf 4 (Sparse.get tm.accs (1024 * i + j)).toNat

/-- Field `i` of `n` bytes at byte `o` of a record. -/
def cellAt (bs : List Byte) (o n i : Nat) : Nat := ofBytes ((bs.drop (o + n * i)).take n)

/-- The bits of a tile register that are not reserved (R5, R323). -/
def tileBits : BitVec 256 := ~~~(0xFF <<< 192 ||| 3 <<< 134 ||| 0xFF <<< 56)

/-- Read a team record back; reserved bits read as zero (R5). -/
def Team.withRecord (tm : Team) (bs : List Byte) : Team :=
  { tm with
    tregs := (List.range 16).map fun i => BitVec.ofNat 256 (cellAt bs 0 32 i) &&& tileBits
    conv := (List.range 8).map fun i => Conv.ofWord (cellAt bs 512 16 i)
    rings := (List.range 16).map fun i => Ring.ofWord (cellAt bs 640 8 i)
    stencils := (List.range 8).map fun i => BitVec.ofNat 512 (cellAt bs 768 64 i)
    dnslots := (List.range 8).map fun i => DnSlot.ofByte (cellAt bs 1280 1 i) }

/-- Read tiles back; of a wide block's TAG bits those that R365 does not name are ignored. -/
def Team.withTiles (tm : Team) (wide n : Nat) (bs : List Byte) : Team :=
  let clean (i j x : Nat) : Nat :=
    if i < 4 * wide ∧ j % 4 = 3 then
      let e := (1024 * (i % 4) + j) / 4
      if e = 0 then x else if e = 1 then x % 2 ^ 19 else x % 2 ^ 17
    else x
  { tm with accs := (List.range n).foldl (fun a i => (List.range 1024).foldl (fun a j =>
      Sparse.set a (1024 * i + j) (BitVec.ofNat 32 (clean i j (cellAt bs 0 4 (1024 * i + j))))) a) tm.accs }

/-! ## Crew and thread records (R107, R240) -/

def Crew.record (cr : Crew) (vregs : Nat) : List Byte :=
  fillTo 576 (((List.range 128).flatMap fun n => bytesOf 4 (cr.s n).toNat) ++
    ((List.range 16).flatMap fun n => bytesOf 2 (cr.p n).toNat) ++ ((List.range 8).flatMap fun n => bytesOf 1 (cr.counter n)) ++
    bytesOf 8 cr.fpc.toNat ++ bytesOf 1 cr.fcount) ++
  (List.range vregs).flatMap fun n => (List.range 16).flatMap fun l => bytesOf 4 (cr.v n l).toNat

/-- Operations that counter `n` counts when its value is restored: those that the model keeps, and where the value is
greater, others that nothing ends. A child grid that has retired while the team was saved is counted no more (R199). -/
def Crew.recount (cr : Crew) (n value : Nat) : List Counted :=
  let have_ := cr.counted.filter fun k => k.ctr == n
  have_.take value ++ (if n = 5 then [] else List.replicate (value - have_.length) ⟨0, n, false⟩)

/-- Read a crew record back (R107): WAITS gives the counters, and p15 is ignored. -/
def Crew.withRecord (cr : Crew) (vregs : Nat) (bs : List Byte) : Crew :=
  { cr with
    counted := (List.range 6).flatMap fun n => cr.recount n (cellAt bs 544 1 n % 64)
    sregs := (List.range 128).foldl (fun a n => Sparse.set a n (BitVec.ofNat 32 (cellAt bs 0 4 n))) []
    preds := (List.range 15).foldl (fun a n => Sparse.set a n (BitVec.ofNat 16 (cellAt bs 512 2 n))) []
    w6 := cellAt bs 544 1 6 % 64
    w7 := cellAt bs 544 1 7 % 64
    fpc := BitVec.ofNat 64 (cellAt bs 552 8 0)
    fcount := cellAt bs 560 1 0 % 8
    vregs := (List.range (16 * vregs)).foldl (fun a k => Sparse.set a k (BitVec.ofNat 32 (cellAt bs 576 4 k))) [] }

def ThreadState.code : ThreadState → Nat
  | .active => 0
  | .held => 1
  | .parked => 2
  | .exited => 3

def ThreadState.ofCode (k : Nat) : ThreadState :=
  if k = 0 then .active else if k = 1 then .held else if k = 2 then .parked else .exited

def HoldAt.code : HoldAt → Nat
  | .join => 0
  | .bar b => b.val + 1
  | .cohort => 5

def HoldAt.ofCode (k : Nat) : HoldAt :=
  if k = 0 then .join else if k < 5 then .bar (Fin.ofNat 4 (k - 1)) else .cohort

def ParkWhy.code : ParkWhy → Nat
  | .presence => 0
  | .pageFault => 1
  | .report => 2
  | .breakpoint => 3

def ParkWhy.ofCode (k : Nat) : ParkWhy :=
  if k = 0 then .presence else if k = 1 then .pageFault else if k = 2 then .report else .breakpoint

/-- A loop stack as the 640 bits of LOOP or HLOOP. -/
def loopBits (l : List LoopEntry) : Nat :=
  packFields ((List.range l.length).flatMap fun j =>
    let e := nth l j
    [(160 * j, e.count.toNat), (160 * j + 32, e.start.toNat), (160 * j + 96, e.stop.toNat)])

def loopEntry (x j : Nat) : LoopEntry where
  count := BitVec.ofNat 32 (bitsOf x (160 * j) 32)
  start := BitVec.ofNat 64 (bitsOf x (160 * j + 32) 64)
  stop := BitVec.ofNat 64 (bitsOf x (160 * j + 96) 64)

def Thread.record (th : Thread) : List Byte :=
  bytesOf 256 (packFields [(0, th.state.code), (2, if th.inh then 1 else 0), (8, th.parkWhy.code), (10, th.holdAt.code),
    (13, th.loops.length), (32, th.mflags.toNat), (64, th.fpflags.toNat), (96, th.fptrap.toNat), (128, th.tcause.toNat),
    (160, th.tinfo.toNat), (192, th.pix.toNat), (224, th.draw.toNat), (256, th.pc.toNat), (320, loopBits th.loops),
    (960, th.hpc.toNat), (1024, loopBits th.hloops)])

/-- Read a thread record back; reserved bits read as zero (R5). HLOOP has no depth of its own: its entries end at the first
whose count is 0. -/
def Thread.withRecord (th : Thread) (bs : List Byte) : Thread :=
  let x := ofBytes (bs.take 256)
  let w (lo : Nat) : Word32 := BitVec.ofNat 32 (bitsOf x lo 32)
  { th with
    state := .ofCode (bitsOf x 0 2)
    inh := bitsOf x 2 1 == 1
    parkWhy := .ofCode (bitsOf x 8 2)
    holdAt := .ofCode (bitsOf x 10 3)
    mflags := w 32 &&& 0x3F
    fpflags := w 64 &&& 0x1F
    fptrap := w 96 &&& 0x1F
    tcause := w 128 &&& 0x3F
    tinfo := w 160
    pix := w 192
    draw := w 224
    pc := BitVec.ofNat 64 (bitsOf x 256 64)
    loops := (List.range (bitsOf x 13 3)).map fun j => loopEntry (bitsOf x 320 640) j
    hpc := BitVec.ofNat 64 (bitsOf x 960 64)
    hloops := ((List.range 4).map fun j => loopEntry (bitsOf x 1024 640) j).takeWhile fun e => e.count != 0 }

/-! ## Barriers (R241) -/

def Barrier.word (b : Barrier) : Nat :=
  packFields [(0, if b.phase then 1 else 0), (1, if b.teamArr then 1 else 0), (8, b.target), (16, if b.tset then 1 else 0),
    (64, b.arrived.toNat)]

def Barrier.ofWord (x : Nat) : Barrier where
  phase := bitsOf x 0 1 == 1
  teamArr := bitsOf x 1 1 == 1
  target := bitsOf x 8 7
  tset := bitsOf x 16 1 == 1
  arrived := BitVec.ofNat 64 (bitsOf x 64 64)

/-! ## Staged entries (R296) -/

def StagedKind.code : StagedKind → Nat
  | .store => 0
  | .atomic => 1
  | .reduction => 2
  | .launch => 3
  | .task => 1

/-- AOP of a staged entry; that of a task instruction, for which R296 names no kind, is 15 (log 70). -/
def Staged.aopCode (k : Staged) : Nat := if k.kind = .task then 15 else AOp.code k.aop

def StagedKind.ofCode (k : Nat) : StagedKind :=
  if k = 0 then .store else if k = 1 then .atomic else if k = 2 then .reduction else .launch

def Staged.record (k : Staged) : List Byte :=
  bytesOf 32 (packFields [(0, k.seq % 2 ^ 31), (31, k.kind.code), (33, MSize.code k.size), (36, k.aopCode),
    (40, ATy.code k.ty), (44, k.lane), (48, k.crew), (54, (k.dreg.map Dst.code).getD 0), (64, k.addr.toNat % 2 ^ 56),
    (128, k.data.toNat), (192, k.data2.toNat)])

/-- Read a staged entry back over the one that the model keeps with its sequence number. What no record holds of it is gone: its
place is looked for again, its stamp is covered by the fence of the save (R288), which has read its crew's ports. -/
def Staged.ofRecord (old : List Staged) (bs : List Byte) : Staged :=
  let x := ofBytes (bs.take 32)
  let k := (old.find? fun k => k.seq == bitsOf x 0 31).getD default
  { k with
    pa := none
    stamp := noClock
    sys := false
    waiting := false
    seq := bitsOf x 0 31
    kind := if bitsOf x 31 2 = 1 ∧ bitsOf x 36 4 = 15 then .task else .ofCode (bitsOf x 31 2)
    size := (MSize.ofCode (bitsOf x 33 3)).getD k.size
    aop := (AOp.ofCode (bitsOf x 36 4)).getD k.aop
    ty := (ATy.ofCode (bitsOf x 40 4)).getD k.ty
    lane := bitsOf x 44 4
    crew := bitsOf x 48 6
    dreg := if bitsOf x 31 2 = 1 then Dst.ofCode (bitsOf x 54 10) else none
    addr := BitVec.ofNat 64 (bitsOf x 64 56)
    data := BitVec.ofNat 64 (bitsOf x 128 64)
    data2 := BitVec.ofNat 64 (bitsOf x 192 64) }

def Team.bufferRecord (tm : Team) : List Byte :=
  fill64 (bytesOf 64 (packFields [(0, tm.staged.length), (16, tm.seqNext % 2 ^ 31)]) ++ tm.staged.flatMap Staged.record)

/-! ## Operand-log entries (R317) -/

/-- Lanes parked at an entry, and lanes that have not completed. -/
def LogEntry.parkedMask (e : LogEntry) : Mask := e.lanes.foldl (fun m a => if a.parked then m ||| e.lanesFor a.lane else m) 0
def LogEntry.pendMask (e : LogEntry) : Mask :=
  e.lanes.foldl (fun m a => if a.status.pends then m ||| e.lanesFor a.lane else m) 0

/-- Whether DATA of an entry's lanes holds a datum: it is zero for gathers, scatters and loads, a launch's among them. -/
def MemKind.hasDatum : MemKind → Bool
  | .ldx _ _ _ _ _ _ | .stx _ _ _ _ _ _ | .ld _ _ | .stload _ | .launch _ => false
  | _ => true

/-- The access of a lane that its place in an entry shows: that of its element %pix, complete or not. -/
def LogEntry.shown (e : LogEntry) (pix : Nat → Nat) (l : Nat) : Option LaneAcc :=
  e.lanes.find? fun a => (e.lanesFor a.lane).getLsbD l && (!e.kind.elems || a.elem == pix l)

/-- What a lane's place in an entry holds: DATA and ADDR. The compare value of a cas stands in the low 64 bits of DATA and the swap
value in the high ones, whatever the width (the model's choice, log 25). -/
def LogEntry.laneData (e : LogEntry) (pix : Nat → Nat) (l : Nat) : Nat × Nat :=
  match e.shown pix l with
  | none => (0, 0)
  | some a => (if e.kind.hasDatum then a.data.toNat + a.data2.toNat * 2 ^ 64 else 0, a.addr.toNat)

def LogEntry.record (e : LogEntry) (pix : Nat → Nat) : List Byte :=
  bytesOf 512 (packFields ([(346, e.crew), (352, e.pendMask.toNat), (368, e.parkedMask.toNat), (384, e.word.toNat),
    (448, e.pc.toNat)] ++ (List.range 16).flatMap fun l =>
      [(512 + 64 * l, (e.laneData pix l).2), (1536 + 128 * l, (e.laneData pix l).1)]))

/-- Read an entry back over the one that the model keeps: a lane whose PEND bit is clear is complete. -/
def LogEntry.withRecord (e : LogEntry) (pix : Nat → Nat) (bs : List Byte) : LogEntry :=
  let x := ofBytes (bs.take 512)
  let back (a : LaneAcc) : LaneAcc :=
    let d := bitsOf x (1536 + 128 * a.l) 128
    { a with
      addr := BitVec.ofNat 64 (bitsOf x (512 + 64 * a.l) 64)
      data := if e.kind.hasDatum then BitVec.ofNat 64 d else a.data
      data2 := if e.kind.hasDatum then BitVec.ofNat 64 (d / 2 ^ 64) else a.data2 }
  { e with
    crew := bitsOf x 346 6
    word := BitVec.ofNat 64 (bitsOf x 384 64)
    pc := BitVec.ofNat 64 (bitsOf x 448 64)
    lanes := e.lanes.map fun a =>
      if !a.status.pends then a
      else if bitsOf x (352 + a.l) 1 = 0 then { a with status := .done, parked := false }
      else { if (e.shown pix a.l).map LaneAcc.lane = some a.lane then back a else a with parked := bitsOf x (368 + a.l) 1 == 1 } }

/-- Entries of a team with parked lanes. -/
def State.parkedEntries (s : State) (t : Nat) : List LogEntry := s.log.filter fun e => e.team == t && e.parkedMask != 0

/-- %pix of the lanes of an entry's crew. -/
def State.pixOf (s : State) (e : LogEntry) (l : Nat) : Nat := ((s.crew e.team e.crew).th l).pix.toNat

def State.logRecord (s : State) (t : Nat) : List Byte :=
  let es := s.parkedEntries t
  bytesOf 64 es.length ++ es.flatMap fun e => e.record (s.pixOf e)

/-! ## The whole context (R239) -/

/-- The records of a team in their order, the tiles given. -/
def State.contextOf (s : State) (t : Nat) (tiles : List Byte) : List Byte :=
  let tm := s.team t
  let n := (s.gridOf t).needs
  tm.record ++ tiles ++
    ((List.range tm.crews.length).flatMap fun c =>
      let cr := nth tm.crews c
      cr.record n.vregs ++ (List.range 16).flatMap fun l => (cr.th l).record) ++
    (fillTo 128 (tm.bars.flatMap fun b => bytesOf 16 b.word)) ++ tm.bufferRecord ++ fill64 (s.logRecord t) ++
    Sparse.getList tm.spad 0 n.spadb

/-- Write bytes at a device-physical address, line by line. -/
def State.writeLines (fuel : Nat) (s : State) (fe pa : Nat) (bs : List Byte) : State :=
  match fuel with
  | 0 => s
  | fuel + 1 =>
    if bs.isEmpty then s
    else
      let k := 128 - pa % 128
      State.writeLines fuel (s.writeMem none fe pa (bs.take k) noClock) fe (pa + k) (bs.drop k)

def State.writeBytes (s : State) (fe pa : Nat) (bs : List Byte) : State := s.writeLines (bs.length / 128 + 2) fe pa bs

/-- Bytes of one crew with its threads in a context. -/
def Needs.crewBytes (n : Needs) : Nat := 576 + 64 * n.vregs + 4096

/-- The parts of a context that start at byte `a`: where its barrier record, staged entries, log entries and scratchpad
image begin. -/
def State.contextParts (s : State) (t a : Nat) : Nat × Nat × Nat × Nat :=
  let n := (s.gridOf t).needs
  let bars := a + 4096 + 4096 * n.atiles + (s.team t).crews.length * n.crewBytes
  let buf := bars + 128
  let count := ofBytes (Sparse.getList s.mem buf 2)
  let log := buf + up64 (64 + 32 * count)
  let pad := log + up64 (64 + 512 * (ofBytes (Sparse.getList s.mem log 1) % 128))
  (bars, buf, log, pad)

/-- Read a context back, through the shared cache (R252, R253), into a team that stands on its core; `tiles` says whether its tiles
come from the context. -/
def State.readContext (s : State) (t a : Nat) (tiles : Bool) : State :=
  let tm := s.team t
  let n := (s.gridOf t).needs
  let get (o k : Nat) : List Byte := Sparse.getList s.mem o k
  let (bars, buf, log, pad) := s.contextParts t a
  let s := s.touchLines (s.gridOf t).fe a (pad + n.spadb - a) false
  let crews := (List.range tm.crews.length).map fun c =>
    let o := a + 4096 + 4096 * n.atiles + c * n.crewBytes
    let cr := (nth tm.crews c).withRecord n.vregs (get o (576 + 64 * n.vregs))
    { cr with threads := (List.range 16).map fun l =>
        (cr.th l).withRecord (get (o + 576 + 64 * n.vregs + 256 * l) 256) }
  let head := ofBytes (get buf 64)
  let staged := (List.range (bitsOf head 0 16)).map fun i => Staged.ofRecord tm.staged (get (buf + 64 + 32 * i) 32)
  let tm := tm.withRecord (get a 4096)
  let tm := if tiles then tm.withTiles n.wblocks n.atiles (get (a + 4096) (4096 * n.atiles)) else tm
  let ids := (s.parkedEntries t).map LogEntry.id
  let s := s.modTeam t fun _ => { tm with
    crews := crews
    bars := (List.range 5).map fun i => Barrier.ofWord (ofBytes (get (bars + 16 * i) 16))
    staged := staged
    seqNext := bitsOf head 16 31
    spad := Sparse.setList [] 0 (get pad n.spadb)
    absent := [] }
  (List.range ids.length).foldl (fun s i =>
    let id := nth ids i
    { s with log := s.log.map fun e => if e.id = id then e.withRecord (s.pixOf e) (get (log + 64 + 512 * i) 512) else e }) s

end Sys2Proof.Machine
end

