-- ==== Sys2Proof/Machine/Fabric.lean ====
section
/-! DEFINITION. Wenand links: frames, the exponent code, the channel tables, acknowledgement and retry, training and
failure (R445 to R449). -/

namespace Sys2Proof.Machine

/-! ## Formats (R109, R445, R446) -/

/-- Exponent bits, element bits and bias of a coded format; none for raw. -/
def wireFormat (fmt : Nat) : Option (Nat × Nat × Nat) :=
  match fmt with
  | 1 => some (8, 32, 127)
  | 2 => some (8, 16, 127)
  | 3 => some (5, 16, 15)
  | 4 => some (5, 8, 15)
  | 5 => some (4, 8, 7)
  | _ => none

def flitBytes : Nat := 256

/-- The fresh table of a format (R448). -/
def freshTable (fmt : Nat) : List (Nat × Nat) :=
  match wireFormat fmt with
  | some (e, _, bias) => (List.range 16).map fun r => ((bias - 1 + 2 ^ e - r) % 2 ^ e, 0)
  | none => []

/-- Fresh tables of eight channels by five formats. -/
def freshTables : List (List (Nat × Nat)) := (List.range 40).map fun i => freshTable (i % 5 + 1)

def tableIndex (chan fmt : Nat) : Nat := 5 * chan + (fmt - 1)

/-! ## Elements of a flit -/

/-- Exponent field and the other bits of an element. -/
def splitElem (e w x : Nat) : Nat × Nat := (bitsOf x (w - 1 - e) e, bitsOf x 0 (w - 1 - e) + x / 2 ^ (w - 1) % 2 * 2 ^ (w - 1 - e))

def joinElem (e w exp rest : Nat) : Nat :=
  bitsOf rest 0 (w - 1 - e) + exp * 2 ^ (w - 1 - e) + bitsOf rest (w - 1 - e) 1 * 2 ^ (w - 1)

/-- The elements of a flit. -/
def flitElems (w : Nat) (flit : List Byte) : List Nat :=
  (List.range (flitBytes * 8 / w)).map fun j => cellAt flit 0 (w / 8) j

def exponents (fmt : Nat) (flit : List Byte) : List Nat :=
  match wireFormat fmt with
  | some (e, w, _) => (flitElems w flit).map fun x => (splitElem e w x).1
  | none => []

/-! ## The code (R446) -/

/-- Bits of a number, the most significant first. -/
def bitsDown (n x : Nat) : List Bool := (List.range n).map fun i => x.testBit (n - 1 - i)

/-- Rank of an exponent in a table. -/
def rankOf (table : List (Nat × Nat)) (x : Nat) : Option Nat := (List.range table.length).find? fun r => (nth table r).1 == x

/-- The code of an exponent, in the order in which its bits are emitted. -/
def expCode (table : List (Nat × Nat)) (e x : Nat) : List Bool :=
  match rankOf table x with
  | some r => if r < 8 then false :: bitsDown 3 r else true :: false :: bitsDown 3 (r - 8)
  | none => true :: true :: bitsDown e x

/-- Bits in ascending positions as bytes, padded with zeros. -/
def bytesOfBits (bs : List Bool) : List Byte :=
  (List.range ((bs.length + 7) / 8)).map fun i =>
    BitVec.ofNat 8 ((List.range 8).foldl (fun x j => if bs.getD (8 * i + j) false then x + 2 ^ j else x) 0)

/-- The payload of a flit and whether it is coded. -/
def codeFlit (table : List (Nat × Nat)) (fmt : Nat) (flit : List Byte) : List Byte × Bool :=
  match wireFormat fmt with
  | none => (flit, false)
  | some (e, w, _) =>
    let els := (flitElems w flit).map (splitElem e w)
    let rest := bytesOfBits (els.flatMap fun x => (List.range (w - e)).map fun i => x.2.testBit i)
    let code := bytesOfBits (els.flatMap fun x => expCode table e x.1)
    if flitBytes ≤ rest.length + code.length then (flit, false) else (rest ++ code, true)

/-- The exponent that stands at a bit of a payload, and the bit after its code. -/
def readCode (table : List (Nat × Nat)) (e x p : Nat) : Nat × Nat :=
  let up (n o : Nat) : Nat := (List.range n).foldl (fun v i => 2 * v + bitsOf x (o + i) 1) 0
  if !x.testBit p then ((nth table (up 3 (p + 1))).1, p + 4)
  else if !x.testBit (p + 1) then ((nth table (8 + up 3 (p + 2))).1, p + 5)
  else (up e (p + 2), p + 2 + e)

def readCodes (table : List (Nat × Nat)) (e x : Nat) : Nat → Nat → List Nat
  | 0, _ => []
  | n + 1, p =>
    let (v, q) := readCode table e x p
    v :: readCodes table e x n q

/-- The source flit of a payload. -/
def decodeFlit (table : List (Nat × Nat)) (fmt : Nat) (coded : Bool) (payload : List Byte) : List Byte :=
  match wireFormat fmt with
  | none => payload
  | some (e, w, _) =>
    if !coded then payload
    else
      let x := ofBytes payload
      let n := flitBytes * 8 / w
      let exps := readCodes table e x n (((w - e) * n + 7) / 8 * 8)
      (List.range n).flatMap fun j => bytesOf (w / 8) (joinElem e w (nth exps j) (bitsOf x ((w - e) * j) (w - e)))

/-! ## Tables (R447) -/

/-- Insert after every entry of at least its score. -/
def insertScore (x : Nat × Nat) : List (Nat × Nat) → List (Nat × Nat)
  | [] => [x]
  | y :: r => if y.2 < x.2 then x :: y :: r else y :: insertScore x r

/-- The table after a flit with the exponents. -/
def nextTable (table : List (Nat × Nat)) (e : Nat) (exps : List Nat) : List (Nat × Nat) :=
  let n (x : Nat) : Nat := exps.count x
  let t := table.map fun p => (p.1, min (p.2 / 2 + n p.1) 65535)
  let y := (List.range (2 ^ e)).foldl (fun b x =>
    if (rankOf t x).isSome then b
    else match b with
      | none => some x
      | some z => if n z < n x then some x else b) none
  let t := match y with
    | some x => if (nth t 15).2 < n x then upd t 15 fun _ => (x, n x) else t
    | none => t
  t.foldl (fun r x => insertScore x r) []

/-- One direction of a link after a flit of a channel and format. -/
def LinkDir.learn (d : LinkDir) (chan fmt : Nat) (flit : List Byte) : LinkDir :=
  match wireFormat fmt with
  | none => d
  | some (e, _, _) => { d with tables := upd d.tables (tableIndex chan fmt) fun t => nextTable t e (exponents fmt flit) }

/-! ## Frames (R445) -/

/-- A data frame, with its CRC over header and payload. -/
def dataFrame (seq chan fmt : Nat) (coded : Bool) (payload : List Byte) : List Byte :=
  let h := packFields [(3, chan), (7, if coded then 1 else 0), (8, fmt), (11, payload.length), (20, seq)]
  bytesOf 4 h ++ bytesOf 4 (crc32c (bytesOf 8 h ++ payload)).toNat ++ payload

def KeptFrame.bytes (k : KeptFrame) : List Byte := dataFrame k.seq.toNat k.chan.val k.fmt.val k.coded k.payload

/-- Whether the bytes of a frame stand as a data frame: its CRC holds and no code is reserved. -/
def frameOk (bs : List Byte) : Bool :=
  let h := ofBytes (bs.take 8)
  let payload := bs.drop 8
  let raw := bitsOf h 8 3 == 0
  let coded := bitsOf h 7 1 == 1
  bitsOf h 0 3 == 0 && bitsOf h 6 1 == 0 && decide (bitsOf h 8 3 < 6) && bitsOf h 11 9 == payload.length &&
    decide (1 ≤ payload.length) && decide (payload.length ≤ flitBytes) && !(raw && coded) &&
    (coded || payload.length == flitBytes) &&
    bitsOf h 32 32 == (crc32c (bytesOf 8 (h % 2 ^ 32) ++ payload)).toNat

/-- A control frame: KIND 1 acknowledges the frames up to SEQ, 2 asks for those from SEQ on again, 3 retrains. The spec gives its
payload no meaning, and so it is free (log 34). -/
def controlFrame (kind : Nat) (seq : BitVec 12) : List Byte :=
  let payload := (Config.freeByte kind :: Config.controlPayload kind seq.toNat).take flitBytes
  let h := packFields [(0, kind), (11, payload.length), (20, seq.toNat)]
  bytesOf 4 h ++ bytesOf 4 (crc32c (bytesOf 8 h ++ payload)).toNat ++ payload

/-- The SEQ that a control frame names, where its check holds and no code is reserved (R445). -/
def controlSeq (kind : Nat) (bs : List Byte) : Option (BitVec 12) :=
  let h := ofBytes (bs.take 8)
  let payload := bs.drop 8
  if bitsOf h 0 3 == kind && bitsOf h 6 1 == 0 && decide (bitsOf h 8 3 < 6) && bitsOf h 11 9 == payload.length &&
      decide (1 ≤ payload.length) && decide (payload.length ≤ flitBytes) &&
      bitsOf h 32 32 == (crc32c (bytesOf 8 (h % 2 ^ 32) ++ payload)).toNat then
    some (BitVec.ofNat 12 (bitsOf h 20 12))
  else none

/-- A frame is discarded and answered with a retry request for the first SEQ that the receiver lacks (R445, R449). -/
def Link.askAgain (k : Link) : Link := k.send (.frame (controlFrame 2 k.rx.seq))

/-- Code a flit with the sender's tables and send it. -/
def Link.sendFlit (k : Link) (seq : BitVec 12) (chan : Fin 8) (fmt : Fin 6) (flit : List Byte) : Link × KeptFrame :=
  let (payload, coded) := codeFlit (nth k.tx.tables (tableIndex chan.val fmt.val)) fmt.val flit
  let f : KeptFrame := ⟨seq, chan, fmt, flit, payload, coded⟩
  ({ k.send (.frame f.bytes) with tx := k.tx.learn chan.val fmt.val flit }, f)

/-- The sender's side: the frame that the event names gives channel and format in its header and the source flit after
it. -/
def Link.sendFrame (k : Link) (frame : List Byte) : Link :=
  let h := ofBytes (frame.take 8)
  let flit := fillTo flitBytes ((frame.drop 8).take flitBytes)
  if 6 ≤ bitsOf h 8 3 then k
  else
    let (k, f) := k.sendFlit k.tx.seq (Fin.ofNat 8 (bitsOf h 3 3)) (Fin.ofNat 6 (bitsOf h 8 3)) flit
    { k with tx := { k.tx with seq := k.tx.seq + 1, kept := k.tx.kept ++ [f] } }

/-- The receiver's side (R447, R449): the frame is accepted, or discarded with a retry request. -/
def Link.receiveFrame (k : Link) (frame : List Byte) : Link :=
  let h := ofBytes (frame.take 8)
  if !frameOk frame || bitsOf h 20 12 != k.rx.seq.toNat then k.askAgain
  else
    let chan := bitsOf h 3 3
    let fmt := bitsOf h 8 3
    let flit := decodeFlit (nth k.rx.tables (tableIndex chan fmt)) fmt (bitsOf h 7 1 == 1) (frame.drop 8)
    let k := { k.send (.frame (controlFrame 1 k.rx.seq)) with received := k.received ++ [(chan, fmt, flit)] }
    { k with rx := { k.rx.learn chan fmt flit with seq := k.rx.seq + 1 } }

/-- WENAND_DATA_FRAME (R445 to R449): a frame leaves or comes in; nothing crosses an untrained link. -/
def execWenandDataFrame (link : Nat) (incoming : Bool) (frame : List Byte) (s : State) : Result :=
  .next (if !(s.link link).trained then s
    else s.modLink link fun k => if incoming then k.receiveFrame frame else k.sendFrame frame)

/-- Kept frames up to the one named are kept no longer. -/
def Link.acknowledged (k : Link) (seq : BitVec 12) : Link :=
  if k.tx.kept.any fun f => f.seq == seq then
    { k with tx := { k.tx with kept := (k.tx.kept.dropWhile fun f => f.seq != seq).drop 1 } }
  else k

/-- Kept frames from the SEQ named leave again, byte for byte. -/
def Link.resend (k : Link) (seq : BitVec 12) : Link :=
  (k.tx.kept.dropWhile fun f => f.seq != seq).foldl (fun k f => k.send (.frame f.bytes)) k

/-- A control frame comes in on a link. -/
def State.control (s : State) (link kind : Nat) (frame : List Byte) (act : Link → BitVec 12 → Link) : State :=
  if !(s.link link).trained then s
  else s.modLink link fun k => match controlSeq kind frame with
    | some seq => act k seq
    | none => k.askAgain

/-- WENAND_ACKNOWLEDGEMENT (R449). -/
def execWenandAcknowledgement (link : Nat) (frame : List Byte) (s : State) : Result :=
  .next (s.control link 1 frame Link.acknowledged)

/-- WENAND_RETRY_REQUEST (R449). -/
def execWenandRetryRequest (link : Nat) (frame : List Byte) (s : State) : Result :=
  .next (s.control link 2 frame Link.resend)

/-- Reset the tables, and code and send every kept flit afresh (R448, R449). -/
def Link.restart (k : Link) : Link :=
  let old := k.tx.kept
  let k := { k with tx := { k.tx with tables := freshTables, kept := [] }, rx := { k.rx with tables := freshTables } }
  old.foldl (fun k f =>
    let (k, g) := k.sendFlit f.seq f.chan f.fmt f.flit
    { k with tx := { k.tx with kept := k.tx.kept ++ [g] } }) k

/-- Pulls under way to a peer are asked for again, from the copy that the source still holds (R457). -/
def State.pullAgain (s : State) (link : Nat) : State :=
  (List.range 16).foldl (fun s fe =>
    let f := s.fe fe
    if f.migState = .resumed ∧ (nth (s.die (2 * (fe / 8))).routes f.migPeer.toNat).getLsbD link then
      f.landing.foldl (fun s k =>
        if k.pstate = 1 then s.sendPeer (2 * (fe / 8)) f.migPeer.toNat (.pull (peerOffset k.src / 2 ^ 21)) else s) s
    else s) s

/-- WENAND_RETRAIN (R448, R449, R457). -/
def execWenandRetrain (link : Nat) (s : State) : Result :=
  .next (if !(s.link link).trained then s
    else (s.modLink link fun k => (k.send (.frame (controlFrame 3 k.tx.seq))).restart).pullAgain link)

/-- Whether a route of some die names a link (R473). -/
def State.routeNames (s : State) (link : Nat) : Bool := s.dies.any fun d => d.routes.any fun m => m.getLsbD link

/-- WENAND_LINK_TRAINED (R448, R450, R473): a link that a route names is trained with reset tables; peer accesses that
waited for it leave, and pulls that its failure broke off start again (R457). -/
def execWenandLinkTrained (link : Nat) (s : State) : Result :=
  .next (if s.routeNames link && !(s.link link).trained then
    (s.modLink link fun k => { k with trained := true }.restart).flushOutbox.pullAgain link
  else s)

/-- WENAND_LINK_FAILURE (R450, R457): nothing crosses the link until it is trained again; a pull under way then starts again
(`State.pullAgain`), its hand-off standing. -/
def execWenandLinkFailure (link : Nat) (s : State) : Result :=
  .next (s.modLink link fun k => { k with trained := false })

end Sys2Proof.Machine
end

