-- ==== Sys2Proof/Machine/Crypto.lean ====
section
/-! DEFINITION. The functions that R470 to R472 name and do not give: SHA-384, and the verification of Ed25519 and ML-DSA-65
signatures, as FIPS 180-4, FIPS 202, RFC 8032 and FIPS 204 define them (log 66). -/

namespace Sys2Proof.Machine

/-! ## SHA-512 and SHA-384 (FIPS 180-4) -/

def primesFrom (fuel n : Nat) (found : List Nat) : List Nat :=
  match fuel with
  | 0 => found
  | fuel + 1 => primesFrom fuel (n + 1) (if found.all fun p => n % p != 0 then found ++ [n] else found)

/-- The primes below 410, of which there are 80. -/
def shaPrimes : List Nat := primesFrom 408 2 []

/-- The largest `r` below `2^n` with `r^3 ≤ x`, bit by bit from `acc`. -/
def cubeRoot (x n acc : Nat) : Nat :=
  match n with
  | 0 => acc
  | n + 1 => let r := acc + 2 ^ n; cubeRoot x n (if r * r * r ≤ x then r else acc)

def shaWords : List Word64 := shaPrimes.map fun p => BitVec.ofNat 64 (cubeRoot (p * 2 ^ 192) 68 0)

def shaRoots (l : List Nat) : List Word64 := l.map fun p => BitVec.ofNat 64 (Nat.sqrt (p * 2 ^ 128))

def sha512Init : List Word64 := shaRoots (shaPrimes.take 8)
def sha384Init : List Word64 := shaRoots ((shaPrimes.drop 8).take 8)

/-- A number from big-endian bytes. -/
def ofBytesUp (bs : List Byte) : Nat := bs.foldl (fun x b => 256 * x + b.toNat) 0

def shaPad (bs : List Byte) : List Byte :=
  bs ++ [0x80] ++ List.replicate ((239 - bs.length % 128) % 128) 0 ++ (bytesOf 16 (8 * bs.length)).reverse

/-- The words of the message schedule, the newest first. -/
def shaSchedule (n : Nat) (w : List Word64) : List Word64 :=
  match n with
  | 0 => w
  | n + 1 =>
    let a := nth w 1
    let b := nth w 14
    let s1 := a.rotateRight 19 ^^^ a.rotateRight 61 ^^^ (a >>> 6)
    let s0 := b.rotateRight 1 ^^^ b.rotateRight 8 ^^^ (b >>> 7)
    shaSchedule n ((s1 + nth w 6 + s0 + nth w 15) :: w)

def shaRound (h : List Word64) (kw : Word64) : List Word64 :=
  let a := nth h 0
  let e := nth h 4
  let t1 := nth h 7 + (e.rotateRight 14 ^^^ e.rotateRight 18 ^^^ e.rotateRight 41) +
    ((e &&& nth h 5) ^^^ (~~~e &&& nth h 6)) + kw
  let t2 := (a.rotateRight 28 ^^^ a.rotateRight 34 ^^^ a.rotateRight 39) +
    ((a &&& nth h 1) ^^^ (a &&& nth h 2) ^^^ (nth h 1 &&& nth h 2))
  [t1 + t2, a, nth h 1, nth h 2, nth h 3 + t1, e, nth h 5, nth h 6]

def shaBlock (h : List Word64) (block : List Byte) : List Word64 :=
  let w := (List.range 16).map fun i => BitVec.ofNat 64 (ofBytesUp ((block.drop (8 * i)).take 8))
  let kw := List.zipWith (· + ·) shaWords (shaSchedule 64 w.reverse).reverse
  List.zipWith (· + ·) h (kw.foldl shaRound h)

def shaHash (init : List Word64) (bs : List Byte) : List Byte :=
  let p := shaPad bs
  let h := (List.range (p.length / 128)).foldl (fun h i => shaBlock h ((p.drop (128 * i)).take 128)) init
  h.flatMap fun x => (bytesOf 8 x.toNat).reverse

def sha512 (bs : List Byte) : List Byte := shaHash sha512Init bs
def sha384 (bs : List Byte) : List Byte := (shaHash sha384Init bs).take 48

/-! ## SHAKE (FIPS 202) -/

/-- Bit `t` of the round constants' shift register. -/
def keccakBit (t : Nat) : Bool :=
  ((List.range (t % 255)).foldl (fun (r : Nat) _ => if 128 ≤ r then (2 * r) % 256 ^^^ 0x71 else 2 * r) 1).testBit 0

def keccakConst (round : Nat) : Word64 :=
  (List.range 7).foldl (fun c j => if keccakBit (j + 7 * round) then c ||| ((1 : Word64) <<< (2 ^ j - 1)) else c) 0

/-- Where lane (1, 0) and those after it go in rho and pi: (x, y, offset). -/
def keccakWalk : List (Nat × Nat × Nat) :=
  ((List.range 24).foldl (fun (r : (Nat × Nat) × List (Nat × Nat × Nat)) t =>
    let (x, y) := r.1
    ((y, (2 * x + 3 * y) % 5), r.2 ++ [(x, y, (t + 1) * (t + 2) / 2 % 64)])) ((1, 0), [])).2

/-- One round over 25 lanes, lane (x, y) at `5 * y + x`. -/
def keccakRound (walk : List (Nat × Nat × Nat)) (a : List Word64) (rc : Word64) : List Word64 :=
  let col (x : Nat) : Word64 := (List.range 5).foldl (fun c y => c ^^^ nth a (5 * y + x)) 0
  let cs := (List.range 5).map col
  let a := (List.range 25).map fun i => nth a i ^^^ nth cs ((i + 4) % 5) ^^^ (nth cs ((i + 1) % 5)).rotateLeft 1
  let b := walk.foldl (fun b (x, y, o) => upd b (5 * ((2 * x + 3 * y) % 5) + y) fun _ => (nth a (5 * y + x)).rotateLeft o) a
  let c := (List.range 25).map fun i =>
    let row := 5 * (i / 5)
    nth b i ^^^ (~~~nth b (row + (i + 1) % 5) &&& nth b (row + (i + 2) % 5))
  upd c 0 fun x => x ^^^ rc

def keccak (a : List Word64) : List Word64 :=
  let walk := keccakWalk
  ((List.range 24).map keccakConst).foldl (keccakRound walk) a

def keccakBytes (a : List Word64) : List Byte := a.flatMap fun x => bytesOf 8 x.toNat

/-- The `n` blocks of `rate` bytes that a sponge gives. -/
def squeeze (rate n : Nat) (a : List Word64) : List Byte :=
  match n with
  | 0 => []
  | n + 1 => (keccakBytes a).take rate ++ squeeze rate n (keccak a)

/-- Bytes of SHAKE with a rate of 168 (SHAKE128) or 136 (SHAKE256): at least `n` of them. -/
def shake (rate n : Nat) (bs : List Byte) : List Byte :=
  let pad := rate - bs.length % rate
  let p := bs ++ (if pad = 1 then [0x9F] else [0x1F] ++ List.replicate (pad - 2) 0 ++ [0x80])
  let a := (List.range (p.length / rate)).foldl (fun a i =>
    let block := (p.drop (rate * i)).take rate
    keccak ((List.range 25).map fun j => nth a j ^^^ BitVec.ofNat 64 (ofBytes ((block.drop (8 * j)).take 8))))
    (List.replicate 25 0)
  squeeze rate ((n + rate - 1) / rate) a

def shake256 (n : Nat) (bs : List Byte) : List Byte := (shake 136 n bs).take n

/-! ## Ed25519 (RFC 8032) -/

def powMod (fuel b e m : Nat) : Nat :=
  match fuel with
  | 0 => 1 % m
  | fuel + 1 =>
    let h := powMod fuel (b * b % m) (e / 2) m
    if e % 2 = 1 then h * b % m else h

def edP : Nat := 2 ^ 255 - 19
def edL : Nat := 2 ^ 252 + 27742317777372353535851937790883648493

def edInv (x : Nat) : Nat := powMod 256 x (edP - 2) edP
def edSub (a b : Nat) : Nat := (a + edP - b % edP) % edP
def edD : Nat := edSub 0 (121665 * edInv 121666)

/-- A point in extended coordinates (X, Y, Z, T). -/
structure EdPoint where
  x : Nat
  y : Nat
  z : Nat
  t : Nat

def EdPoint.add (p q : EdPoint) : EdPoint :=
  let a := edSub p.y p.x * edSub q.y q.x % edP
  let b := (p.y + p.x) * (q.y + q.x) % edP
  let c := 2 * p.t * q.t % edP * edD % edP
  let d := 2 * p.z * q.z % edP
  let e := edSub b a
  let f := edSub d c
  let g := (d + c) % edP
  let h := (b + a) % edP
  ⟨e * f % edP, g * h % edP, f * g % edP, e * h % edP⟩

/-- `k` times a point, `k` below `2^fuel`. -/
def EdPoint.times (fuel k : Nat) (p : EdPoint) : EdPoint :=
  match fuel with
  | 0 => ⟨0, 1, 1, 0⟩
  | fuel + 1 =>
    let h := EdPoint.times fuel (k / 2) (p.add p)
    if k % 2 = 1 then h.add p else h

def EdPoint.same (p q : EdPoint) : Bool :=
  p.x * q.z % edP == q.x * p.z % edP && p.y * q.z % edP == q.y * p.z % edP

/-- The point that 32 bytes encode. -/
def edDecode (bs : List Byte) : Option EdPoint :=
  let n := ofBytes bs
  let sign := n / 2 ^ 255
  let y := n % 2 ^ 255
  let u := edSub (y * y) 1
  let v := (edD * (y * y % edP) + 1) % edP
  let v3 := v * v % edP * v % edP
  let r := u * v3 % edP * powMod 256 (u * (v3 * v3 % edP * v % edP)) ((edP - 5) / 8) edP % edP
  let x? := if v * (r * r % edP) % edP = u then some r
    else if v * (r * r % edP) % edP = edSub 0 u then some (r * powMod 256 2 ((edP - 1) / 4) edP % edP)
    else none
  match x? with
  | none => none
  | some x =>
    if edP ≤ y ∨ (x = 0 ∧ sign = 1) then none
    else
      let x := if x % 2 = sign then x else edP - x
      some ⟨x, y, 1, x * y % edP⟩

/-- The base point, whose y is 4/5 and whose x is even. -/
def edBase : EdPoint := (edDecode (bytesOf 32 (4 * edInv 5 % edP))).getD ⟨0, 1, 1, 0⟩

def ed25519Verifies (key sig msg : List Byte) : Bool :=
  let r := sig.take 32
  let k := ofBytes (sha512 (r ++ key ++ msg)) % edL
  let s := ofBytes (sig.drop 32)
  match edDecode key, edDecode r with
  | some a, some rp =>
    sig.length == 64 && decide (s < edL) && (edBase.times 256 s).same (rp.add (a.times 256 k))
  | _, _ => false

/-! ## ML-DSA-65 (FIPS 204) -/

def dsaQ : Nat := 8380417
def dsaGamma2 : Nat := 261888

/-- The number whose eight bits are those of `n` in the other order. -/
def bitRev8 (n : Nat) : Nat := (List.range 8).foldl (fun r i => if n.testBit i then r + 2 ^ (7 - i) else r) 0

/-- Powers of the 512th root of unity 1753. -/
def dsaRoots : List Nat := ((List.range 511).foldl (fun (l : List Nat) _ => (l.headD 1 * 1753 % dsaQ) :: l) [1]).reverse

/-- NTT by its definition: value number `i` is that of the polynomial at the root with exponent `2 * bitRev8 i + 1`. -/
def dsaNtt (w : List Nat) : List Nat :=
  let roots := dsaRoots
  (List.range 256).map fun i =>
    let e := 2 * bitRev8 i + 1
    (w.foldl (fun (r : Nat × Nat) x => (r.1 + x * nth roots (e * r.2 % 512), r.2 + 1)) (0, 0)).1 % dsaQ

def dsaInvNtt (w : List Nat) : List Nat :=
  let roots := dsaRoots
  (List.range 256).map fun j =>
    (w.foldl (fun (r : Nat × Nat) x => (r.1 + x * nth roots ((512 - (2 * bitRev8 r.2 + 1) * j % 512) % 512), r.2 + 1)) (0, 0)).1 *
      8347681 % dsaQ

/-- `n` little-endian fields of `w` bits from the start of a byte string. -/
def dsaUnpack (w n : Nat) (bs : List Byte) : List Nat :=
  let x := ofBytes bs
  (List.range n).map fun i => x / 2 ^ (w * i) % 2 ^ w

/-- The coefficients below q among the three-byte groups. -/
def dsaReject : Nat → List Byte → List Nat
  | n, a :: b :: c :: r =>
    match n with
    | 0 => []
    | n + 1 =>
      let z := c.toNat % 128 * 65536 + b.toNat * 256 + a.toNat
      if z < dsaQ then z :: dsaReject n r else dsaReject (n + 1) r
  | _, _ => []

/-- Entry (r, c) of the matrix of a key's seed, in the NTT's domain. -/
def dsaMatrix (rho : List Byte) (r c : Nat) : List Nat :=
  dsaReject 256 (shake 168 8192 (rho ++ [BitVec.ofNat 8 c, BitVec.ofNat 8 r]))

/-- The challenge polynomial, its places filled from 207 on. -/
def dsaBall (signs : Nat) : Nat → List Byte → List Nat → List Nat
  | i, j :: r, c =>
    if 256 ≤ i then c
    else if i < j.toNat then dsaBall signs i r c
    else
      let c := upd c i fun _ => nth c j.toNat
      dsaBall signs (i + 1) r (upd c j.toNat fun _ => if signs.testBit (i - 207) then dsaQ - 1 else 1)
  | _, [], c => c

def dsaChallenge (seed : List Byte) : List Nat :=
  let bs := shake 136 4096 seed
  dsaBall (ofBytes (bs.take 8)) 207 (bs.drop 8) (List.replicate 256 0)

/-- The hint bits of the six rows, as the places of each. -/
def dsaHints (y : List Byte) : Option (List (List Nat)) :=
  let n (i : Nat) : Nat := (nth y i).toNat
  let r := (List.range 6).foldl (fun (r : Option (Nat × List (List Nat))) i =>
    match r with
    | none => none
    | some (k, rows) =>
      let e := n (55 + i)
      let row := (List.range (e - k)).map fun j => n (k + j)
      if e < k ∨ 55 < e ∨ (List.range (row.length - 1)).any (fun j => decide (nth row (j + 1) ≤ nth row j)) then none
      else some (e, rows ++ [row])) (some (0, []))
  match r with
  | none => none
  | some (k, rows) => if (List.range (55 - k)).any (fun j => n (k + j) != 0) then none else some rows

/-- High part of a coefficient, corrected by its hint. -/
def dsaUseHint (hint : Bool) (r : Nat) : Nat :=
  let m := r % (2 * dsaGamma2)
  let low : Int := if m ≤ dsaGamma2 then m else (m : Int) - 2 * dsaGamma2
  let top := (r : Int) - low = (dsaQ : Int) - 1
  let r1 : Nat := if top then 0 else (((r : Int) - low) / (2 * dsaGamma2)).toNat
  let r0 : Int := if top then low - 1 else low
  if !hint then r1 else if 0 < r0 then (r1 + 1) % 16 else (r1 + 15) % 16

def polyAdd (a b : List Nat) : List Nat := List.zipWith (fun x y => (x + y) % dsaQ) a b
def polyMul (a b : List Nat) : List Nat := List.zipWith (fun x y => x * y % dsaQ) a b

def mldsa65Verifies (key sig msg : List Byte) : Bool :=
  let rho := key.take 32
  let mu := shake256 64 (shake256 64 key ++ [0, 0] ++ msg)
  let seed := sig.take 48
  let zs := (List.range 5).map fun i => dsaUnpack 20 256 ((sig.drop (48 + 640 * i)).take 640)
  let inRange (v : Nat) : Bool := decide (196 < v) && decide (v < 2 ^ 20 - 196)
  match dsaHints (sig.drop 3248) with
  | none => false
  | some hints =>
    let zh := zs.map fun z => dsaNtt (z.map fun v => (2 ^ 19 + dsaQ - v) % dsaQ)
    let c := dsaNtt (dsaChallenge seed)
    let w1 := (List.range 6).flatMap fun r =>
      let t1 := (dsaUnpack 10 256 ((key.drop (32 + 320 * r)).take 320)).map fun x => x * 2 ^ 13 % dsaQ
      let ct := (polyMul c (dsaNtt t1)).map fun x => (dsaQ - x) % dsaQ
      let az := (List.range 5).foldl (fun a i => polyAdd a (polyMul (dsaMatrix rho r i) (nth zh i))) ct
      let row := (dsaInvNtt az).zipIdx.map fun (x, i) => dsaUseHint ((nth hints r).contains i) x
      (List.range 128).map fun i => BitVec.ofNat 8 (nth row (2 * i) + 16 * nth row (2 * i + 1))
    key.length == 1952 && sig.length == 3309 && zs.all (fun z => z.all inRange) && seed == shake256 48 (mu ++ w1)

end Sys2Proof.Machine
end

