-- ==== Sys2Proof/Machine/MatrixMath.lean ====
section
/-! DEFINITION. What matrix and dendritic operations compute: accumulator tiles, wide blocks, fragments, scales,
branch maps and curves (R110 to R132, R351, R352, R364 to R376, R381 to R392). -/

namespace Sys2Proof.Machine

/-! ## Accumulator tiles (R108, R365) -/

/-- Element (r, c) of a tile as it stands. -/
def Team.acc (tm : Team) (n r c : Nat) : Word32 := Sparse.get tm.accs (1024 * n + 32 * r + c)

def Team.setAcc (tm : Team) (n r c : Nat) (x : Word32) : Team :=
  { tm with accs := Sparse.set tm.accs (1024 * n + 32 * r + c) x }

/-- A wide block (R128): exponent, mantissas in row order, poison. -/
structure Wide where
  e : Int
  m : List Int
  poison : Bool
  deriving DecidableEq, Repr, Inhabited

/-- The 16 bytes of element `k` of the wide block whose first tile is `n` (R365). -/
def Team.wideWord (tm : Team) (n k : Nat) : Nat :=
  (List.range 4).foldl (fun a i => a + (Sparse.get tm.accs (1024 * n + 4 * k + i)).toNat * 2 ^ (32 * i)) 0

def Team.wide (tm : Team) (n : Nat) : Wide where
  e := signed 16 (tm.wideWord n 0 / 2 ^ 113 % 2 ^ 15 + tm.wideWord n 1 / 2 ^ 113 % 2 * 2 ^ 15)
  m := (List.range 1024).map fun k => signed 113 (tm.wideWord n k)
  poison := tm.wideWord n 1 / 2 ^ 114 % 2 == 1

def Team.setWide (tm : Team) (n : Nat) (b : Wide) : Team :=
  let e := wrap 16 b.e
  let word (k : Nat) : Nat := wrap 113 (nth b.m k) + 2 ^ 113 *
    (if k = 0 then e % 2 ^ 15 else if k = 1 then e / 2 ^ 15 + (if b.poison then 2 else 0) else 0)
  { tm with accs := (List.range 1024).foldl (fun acc k =>
      (List.range 4).foldl (fun acc i =>
        Sparse.set acc (1024 * n + 4 * k + i) (BitVec.ofNat 32 (word k / 2 ^ (32 * i)))) acc) tm.accs }

/-- The state that acclr gives a wide block (R373). -/
def Wide.cleared : Wide := ⟨-32768, List.replicate 1024 0, false⟩

/-- ShiftOdd (R128). -/
def shiftOdd (m : Int) (n : Nat) : Int :=
  let q := Int.fdiv m (2 ^ n)
  if q * 2 ^ n = m then q else q - q % 2 + 1

/-- The exponent that WideAdd raises a block to. -/
def wideRise (fuel : Nat) (b : Wide) (g : List Int) (x e1 : Int) : Int :=
  match fuel with
  | 0 => e1
  | fuel + 1 =>
    let big (v : Int) : Bool := decide ((2 : Int) ^ 111 ≤ v.natAbs)
    if (b.m.any fun m => big (shiftOdd m (e1 - b.e).toNat)) ||
        (g.any fun v => big (shiftOdd (v * 2 ^ (x - e1).toNat) (e1 - x).toNat)) then
      wideRise fuel b g x (e1 + 1)
    else e1

/-- WideAdd (R128) with the overflow flag of a block that it poisons. -/
def wideAdd (b : Wide) (g : List Int) (x : Int) : Wide × Flags5 :=
  let e1 := wideRise 65700 b g x b.e
  if 32767 < e1 then ({ b with poison := true }, fOF)
  else ({ b with
    e := e1
    m := (List.range 1024).map fun k =>
      shiftOdd (nth b.m k) (e1 - b.e).toNat + shiftOdd (nth g k * 2 ^ (x - e1).toNat) (e1 - x).toNat }, 0)

/-! ## Fragments (R351, R352) -/

/-- Words of a row of `k` elements. -/
def wordsOf (e : Elem) (k : Nat) : Nat := (k + e.perReg - 1) / e.perReg

/-- Contraction length of a shape by its element format (R351, R352). -/
def shapeK (e : Elem) (sp : Bool) : Nat :=
  let k := if e.width = 16 then 16 else if e.width = 4 then 64 else 32
  if sp then 2 * k else k

/-- Words of a row of a compressed A fragment, and the metadata words among them (R352). -/
def spWords (e : Elem) : Nat × Nat := if e.width = 16 then (9, 1) else (10, 2)

/-- Registers that a crew of a set of `n` supplies for rows of `w` words. -/
def fragRegs (base w n : Nat) : List Nat := (List.range (4 / n * w)).map fun i => base + i

/-- Counters that the words of a team's vector registers take for a choice among old values. -/
def cellSpan : Nat := 64 * 12288

/-- A word of a vector register as the matrix engine reads it: where the crew's instructions have overwritten it since its last
seal, one of its values, which nothing constrains (R270, log 61). -/
def State.cellRead (s : State) (t c n l : Nat) : Word32 :=
  let cr := s.crew t c
  let k := 16 * n + l
  let old := (cr.stale.filter fun p => p.1 == k).map Prod.snd
  (old[Config.pick (s.freeCtr + 12288 * c + k) % (old.length + 1)]?).getD (cr.v n l)

/-- A fragment as its 64 rows or columns of words; what has not been signed is zero (R350, R351). -/
def State.fragment (s : State) (t base w : Nat) (k : Conv) : List (List Word32) :=
  let crews := setCrews k.setbase k.setcnt
  let n := crews.length
  (List.range 64).map fun i =>
    let q := i / 16
    let l := i % 16
    let j := q % n
    (List.range w).map fun x =>
      if k.arrived.getLsbD (16 * j + l) then s.cellRead t (nth crews j) (base + q / n * w + x) l else 0

/-- Element `j` of a row of words (R124). -/
def fragElem (e : Elem) (row : List Word32) (j : Nat) : Nat := e.at (nth row (j / e.perReg)).toNat (j % e.perReg)

/-- Codes of a row: dense, or a compressed one expanded (R325, R352). -/
def fragCodes (e : Elem) (sp : Bool) (k : Nat) (row : List Word32) : List Nat :=
  if sp then
    let vals := row.take 8
    let md := (row.drop 8).flatMap fun w => bytesOf 4 w.toNat
    expandRow e (vals.flatMap fun w => bytesOf 4 w.toNat) md k
  else (List.range k).map (fragElem e row)

/-- A value times a block scale (R123, R369); the flag is that of a scale of 0xFF. -/
def scaleValue (v : FV) (s : Option Nat) : FV :=
  match s with
  | none => v
  | some 255 => .qnan
  | some k => (v.mul (.fin false 1 ((k : Int) - 127))).1

/-- Values of the 64 rows or columns of an operand: `sc b c` is the scale of row block `b` and k block `c`. -/
def operandValues (e : Elem) (sp : Bool) (k : Nat) (frag : List (List Word32)) (sc : Nat → Nat → Option Nat) :
    List (List FV) :=
  (List.range 64).map fun i =>
    let codes := fragCodes e sp k (nth frag i)
    (List.range k).map fun j => scaleValue (e.value (codes.getD j 0)) (sc (i / 32) (j / 32))

/-- Addresses of the scale bytes of an operand: row or column block `b`, k block `c` (R369). -/
def scaleAddr (d : Desc) (b c : Nat) : Nat := if d.orient then d.aux + c * d.blocks + b else d.aux + b * d.blocks + c

/-- Scale addresses of an operand, in the order (b, c) for two blocks of rows and `kb` blocks along k. -/
def scaleAddrs (d : Desc) (kb : Nat) : List Nat :=
  (List.range 2).flatMap fun b => (List.range kb).map fun c => scaleAddr d b c

/-- The scale of a block among fetched bytes, from offset `o`. -/
def scaleOf (bytes : List Byte) (o kb b c : Nat) : Option Nat := (bytes[o + b * kb + c]?).map BitVec.toNat

def f32 (x : Word32) : FV := FFmt.fp32.value x.toNat

/-- Tiles of a 64 × 64 block as rows of patterns (R368). -/
def Team.blockAt (tm : Team) (d i j : Nat) : Word32 := tm.acc (d + 2 * (i / 32) + j / 32) (i % 32) (j % 32)

def Team.setBlock (tm : Team) (d i j : Nat) (x : Word32) : Team := tm.setAcc (d + 2 * (i / 32) + j / 32) (i % 32) (j % 32) x

/-- Apply a function to each element of a region of a block, collecting flags. -/
def Team.mapBlock (tm : Team) (rows cols : Nat) (f : Team → Nat → Nat → Team × Flags5) : Team × Flags5 :=
  (List.range rows).foldl (fun p i => (List.range cols).foldl (fun p j =>
    let q := f p.1 i j
    (q.1, p.2 ||| q.2)) p) (tm, 0)

def column (vs : List (List FV)) (j : Nat) : List FV := nth vs j

/-! ## mma (R368 to R370) -/

/-- mma and mma.sp on a block from the values of its operands; `bs` holds the columns of B. -/
def mmaBlock (tm : Team) (d : Nat) (isF32 : Bool) (as bs : List (List FV)) (flags : Flags5) : Team × Flags5 :=
  let r := tm.mapBlock 64 64 fun tm i j =>
    let ps := (nth as i).zip (nth bs j)
    let c := tm.blockAt d i j
    if isF32 then
      let v := group16 FFmt.fp32 .rne (ps.length + 1) c.toNat ps
      (tm.setBlock d i j (BitVec.ofNat 32 v.code), v.flags)
    else
      let x := (exactSum (ps.map fun p => (p.1.mul p.2).1))
      let sum : Int := x.1 * 2 ^ x.2.toNat
      (tm.setBlock d i j (BitVec.ofInt 32 (c.toInt + sum)), 0)
  (r.1, r.2 ||| flags)

/-! ## mmaw (R371) -/

def digit7 (row : List Word32) (j : Nat) : Int := signed 7 (fragElem .int8 row j)

/-- mmaw: two groups on each of the four wide blocks. -/
def mmawBlock (tm : Team) (d m : Nat) (a b : List (List Word32)) : Team × Flags5 :=
  (List.range 4).foldl (fun p blk =>
    let rb := blk / 2
    let cb := blk % 2
    let first := d + 4 * blk
    (List.range 2).foldl (fun p g =>
      let prods := (List.range 1024).map fun k =>
        let ra := nth a (32 * rb + k / 32)
        let cb_ := nth b (32 * cb + k % 32)
        (List.range 16).foldl (fun acc x => acc + digit7 ra (16 * g + x) * digit7 cb_ (16 * g + x)) 0
      let w := wideAdd (p.1.wide first) prods (-7 * (m : Int))
      (p.1.setWide first w.1, p.2 ||| w.2)) p) (tm, 0)

/-! ## acccvt (R376) -/

/-- One element of acccvt with its flags, and whether it overflowed under a trapping slot. -/
def cvtElem (b : Wide) (k : Nat) (f64 : Bool) (e f : Int) (r : Rounding) (o : Ovf) : Rounded :=
  let fmt := if f64 then FFmt.fp64 else FFmt.fp32
  let mark (x : Int) : Bool := decide (x < -2048) || decide (2047 < x)
  if mark e || mark f then ⟨(fmt.roundTo .qnan .rne .special).code, fNV, false, false⟩
  else if b.poison then fmt.roundTo .qnan .rne .special
  else
    let m := nth b.m k
    let v := FV.fin (decide (m < 0)) m.natAbs (b.e + e + f)
    match o with
    | .trap =>
      let x := fmt.roundTo v r .trap
      if x.trap then { fmt.roundTo v r .sat with trap := true } else x
    | o => fmt.roundTo v r o

/-! ## Branch maps and curves (R381 to R384) -/

/-- A branch map, from its 128 bytes. -/
structure BranchMap where
  km : Nat
  nb : Nat
  branch : List Nat
  factor : List Nat
  reserved : Nat
  deriving DecidableEq, Repr, Inhabited

def BranchMap.of (bs : List Byte) : BranchMap :=
  let w := ofBytes (bs.take 128)
  { km := w / 2 ^ 776 % 256
    nb := w / 2 ^ 768 % 256
    branch := (List.range 64).map fun k => w / 2 ^ (4 * k + 512) % 16
    factor := (List.range 16).map fun b => w / 2 ^ (32 * b) % 2 ^ 32
    reserved := w / 2 ^ 784 }

def notFinite (x : Nat) : Bool := decide (0x7F800000 ≤ x % 2 ^ 31)

/-- R382. -/
def BranchMap.malformed (m : BranchMap) (k : Nat) : Bool :=
  decide (m.nb < 2) || decide (16 < m.nb) || m.km != k ||
  ((List.range 64).any fun i => if i < m.km then decide (m.nb ≤ nth m.branch i) else nth m.branch i != 0) ||
  ((List.range m.nb).any fun b => !((m.branch.take m.km).contains b)) ||
  ((List.range 16).any fun b => if b < m.nb then notFinite (nth m.factor b) else nth m.factor b != 0) || m.reserved != 0

/-- A curve as its 68 words: 65 knots, left and right slope, reserved (R383). -/
abbrev Curve := List Nat

def curveOf (bs : List Byte) : Curve := (List.range 68).map fun i => ofBytes ((bs.drop (4 * i)).take 4)

def Curve.malformed (c : Curve) : Bool := ((c.take 67).any notFinite) || nth c 67 != 0

def Curve.knot (c : Curve) (i : Nat) : FV := FFmt.fp32.value (nth c i)

/-- An exact sum of two values (R384). -/
def addV (a b : FV) : FV × Flags5 := sumExact [a, b] .rne

/-- `s + 8` times four, rounded down. -/
def segment (s : FV) : Nat :=
  let x := exactSum [s, .fin false 8 0]
  let e := x.2 + 2
  (if e < 0 then Int.fdiv x.1 (2 ^ (-e).toNat) else x.1 * 2 ^ e.toNat).toNat

def geEight (s : FV) : Bool := !FV.lt s (.fin false 8 0)
def belowMinusEight (s : FV) : Bool := FV.lt s (.fin true 8 0)

/-- Base plus slope times distance, rounded once. -/
def lineAt (y slope d : FV) : Rounded :=
  let p := slope.mul d
  let r := sumRounded FFmt.fp32 [y, p.1] .rne
  { r with flags := r.flags ||| p.2 }

/-- Curve(b, s) (R384). -/
def Curve.eval (c : Curve) (s : Nat) : Rounded :=
  let v := FFmt.fp32.value s
  if v.isNan then ⟨(FFmt.fp32.roundTo v.quiet .rne .special).code, readFlags [v], false, false⟩
  else if geEight v then lineAt (Curve.knot c 64) (Curve.knot c 66) (addV v (.fin true 8 0)).1
  else if belowMinusEight v then lineAt (Curve.knot c 0) (Curve.knot c 65) (addV v (.fin false 8 0)).1
  else
    let i := segment v
    let u := ((addV v (.fin false 8 0)).1.mul (.fin false 4 0)).1
    let t := (addV u (.fin true i 0)).1
    lineAt (Curve.knot c i) t (addV (Curve.knot c (i + 1)) (Curve.knot c i).negate).1

/-- Slope(b, s) (R384). -/
def Curve.slope (c : Curve) (s : Nat) : Rounded :=
  let v := FFmt.fp32.value s
  if v.isNan then ⟨(FFmt.fp32.roundTo v.quiet .rne .special).code, readFlags [v], false, false⟩
  else if geEight v then Rounded.exact (nth c 66)
  else if belowMinusEight v then Rounded.exact (nth c 65)
  else
    let i := segment v
    FFmt.fp32.roundTo ((addV (Curve.knot c (i + 1)) (Curve.knot c i).negate).1.mul (.fin false 4 0)).1 .rne .special

/-! ## mma.dn and mma.dnb (R388 to R391) -/

/-- The curve of branch `b` among fetched tables: the map's 128 bytes, then the curves. -/
def tableCurve (tables : List Byte) (b : Nat) : Curve := curveOf ((tables.drop (128 + 272 * b)).take 272)

/-- First tile of the taps of branch `b` (R388). -/
def tapTile (d b : Nat) : Nat := d + 4 + 4 * b

/-- The branch sums of one element over a chunk. -/
def branchSums (tm : Team) (d : Nat) (m : BranchMap) (ps : List (FV × FV)) (i j : Nat) : Team × Flags5 :=
  (List.range (m.km / 16)).foldl (fun p g =>
    (List.range m.nb).foldl (fun p b =>
      let mine := ((List.range 16).filter fun x => nth m.branch (16 * g + x) == b).map fun x => nth ps (16 * g + x)
      if mine.isEmpty then p
      else
        let r := group FFmt.fp32 (f32 (p.1.blockAt (tapTile d b) i j)) mine .rne
        (p.1.setBlock (tapTile d b) i j (BitVec.ofNat 32 r.code), p.2 ||| r.flags)) p) (tm, 0)

def dnBlock (tm : Team) (d : Nat) (fin : Bool) (tables : List Byte) (as bs : List (List FV)) (flags : Flags5) :
    Team × Flags5 :=
  let m := BranchMap.of tables
  let r := tm.mapBlock 64 64 fun tm i j =>
    let (tm, fl) := branchSums tm d m ((nth as i).zip (nth bs j)) i j
    if !fin then (tm, fl)
    else
      let outs := (List.range m.nb).map fun b => (tableCurve tables b).eval (tm.blockAt (tapTile d b) i j).toNat
      let ps := (List.range m.nb).map fun b => (FFmt.fp32.value (nth m.factor b), FFmt.fp32.value (nth outs b).code)
      let v := group16 FFmt.fp32 .rne (ps.length + 1) (tm.blockAt d i j).toNat ps
      (tm.setBlock d i j (BitVec.ofNat 32 v.code), (outs.foldl (fun f o => f ||| o.flags) fl) ||| v.flags)
  (r.1, r.2 ||| flags)

/-- delta of an element and a branch (R391). -/
def dnDelta (tm : Team) (t : Nat) (m : BranchMap) (tables : List Byte) (i j b : Nat) : Rounded :=
  let sl := (tableCurve tables b).slope (tm.blockAt (tapTile t b) i j).toNat
  let g := f32 (tm.blockAt t i j)
  let w := FFmt.fp32.value (nth m.factor b)
  let v := FFmt.fp32.value sl.code
  let x := g.mul w
  let y := match firstNan [g, w, v] with
    | some n => (n, (0 : Flags5))
    | none => let y := x.1.mul v; (y.1, x.2 ||| y.2)
  let r := FFmt.fp32.roundTo y.1 .rne .special
  { r with flags := r.flags ||| sl.flags ||| y.2 ||| readFlags [g, w, v] }

/-- mma.dnb: `vals` holds the columns of B (.da) or the rows of A (.db). -/
def dnbBlock (tm : Team) (db : Bool) (d t : Nat) (tables : List Byte) (vals : List (List FV)) (flags : Flags5) :
    Team × Flags5 :=
  let m := BranchMap.of tables
  let deltas := (List.range 64).map fun i => (List.range 64).map fun j => (List.range m.nb).map fun b =>
    dnDelta tm t m tables i j b
  let delta (i j b : Nat) : Nat := (nth (nth (nth deltas i) j) b).code
  let dfl := deltas.foldl (fun f r => r.foldl (fun f c => c.foldl (fun f x => f ||| x.flags) f) f) flags
  let step (tm : Team) (i j : Nat) (ps : List (FV × FV)) : Team × Flags5 :=
    let v := group16 FFmt.fp32 .rne (ps.length + 1) (tm.blockAt d i j).toNat ps
    (tm.setBlock d i j (BitVec.ofNat 32 v.code), v.flags)
  let r := if db then
      tm.mapBlock m.km 64 fun tm k j => step tm k j ((List.range 64).map fun i =>
        (nth (nth vals i) k, FFmt.fp32.value (delta i j (nth m.branch k))))
    else
      tm.mapBlock 64 m.km fun tm i k => step tm i k ((List.range 64).map fun j =>
        (FFmt.fp32.value (delta i j (nth m.branch k)), nth (nth vals j) k))
  (r.1, r.2 ||| dfl)

end Sys2Proof.Machine
end

