-- ==== Sys2Proof/Machine/Matrix.lean ====
section
/-! DEFINITION. Matrix and dendritic instructions and the steps of the matrix engine (R348 to R380, R385 to R397). -/

namespace Sys2Proof.Machine

/-! ## Tiles and fragments of an operation -/

def Team.loadedNb (tm : Team) (slot : Fin 8) : Nat := (nth tm.dnslots slot.val).nb

/-- Tiles that an operation names (R354, R368, R371, R388, R391). -/
def MKind.tilesOf (k : MKind) (nb : Fin 8 → Nat) : List Nat :=
  let from_ (d n : Nat) := (List.range n).map fun i => d + i
  match k with
  | .mma _ _ d _ _ _ _ _ => from_ d 4
  | .mmaw d _ _ _ _ => from_ d 16
  | .dn d _ _ slot _ _ => from_ d (4 + 4 * nb slot)
  | .dnb _ d _ t slot _ => from_ d 4 ++ from_ t (4 + 4 * nb slot)
  | .acclr d n => from_ d n
  | .accld d _ => [d]
  | .accst _ a => [a]
  | .accrd _ a _ => [a]
  | .acccvt _ _ a _ _ _ _ => from_ a 4
  | .dntap _ _ t _ _ _ => [t]
  | .dnload _ => []

def Team.tilesOf (tm : Team) (k : MKind) : List Nat := k.tilesOf tm.loadedNb

/-- Fragment ranges that a crew of a set of `n` supplies, as lists of registers (R351, R352, R370, R391). -/
def MKind.ranges (elem : Fin 8 → Elem) (k : MKind) (n : Nat) : List (List Nat) :=
  match k with
  | .mma sp _ _ a b fa _ _ =>
    let e := elem fa
    let w := wordsOf e (shapeK e false)
    if sp then [fragRegs a (spWords e).1 n, fragRegs b 16 n] else [fragRegs a w n, fragRegs b w n]
  | .mmaw _ a b _ _ => [fragRegs a 8 n, fragRegs b 8 n]
  | .dn _ a b slot _ _ =>
    let w := wordsOf (elem slot) (shapeK (elem slot) false)
    [fragRegs a w n, fragRegs b w n]
  | .dnb _ _ f _ slot _ => [fragRegs f (wordsOf (elem slot) (shapeK (elem slot) false)) n]
  | _ => []

def State.slotElemOf (s : State) (t : Nat) (i : Fin 8) : Elem := slotElem (s.slot t i)

/-- R351: a fragment range leaves the crew's registers or meets the other. -/
def badRanges (vregs : Nat) (rs : List (List Nat)) : Bool :=
  (rs.any fun r => r.any fun v => decide (vregs ≤ v)) ||
  (match rs with
   | [a, b] => a.any b.contains
   | _ => false)

/-! ## Convergence registers (R349, R350) -/

def State.modConv (s : State) (t : Nat) (cv : Fin 8) (f : Conv → Conv) : State :=
  s.modTeam t fun tm => { tm with conv := upd tm.conv cv.val f }

/-- %tinfo of a convergence mismatch (R350). -/
def convInfo (cv : Fin 8) (reason : Nat) : Word32 := BitVec.ofNat 32 (cv.val + 3 * 2 ^ 20 + reason * 2 ^ 22)

/-- The accesses that a crew's seals and releasing fences order before the operation that it issues next (R356). -/
def State.orderedBefore (s : State) (t c : Nat) : List Nat := ((s.crew t c).copyAfter.filter s.accPending).eraseDups

/-- Arm an operation: the lowest lane of Active() does it, after the checks of R367, which trap the whole bundle (R67); with Active()
empty nothing is armed or checked (R35, R367). -/
def armOp (i : Instr) (s : State) (cv : Fin 8) (kind : MKind) (check : Issue → Option Word32) : Result :=
  crewOp i s (fun x => { bundle := if x.act = 0 then none else check x }) fun x =>
    if x.act = 0 then s
    else
      let low := laneBit (lowestLane x.act)
      match (nth (s.team x.t).conv cv.val).state with
      | .started => s.stall
      | .armed => s.trap x.t x.c 10 low (fun _ => convInfo cv 0) x.pc
      | .idle =>
        if 63 ≤ (s.crew x.t x.c).counter 3 then s.stall
        else
          let (id, s) := s.fresh
          let (cid, s) := s.fresh
          let off := (x.pc.toNat - (s.gridOf x.t).record.entry.toNat) / 8
          let m : MatrixOp := ⟨id, (s.team x.t).core, x.t, x.c, x.pc, low, some cv, kind, .armed, 0, 0, [(x.c, cid)],
            [(x.c, low)], [], [], [], [], [], 0, s.orderedBefore x.t x.c, 0, none⟩
          let tiles := ((s.team x.t).tilesOf kind).map Res.acc
          { (s.modConv x.t cv fun k => { k with state := .armed, armoff := off, armcrew := x.c }).modCrew x.t x.c fun cr =>
              (cr.raise 3 cid).sealUp 3 tiles with
            mops := s.mops ++ [m] }

/-- Whether a set value is malformed for a team (R349). -/
def badSet (crews v : Nat) : Bool :=
  v / 64 % 4 == 3 || decide (256 ≤ v) || decide (crews < v % 64 + 2 ^ (v / 64 % 4))

/-- The operation armed on a register. -/
def State.armedOn (s : State) (t : Nat) (cv : Fin 8) : Option MatrixOp :=
  s.mops.find? fun m => m.team == t && m.cv == some cv

/-- The signatures of an issue of sign that pass the rows of R350: their bits, seals and count. -/
def State.signLanes (s : State) (x : Issue) (cv : Fin 8) (v : Nat) (lanes : Mask) (rs : List (List Nat)) (m : MatrixOp) :
    State :=
  let (cid, s) := s.fresh
  let j := x.c - v % 64
  let bits : BitVec 64 := (lanes.setWidth 64) <<< (16 * j)
  let s := s.modConv x.t cv fun k => { k with
    setbase := v % 64, setcnt := v / 64 % 4, arrived := k.arrived ||| bits }
  let res := rs.flatten.map Res.v ++ ((s.team x.t).tilesOf m.kind).map Res.acc
  let s := s.modCrew x.t x.c fun cr => (cr.raise 3 cid).sealUp 3 res
  let sign (k : MatrixOp) : MatrixOp :=
    if k.id = m.id then { k with
      counts := k.counts ++ [(x.c, cid)], sets := k.sets ++ [(x.c, lanes)]
      after := (k.after ++ s.orderedBefore x.t x.c).eraseDups } else k
  { s with mops := s.mops.map sign }.evalConv x.t cv

def execSign (g : Guard) (cv : Fin 8) (a : Opnd) (s : State) : Result :=
  crewOp (.sign g cv a) s (fun x =>
      if x.act ≠ 0 ∧ badSet (s.team x.t).crews.length (s.rd32 x.t x.c a (lowestLane x.act)) then { active := some 0 } else {})
    fun x =>
    let v := s.rd32 x.t x.c a (lowestLane x.act)
    let k := nth (s.team x.t).conv cv.val
    let refuse (r : Nat) (m : Mask) (s : State) := s.trap x.t x.c 10 m (fun _ => convInfo cv r) x.pc
    if x.act = 0 then s
    else
      match k.state, s.armedOn x.t cv with
      | .started, _ => s.stall
      | .armed, some m =>
        if x.c < v % 64 ∨ v % 64 + 2 ^ (v / 64 % 4) ≤ x.c then refuse 4 x.act s
        else if k.arrived ≠ 0 ∧ (k.setbase ≠ v % 64 ∨ k.setcnt ≠ v / 64 % 4) then refuse 3 x.act s
        else
          let had : Mask := k.arrived.extractLsb' (16 * (x.c - v % 64)) 16
          let new := x.act &&& ~~~had
          let rs := MKind.ranges (s.slotElemOf x.t) m.kind (2 ^ (v / 64 % 4))
          if new = 0 then refuse 2 x.act s
          else if badRanges (s.gridOf x.t).needs.vregs rs then
            refuse 2 (x.act &&& had) (s.trap x.t x.c 3 new (fun _ => 0) x.pc)
          else if 63 ≤ (s.crew x.t x.c).counter 3 then s.stall
          else refuse 2 (x.act &&& had) (s.signLanes x cv v new rs m)
      | _, _ => refuse 1 x.act s

/-! ## Arming checks (R367 to R371, R380, R391, R397) -/

/-- Tiles `d` to `d + n - 1` lie below ATILES and are not wide (R368). -/
def State.fp32Tiles (s : State) (t d n : Nat) : Bool :=
  let k := (s.gridOf t).needs
  decide (d + n ≤ k.atiles) && decide (4 * k.wblocks ≤ d)

/-- R368, R370: the slots suit each other and TYPE. -/
def mmaSlots (sp f32 sa sb : Bool) (a b : Elem) : Bool :=
  let pair := match a with
    | .bf16 | .fp16 | .e2m1 | .int8 | .int4 => a == b
    | .e5m2 | .e4m3 => b == .e5m2 || b == .e4m3
    | .e3m2 | .e2m3 => b == .e3m2 || b == .e2m3
    | _ => false
  let int := a == .int8 || a == .int4
  pair && sa == sb && f32 == (sa || !int) &&
    (!sp || a == .bf16 || a == .fp16 || a == .e5m2 || a == .e4m3 || a == .int8)

/-- SCT under R369: 14 or below with scaled slots, 0 with others. -/
def badSct (scaled : Bool) (sct : Fin 16) : Bool := if scaled then decide (14 < sct.val) else sct.val != 0

def State.mmaCheck (s : State) (sp f32 : Bool) (fa fb : Fin 8) (d : Fin 256) (sct : Fin 16) (x : Issue) :
    Option Word32 :=
  let wa := s.slot x.t fa
  let wb := s.slot x.t fb
  if !mmaSlots sp f32 (slotScaled wa) (slotScaled wb) (slotElem wa) (slotElem wb) then some 5
  else if badSct (slotScaled wa) sct || !s.fp32Tiles x.t d.val 4 then some 0 else none

def execMma (g : Guard) (f32 : Bool) (fa fb : Fin 8) (d : Fin 256) (a b : Fin 768) (sct : Fin 16) (cv : Fin 8)
    (s : State) : Result :=
  armOp (.mma g f32 fa fb d a b sct cv) s cv (.mma false f32 d.val a.val b.val fa fb sct.val)
    (s.mmaCheck false f32 fa fb d sct)

def execMmaSp (g : Guard) (f32 : Bool) (fa fb : Fin 8) (d : Fin 256) (a b : Fin 768) (sct : Fin 16) (cv : Fin 8)
    (s : State) : Result :=
  armOp (.mmaSp g f32 fa fb d a b sct cv) s cv (.mma true f32 d.val a.val b.val fa fb sct.val)
    (s.mmaCheck true f32 fa fb d sct)

def execMmaw (g : Guard) (slot : Fin 8) (d : Fin 256) (a b : Fin 768) (m : Fin 16) (cv : Fin 8) (s : State) : Result :=
  armOp (.mmaw g slot d a b m cv) s cv (.mmaw d.val a.val b.val slot m.val) fun x =>
    let w := s.slot x.t slot
    if slotElem w != .slice7 then some 5
    else if m.val < 2 ∨ slotSlices w + 1 < m.val ∨ d.val % 16 ≠ 0 ∨ 4 * (s.gridOf x.t).needs.wblocks < d.val + 16 then
      some 0
    else none

/-- R397: a dendritic slot holds a format of R368 and binds a curve block and a branch map. -/
def dnSlotOk (w : Word32) : Bool :=
  (match slotElem w with
   | .bf16 | .fp16 | .e5m2 | .e4m3 | .e3m2 | .e2m3 | .e2m1 | .int8 | .int4 => true
   | _ => false) && !(slotCurve w == 0 && slotBmap w == 0)

/-- R385, R397: the slot suits and is loaded for the team. -/
def State.dnReady (s : State) (t : Nat) (slot : Fin 8) : Bool :=
  dnSlotOk (s.slot t slot) && (nth (s.team t).dnslots slot.val).loaded

def execMmaDn (g : Guard) (fin : Bool) (slot : Fin 8) (d : Fin 256) (a b : Fin 768) (sct : Fin 16) (cv : Fin 8)
    (s : State) : Result :=
  armOp (.mmaDn g fin slot d a b sct cv) s cv (.dn d.val a.val b.val slot sct.val fin) fun x =>
    if !s.dnReady x.t slot then some 5
    else if badSct (slotScaled (s.slot x.t slot)) sct || !s.fp32Tiles x.t d.val (4 + 4 * (s.team x.t).loadedNb slot) then
      some 0
    else none

def execMmaDnb (g : Guard) (db : Bool) (slot : Fin 8) (d : Fin 256) (frag : Fin 768) (t : Fin 256) (sct : Fin 16)
    (cv : Fin 8) (s : State) : Result :=
  armOp (.mmaDnb g db slot d frag t sct cv) s cv (.dnb db d.val frag.val t.val slot sct.val) fun x =>
    let n := 4 + 4 * (s.team x.t).loadedNb slot
    if !s.dnReady x.t slot then some 5
    else if badSct (slotScaled (s.slot x.t slot)) sct || !s.fp32Tiles x.t d.val 4 || !s.fp32Tiles x.t t.val n ||
        (decide (d.val < t.val + n) && decide (t.val < d.val + 4)) then some 0
    else none

/-! ## Direct operations (R373 to R377, R385, R392) -/

/-- A direct operation: once per issue if Active() is not empty, counted in w3, its results outstanding until
commit. `reads` are the tiles that it reads, which a seal of the crew protects. Its check is one of the whole instruction, and
traps whatever the predicate (R67, R230), where it is one of the instruction's fields and slots. -/
def directOp (i : Instr) (s : State) (check : Issue → Checks) (reads : List Nat) (k : Issue → MKind)
    (lines : Issue → List (Nat × Nat)) (trap : Issue → Option (Nat × Nat)) : Result :=
  crewOp i s (fun x => { check x with reads := reads.map Res.acc }) fun x =>
    if x.act = 0 then s
    else
      match trap x with
      | some (cls, info) => s.trap x.t x.c cls x.act (fun _ => BitVec.ofNat 32 info) x.pc
      | none =>
        if 63 ≤ (s.crew x.t x.c).counter 3 then s.stall
        else
          let (id, s) := s.fresh
          let (ord, s) := s.fresh
          let m : MatrixOp := ⟨id, (s.team x.t).core, x.t, x.c, x.pc, x.act, none, k x, .issued, ord, 0, [(x.c, id)],
            [(x.c, x.act)], [], [], [], [], lines x, 0, s.orderedBefore x.t x.c, 0, none⟩
          { (s.clearPresence (lines x)).modCrew x.t x.c fun cr =>
              let cr := (cr.raise 3 id).sealUp 3 [.mem]
              if x.inf.dsts.isEmpty then cr else cr.await id x.inf.dsts with
            mops := s.mops ++ [m]
            freeCtr := s.freeCtr + cellSpan }

def noTrap (_ : Issue) : Option (Nat × Nat) := none
def noLines (_ : Issue) : List (Nat × Nat) := []

/-- Whether a range of tiles covers only part of a wide block (R373). -/
def splitsWide (wblocks d n : Nat) : Bool :=
  (List.range wblocks).any fun q =>
    let k := ((List.range 4).filter fun i => decide (d ≤ 4 * q + i) && decide (4 * q + i < d + n)).length
    k != 0 && k != 4

def execAcclr (g : Guard) (d : Fin 256) (a : Opnd) (s : State) : Result :=
  directOp (.acclr g d a) s (fun x =>
      let n := s.rd32 x.t x.c a (lowestLane x.act)
      let k := (s.gridOf x.t).needs
      if x.act ≠ 0 ∧ (n = 0 ∨ 256 < n ∨ k.atiles < d.val + n ∨ splitsWide k.wblocks d.val n) then { bundle := some 0 } else {}) []
    (fun x => .acclr d.val (s.rd32 x.t x.c a (lowestLane x.act))) noLines noTrap

/-- R374: checks of the tile and the tensor of accld and accst. -/
def State.tensorCheck (s : State) (tile treg : Nat) (x : Issue) : Checks :=
  let d := Desc.of (s.tile x.t treg)
  if !s.fp32Tiles x.t tile 1 then { bundle := some 0 }
  else if d.sparse != 0 || d.rows != 32 || d.cols != 32 || s.descElem x.t d != .fp32 || !d.shapeOk .fp32 then
    { active := some 6 }
  else {}

/-- R333, R374: the trap of the tensor's extent, whose window is that of its base. -/
def State.tensorTrap (s : State) (treg : Nat) (x : Issue) : Option (Nat × Nat) :=
  let d := Desc.of (s.tile x.t treg)
  match d.misaligned with
  | some a => some (5, a % 65536)
  | none => (d.spans .fp32 false).findSome? fun p => (s.spanCheck x.t (globalAddr d.base) p).map fun i => (6, i)

def execAccld (g : Guard) (d : Fin 256) (t : Fin 16) (s : State) : Result :=
  directOp (.accld g d t) s (s.tensorCheck d.val t.val) [] (fun x => .accld d.val (s.tile x.t t.val)) noLines
    (s.tensorTrap t.val)

def execAccst (g : Guard) (t : Fin 16) (a : Fin 256) (s : State) : Result :=
  directOp (.accst g t a) s (s.tensorCheck a.val t.val) [a.val] (fun x => .accst (s.tile x.t t.val) a.val)
    (fun x => (((Desc.of (s.tile x.t t.val)).spans .fp32 false).flatMap fun p => s.spanLines x.t p).eraseDups)
    (s.tensorTrap t.val)

def execAccrd (g : Guard) (d : Fin 768) (a : Fin 256) (h : Bool) (s : State) : Result :=
  directOp (.accrd g d a h) s (fun x => if s.fp32Tiles x.t a.val 1 then {} else { bundle := some 0 }) [a.val]
    (fun _ => .accrd d.val a.val (if h then 1 else 0)) noLines noTrap

/-- The signed exponents of acccvt in two registers from `r` (R372), as the engine reads them (R270). -/
def State.exponents (s : State) (x : Issue) (r : Nat) : List Int :=
  (List.range 32).map fun i => (s.cellRead x.t x.c (r + i / 16) (i % 16)).toInt

def execAcccvt (g : Guard) (f64 : Bool) (slot : Fin 8) (d : Fin 768) (a : Fin 256) (e : Fin 768) (h : Bool) (s : State) :
    Result :=
  directOp (.acccvt g f64 slot d a e h) s (fun x =>
      if slotElem (s.slot x.t slot) != .slice7 then { bundle := some 5 }
      else if a.val % 4 ≠ 0 ∨ 4 * (s.gridOf x.t).needs.wblocks ≤ a.val then { bundle := some 0 } else {})
    [a.val, a.val + 1, a.val + 2, a.val + 3]
    (fun x => .acccvt f64 d.val a.val (if h then 1 else 0) slot (s.exponents x e.val) (s.exponents x (e.val + 2))) noLines
    noTrap

def execDntap (g : Guard) (m : TapMode) (slot : Fin 8) (d : Fin 768) (t : Fin 256) (h : Bool) (b : Fin 16) (s : State) :
    Result :=
  directOp (.dntap g m slot d t h b) s (fun x =>
      if !s.dnReady x.t slot then { bundle := some 5 }
      else if (s.team x.t).loadedNb slot ≤ b.val ∨ !s.fp32Tiles x.t t.val 1 then { bundle := some 0 } else {}) [t.val]
    (fun _ => .dntap m d.val t.val (if h then 1 else 0) b.val slot) noLines noTrap

def execDnload (g : Guard) (slot : Fin 8) (s : State) : Result :=
  directOp (.dnload g slot) s (fun x => if dnSlotOk (s.slot x.t slot) then {} else { bundle := some 5 }) []
    (fun _ => .dnload slot) noLines noTrap

def execMwait (g : Guard) (a : Opnd) (s : State) : Result :=
  crewOp (.mwait g a) s (s.boundCheck a) fun x =>
    if x.act = 0 then s
    else s.releaseRun x fun th => some (.matrix (s.rd32 x.t x.c a (lowestLane x.act)) x.pc th.loops th.loopSkip)

/-! ## Fetches (R361, R369, R385, R387, R395) -/

/-- Slot and scale tile of an operation with block scales or tables. -/
def MKind.slots : MKind → Option (Fin 8 × Fin 8 × Nat)
  | .mma _ _ _ _ _ fa fb sct => some (fa, fb, sct)
  | .dn _ _ _ slot sct _ | .dnb _ _ _ _ slot sct => some (slot, slot, sct)
  | _ => none

def MKind.sparseA : MKind → Bool
  | .mma sp _ _ _ _ _ _ _ => sp
  | _ => false

/-- Addresses of the scale bytes that an operation fetches, A's and then B's (R369); mma.dnb has one fragment. -/
def State.scaleAddrsOf (s : State) (m : MatrixOp) : List Nat :=
  match m.kind.slots with
  | none => []
  | some (fa, _, sct) =>
    if !slotScaled (s.slot m.team fa) then []
    else
      let kb := (shapeK (s.slotElemOf m.team fa) m.kind.sparseA + 31) / 32
      let a := scaleAddrs (Desc.of (s.tile m.team sct)) kb
      let b := scaleAddrs (Desc.of (s.tile m.team (sct + 1))) kb
      match m.kind with
      | .dnb true _ _ _ _ _ => a
      | .dnb false _ _ _ _ _ => b
      | _ => a ++ b

/-- The dendritic slot whose tables an operation fetches. -/
def MKind.tableSlot : MKind → Option (Fin 8)
  | .dn _ _ _ slot _ _ | .dnb _ _ _ _ slot _ | .dnload slot => some slot
  | .dntap _ _ _ _ _ slot => some slot
  | _ => none

/-- Address of a slot's branch map and curve block (R120, R407). -/
def Grid.mapAt (g : Grid) (w : Word32) : Nat := (nth g.bmaps (slotBmap w - 1)).toNat
def Grid.curveAt (g : Grid) (w : Word32) : Nat := (nth g.curves (slotCurve w - 1)).toNat

/-- Branch count that tells how many curves a fetch takes: the loaded one, or for dnload the map's own. -/
def State.tableNb (s : State) (m : MatrixOp) (slot : Fin 8) : Nat :=
  match m.kind with
  | .dnload _ => (BranchMap.of m.tables).nb
  | _ => (s.team m.team).loadedNb slot

/-- What an operation fetches, as (kind, range): scale bytes, map, curves. -/
def State.fetches (s : State) (m : MatrixOp) : List (Fin 3 × (Nat × Nat)) :=
  (s.scaleAddrsOf m).map (fun a => ((0 : Fin 3), (a, 1))) ++
  (match m.kind.tableSlot with
   | none => ([] : List (Fin 3 × (Nat × Nat)))
   | some slot =>
     let g := s.gridOf m.team
     let w := s.slot m.team slot
     [((2 : Fin 3), (g.mapAt w, 128)), ((1 : Fin 3), (g.curveAt w, 272 * min 16 (s.tableNb m slot)))])

/-- What the accesses of an operation are made for. -/
def MatrixOp.engine (m : MatrixOp) : Engine := ⟨m.core, m.team, m.counts.map Prod.fst, .op m.id, none⟩

/-- Whether an address lies in no window of matrix reads, or at no place of a scratchpad window (R245, R361). -/
def State.hardAddr (s : State) (t a : Nat) : Bool :=
  match decodeAddr a with
  | .error _ => true
  | .ok (.stack _) => true
  | .ok (.global _) => false
  | _ => (s.padByte t a).isNone

/-- The fault-buffer entry of a page. -/
def State.entryOf (s : State) (die : Nat) (pasid : BitVec 20) (a : Nat) : Option Nat :=
  (List.range 8).find? fun i =>
    let f := nth (s.die die).fbuf i
    f.valid && f.resp == 0 && f.pasid == pasid && f.page == pageOf a && !f.w

/-- R382, R383, R395: whether fetched tables are malformed, or their NB differs from the loaded one. -/
def State.badTables (s : State) (m : MatrixOp) (slot : Fin 8) (map curves : List Byte) : Option (Fin 3) :=
  let bm := BranchMap.of map
  let loaded := match m.kind with
    | .dnload _ => bm.nb
    | _ => (s.team m.team).loadedNb slot
  if bm.malformed (shapeK (s.slotElemOf m.team slot) false) || bm.nb != loaded then some 2
  else if (List.range bm.nb).any fun b => Curve.malformed (tableCurve (map ++ curves) b) then some 1 else none

/-- The byte of a range in the page that an operation's fetches have found not present. -/
def MatrixOp.missed (m : MatrixOp) (span : Nat × Nat) : Option Nat :=
  m.fault.bind fun p => (spanPages span).find? fun a => pageOf a == p

/-- A fault of the fetches of an operation that is about to start: kind, HARD, CONTENT, address, and the fault-buffer entry of
a missing page, which stays one whatever a replay brings (R361). -/
def State.fetchFault (s : State) (m : MatrixOp) : Option (Fin 3 × Bool × Bool × Nat × Option (Nat × Nat)) :=
  let die := m.core / 64
  let page := (s.fetches m).findSome? fun f =>
    match (spanMarks f.2).find? (s.hardAddr m.team), s.spanRefused m.engine false f.2, m.missed f.2 with
    | some a, _, _ => some (f.1, true, false, a, none)
    | none, some a, _ => some (f.1, true, false, a, none)
    | none, none, some a => some (f.1, false, false, a, (s.entryOf die (s.fe (s.feOf m.team)).pasid a).map fun i => (die, i))
    | none, none, none => none
  if m.stage ≠ .issued then none else match page with
  | some p => some p
  | none =>
    match m.kind.tableSlot with
    | none => none
    | some slot =>
      if m.tables.length < 128 then none
      else
        let w := s.slot m.team slot
        match s.badTables m slot (m.tables.take 128) (m.tables.drop 128) with
        | some k => some (k, true, true, if k = 2 then (s.gridOf m.team).mapAt w else (s.gridOf m.team).curveAt w, none)
        | none => none

/-! ## Start (R348, R353) -/

def State.modOp (s : State) (id : Nat) (f : MatrixOp → MatrixOp) : State :=
  { s with mops := s.mops.map fun m => if m.id = id then f m else m }

def State.mop (s : State) (id : Nat) : Option MatrixOp := s.mops.find? fun m => m.id == id

def MStage.running : MStage → Bool
  | .started | .pass => true
  | _ => false

/-- Whether an operation may start: in the order in which the team's operations became ready, with a place in the
engine, and after what a seal or fence orders before its reads (R356). -/
def State.canStart (s : State) (m : MatrixOp) : Bool :=
  m.stage == .issued && (m.after.all fun n => !s.accPending n) &&
    decide (s.mops.countP (fun k => k.core == m.core && k.stage.running) < 16) &&
    s.mops.all fun k => k.team != m.team || k.stage != .issued || decide (m.order ≤ k.order)

/-- Fragments that a convergent operation captures (R351, R353). -/
def State.capture (s : State) (m : MatrixOp) (k : Conv) : List (List Word32) × List (List Word32) :=
  let t := m.team
  match m.kind with
  | .mma sp _ _ a b fa _ _ =>
    let e := s.slotElemOf t fa
    let w := wordsOf e (shapeK e false)
    (s.fragment t a (if sp then (spWords e).1 else w) k, s.fragment t b (if sp then 16 else w) k)
  | .mmaw _ a b _ _ => (s.fragment t a 8 k, s.fragment t b 8 k)
  | .dn _ a b slot _ _ =>
    let w := wordsOf (s.slotElemOf t slot) (shapeK (s.slotElemOf t slot) false)
    (s.fragment t a w k, s.fragment t b w k)
  | .dnb _ _ f _ slot _ => (s.fragment t f (wordsOf (s.slotElemOf t slot) (shapeK (s.slotElemOf t slot) false)) k, [])
  | _ => ([], [])

/-- Fetch what an operation's ranges hold, all pages being at hand. -/
def State.fetchAll (s : State) (m : MatrixOp) (l : List (Fin 3 × (Nat × Nat))) : List Byte × List Byte × State :=
  l.foldl (fun p f =>
    let (bs, s) := p.2.2.engineRead m.engine f.2
    if f.1 = 0 then (p.1 ++ bs, p.2.1, s) else (p.1, p.2.1 ++ bs, s)) ([], [], s)

/-- Scratchpad lines that an operation reads have their bits set. -/
def State.linesSet (s : State) (t : Nat) (spans : List (Nat × Nat)) : Bool :=
  (spans.flatMap fun p => s.spanLines t p).all fun k => !(s.team k.1).absent.contains k.2

/-- %tinfo of a matrix fetch fault (R361). -/
def fetchInfo (m : MatrixOp) (kind : Fin 3) (hard content : Bool) (a : Nat) : Word32 :=
  BitVec.ofNat 32 (a / 4096 % 2 ^ 20 * 4096 + (if content then 64 else 0) +
    8 * (match m.cv with
      | some cv => cv.val
      | none => 0) + (if hard then 4 else 0) + kind.val)

/-- A peer refuses a fetch of an operation: a fault that no relaunch follows (R361, R450). -/
def State.refuseFetch (s : State) (m : MatrixOp) : State :=
  let asks (f : Fin 3 × (Nat × Nat)) : Option (Fin 3 × Nat) :=
    ((spanPages f.2).find? fun a =>
      (s.walk (m.core / 64) (s.feOf m.team) m.core a false (.op m.id)).1.any isPeer).map fun a => (f.1, a)
  let (k, a) := ((s.fetches m).findSome? asks).getD (0, 0)
  s.killTeam m.team m.crew 11 m.lanes m.pc (fetchInfo m k true false a) { imprecise := true } false none

/-- Whether tables fetched for dnload hold a map only, or a map of another NB than that for which the curves beside it were
fetched (R385, R387). -/
def State.mapFirst (s : State) (m : MatrixOp) (slot : Fin 8) (tables : List Byte) : Bool :=
  match m.kind with
  | .dnload _ => decide (m.tables.length < 128) || (BranchMap.of tables).nb != s.tableNb m slot
  | _ => false

/-- MATRIX_OP_START: an operation whose turn it is starts, once its tables and scales are at hand; a map of dnload is
read before its curves, and once more with them. -/
def execMatrixOpStart (op : Nat) (s : State) : Result :=
  .next (match s.mop op with
    | none => s
    | some m =>
      if !s.canStart m || (s.fetchFault m).isSome then s
      else
        let l := s.fetches m
        let spans := l.map Prod.snd
        if !s.linesSet m.team spans then s
        else
          let (ok, s) := s.spansReady m.engine (spans.map fun p => (false, p))
          let (no, s) := if ok then s.engineRefused m.engine false (spans.map fun p => (false, p)) else (false, s)
          if no then s.refuseFetch m
          else if !ok then s
          else
            let (sc, tb, s) := s.fetchAll m l
            if m.kind.tableSlot.any fun slot => s.mapFirst m slot tb then s.modOp op fun m => { m with tables := tb.take 128 }
            else
              let bad := match m.kind.tableSlot with
                | some slot => (s.badTables m slot (tb.take 128) (tb.drop 128)).isSome
                | none => false
              if bad then s.modOp op fun m => { m with tables := tb }
              else
                let f := s.capture m (match m.cv with
                  | some cv => nth (s.team m.team).conv cv.val
                  | none => Conv.zero)
                let (n, s) := { s with freeCtr := s.freeCtr + cellSpan }.fresh
                s.modOp op fun m =>
                  { m with stage := .started, began := n, fragA := f.1, fragB := f.2, scales := sc, tables := tb })

/-- MATRIX_FETCH_FAULT (R361, R395): the fault that an operation's fetches have met kills its team; a missing page
makes the relaunch wait for its answer. -/
def execMatrixFetchFault (op : Nat) (kind : Fin 3) (hard content : Bool) (addr : Word64) (s : State) : Result :=
  .next (match s.mop op with
    | none => s
    | some m =>
      match s.fetchFault m with
      | none => s
      | some (k, h, c, a, wait) =>
        if k = kind ∧ h = hard ∧ c = content ∧ a = addr.toNat then
          let refused := h && !c && (s.fetches m).any fun f => s.spanRefused m.engine false f.2 == some a
          s.killTeam m.team m.crew 11 m.lanes m.pc (fetchInfo m k h c a) { imprecise := true } (!refused) wait
        else s)

/-! ## Commit (R355, R357, R359) -/

/-- Whether an operation of the team that started earlier has to commit first: it shares a tile, or an error of it has
been detected. -/
def State.commitBehind (s : State) (m : MatrixOp) : Bool :=
  let mine := (s.team m.team).tilesOf m.kind
  s.mops.any fun k => k.team == m.team && k.stage.running && decide (k.order < m.order) &&
    (k.tries != 0 || ((s.team m.team).tilesOf k.kind).any mine.contains)

def MKind.needsPass : MKind → Bool
  | .dn _ _ _ _ _ fin => fin
  | _ => false

/-- Whether an operation may commit; one with a curve pass does when its pass has ended, and none of its core whose pass comes later
has ended then (R390). -/
def State.canCommit (s : State) (m : MatrixOp) : Bool :=
  (if m.kind.needsPass then m.stage == .pass else m.stage == .started) && !s.commitBehind m

/-- Write registers of the lanes of a direct operation: element (r, c) of 16 rows from row `16 h`. -/
def State.writeRows (s : State) (m : MatrixOp) (v h : Nat) (f64 : Bool) (f : Nat → Nat → Nat) : State :=
  s.modCrew m.team m.crew fun cr => (List.range 16).foldl (fun cr i => (List.range 32).foldl (fun cr c =>
    if m.lanes.getLsbD (c % 16) then
      let x := f (16 * h + i) c
      if f64 then cr.setV64 (v + 4 * i + 2 * (c / 16)) (c % 16) (BitVec.ofNat 64 x)
      else cr.setV (v + 2 * i + c / 16) (c % 16) (BitVec.ofNat 32 x)
    else cr) cr) cr

/-- Values of the operands of an operation with their scales, and the flag of a scale of 0xFF. -/
def State.operands (s : State) (m : MatrixOp) : List (List FV) × List (List FV) × Flags5 :=
  match m.kind.slots with
  | none => ([], [], 0)
  | some (fa, fb, _) =>
    let ea := s.slotElemOf m.team fa
    let sp := m.kind.sparseA
    let k := shapeK ea sp
    let kb := (k + 31) / 32
    let sc (o b c : Nat) : Option Nat := scaleOf m.scales o kb b c
    let fl := if m.scales.any fun x => x == 255 then fNV else 0
    (operandValues ea sp k m.fragA (sc 0), operandValues (s.slotElemOf m.team fb) false k m.fragB (sc (2 * kb)), fl)

/-- Draw of an element of acccvt (R376). -/
def State.cvtDraw (s : State) (m : MatrixOp) (a e : Nat) : Nat :=
  let r := (s.gridOf m.team).record
  (philoxDraws (philox (BitVec.ofNat 32 (e / 8)) 0xFFFFFFFE (BitVec.ofNat 32 (s.team m.team).index) (BitVec.ofNat 32 a)
    (r.key 0) (r.key 1))).getD (e % 8) 0

/-- The effect of an operation on tiles and registers, with its flags: bits 0 to 4 of R113, and OVT (R357). -/
def State.compute (s : State) (m : MatrixOp) : State × Flags5 × Bool :=
  let t := m.team
  let tile (r : Team × Flags5) : State × Flags5 × Bool := (s.modTeam t fun _ => r.1, r.2, false)
  let tm := s.team t
  match m.kind with
  | .mma _ f32 d _ _ _ _ _ =>
    let (as, bs, fl) := s.operands m
    tile (mmaBlock tm d f32 as bs fl)
  | .mmaw d _ _ _ k => tile (mmawBlock tm d k m.fragA m.fragB)
  | .dn d _ _ _ _ fin =>
    let (as, bs, fl) := s.operands m
    tile (dnBlock tm d fin m.tables as bs fl)
  | .dnb db d _ tap _ _ =>
    let (as, _, fl) := s.operands m
    tile (dnbBlock tm db d tap m.tables as fl)
  | .acclr d n =>
    let wide := 4 * (s.gridOf t).needs.wblocks
    tile ((List.range n).foldl (fun tm i =>
      let k := d + i
      if k < wide then (if k % 4 = 0 then tm.setWide k Wide.cleared else tm)
      else { tm with accs := (List.range 1024).foldl (fun a j => Sparse.set a (1024 * k + j) 0) tm.accs }) tm, 0)
  | .accld d desc =>
    let word (r c : Nat) : Word32 := BitVec.ofNat 32 (rowElem .fp32 ((m.tables.drop (128 * r)).take 128) c)
    tile ((List.range 32).foldl (fun tm r => (List.range 32).foldl (fun tm c =>
      if (Desc.of desc).orient then tm.setAcc d c r (word r c) else tm.setAcc d r c (word r c)) tm) tm, 0)
  | .accst _ _ => (s, 0, false)
  | .accrd v a h => (s.writeRows m v h false fun r c => (tm.acc a r c).toNat, 0, false)
  | .acccvt f64 v a h slot rows cols =>
    let b := tm.wide a
    let w := s.slot t slot
    let el (r c : Nat) : Rounded :=
      let k := 32 * r + c
      cvtElem b k f64 (nth rows r) (nth cols c) (slotRound w (s.cvtDraw m a k)) (slotOvf w)
    let all := (List.range 16).flatMap fun i => (List.range 32).map fun c => el (16 * h + i) c
    (s.writeRows m v h f64 fun r c => (el r c).code, all.foldl (fun f x => f ||| x.flags) 0, all.any Rounded.trap)
  | .dntap mode v tp h b _ =>
    let cv := tableCurve m.tables b
    let el (r c : Nat) : Rounded :=
      let x := (tm.acc tp r c).toNat
      match mode with
      | .pre => Rounded.exact x
      | .out => cv.eval x
      | .slope => cv.slope x
    let all := (List.range 16).flatMap fun i => (List.range 32).map fun c => el (16 * h + i) c
    (s.writeRows m v h false fun r c => (el r c).code, all.foldl (fun f x => f ||| x.flags) 0, false)
  | .dnload slot =>
    let nb := (BranchMap.of m.tables).nb
    (s.modTeam t fun tm => { tm with dnslots := upd tm.dnslots slot.val fun _ => ⟨true, nb⟩ }, 0, false)

/-- An operation commits: its effect, its flags in the lanes that armed, signed or issued it, its counts, its lines, its
register. -/
def State.commit (s : State) (m : MatrixOp) : State :=
  let (s, fl, ovt) := s.compute m
  let bits : Word32 := fl.setWidth 32 ||| (if ovt then 32 else 0)
  let s := m.sets.foldl (fun s p => s.modCrew m.team p.1 fun cr => cr.modLanes p.2 fun _ th =>
    { th with mflags := th.mflags ||| bits }) s
  let s := m.counts.foldl (fun s p => s.modCrew m.team p.1 fun cr => cr.lower p.2) s
  let s := (s.modCrew m.team m.crew fun cr => cr.returned m.id).setPresence m.lines
  let s := match m.cv with
    | some cv => s.modConv m.team cv fun _ => Conv.zero
    | none => s
  { s with mops := s.mops.filter fun k => k.id != m.id }

/-- The tensor of an accld or accst, and whether it is written. -/
def MKind.tensor : MKind → Option (Bool × Desc)
  | .accld _ d => some (false, Desc.of d)
  | .accst d _ => some (true, Desc.of d)
  | _ => none

/-- The row of its tensor that an operation has to move next, as (write, range). -/
def MatrixOp.rowSpan (m : MatrixOp) : Option (Bool × (Nat × Nat)) :=
  if 32 ≤ m.unit then none else m.kind.tensor.map fun p => (p.1, (p.2.base + m.unit * p.2.stride, 128))

/-- Move a row between memory and a tile (R374): accld gathers what it reads, and accst writes, and sets the bits of lines that
no later row touches. -/
def State.moveRow (s : State) (m : MatrixOp) (span : Nat × Nat) : State :=
  match m.kind with
  | .accst desc a =>
    let k := Desc.of desc
    let tm := s.team m.team
    let r := m.unit
    let s := s.engineWrite m.engine span.1
      ((List.range 32).flatMap fun c => bytesOf 4 (if k.orient then tm.acc a c r else tm.acc a r c).toNat)
    let later := (List.range 32).flatMap fun i => if r < i then s.spanLines m.team (k.base + i * k.stride, 128) else []
    let go := m.lines.filter fun p => !later.contains p
    (s.setPresence go).modOp m.id fun m => { m with unit := r + 1, lines := m.lines.filter fun p => !go.contains p }
  | _ =>
    let (bs, s) := s.engineRead m.engine span
    s.modOp m.id fun m => { m with unit := m.unit + 1, tables := m.tables ++ bs }

/-- MATRIX_COMMIT: an operation whose turn it is commits. accld and accst move their tensor first, row by row as its pages are at
hand, and a refused page kills the team as for a copy (R344, R374). -/
def execMatrixCommit (op : Nat) (s : State) : Result :=
  .next (match s.mop op with
    | none => s
    | some m =>
      if !s.canCommit m then s
      else
        match m.rowSpan with
        | none => s.commit m
        | some (w, span) =>
          if (s.spanRefused m.engine w span).isSome then
            s.killTeam m.team m.crew 6 m.lanes m.pc 0x20 { imprecise := true } true none
          else if !w && !s.linesSet m.team [span] then s
          else
            let (ok, s) := s.spanReady m.engine w span
            let (no, s) := if ok then s.engineRefused m.engine false [(w, span)] else (false, s)
            if no then s.killTeam m.team m.crew 6 m.lanes m.pc 0x20 { imprecise := true } true none
            else if ok then s.moveRow m span else s)

/-- RESIDUE_RETRY (R359): a detected error discards an attempt; the third one is not retried. -/
def execResidueRetry (op : Nat) (s : State) : Result :=
  .next (match s.mop op with
    | none => s
    | some m => if m.stage.running ∧ m.tries < 2 then s.modOp op fun m => { m with tries := m.tries + 1 } else s)

/-- CURVE_PASS_END (R390): the pass of the first .fin operation of the core in start order ends, and the operation commits next. -/
def execCurvePassEnd (op : Nat) (s : State) : Result :=
  .next (match s.mop op with
    | none => s
    | some m =>
      if m.kind.needsPass ∧ m.stage = .started ∧ !s.commitBehind m ∧
          (s.mops.all fun k => k.core != m.core || k.stage != .pass) ∧
          (s.mops.all fun k => k.core != m.core || !k.kind.needsPass || k.stage != .started || decide (m.began ≤ k.began))
      then s.modOp op fun m => { m with stage := .pass } else s)

end Sys2Proof.Machine
end

