-- ==== Sys2Proof/Machine/Context.lean ====
section
/-! DEFINITION. Saving a team at an instruction boundary, restoring it, the spill of a held bank, the fallback of a
failed operation, and the privileged instructions (R62, R208, R237 to R239, R249, R265, R288, R298, R299, R317, R342,
R358, R360, R379). -/

namespace Sys2Proof.Machine

/-! ## What an instruction-boundary stop waits for (R237, R265, R298, R299, R343, R379) -/

/-- Whether a stop need not wait for an operation of a team: it is not started, or is to start again (R360, R379). A convergent one
that every member has signed is started, and commits, unless it comes after an access that the stop does not wait for (log 31). -/
def State.opStops (s : State) (m : MatrixOp) : Bool :=
  match m.stage with
  | .armed | .again => true
  | .issued => m.cv.isNone || s.log.any fun e => e.lanes.any fun a => m.after.contains a.acc && a.status.pends && s.accStops e a
  | _ => false

/-- Teams of a core that stay on it. -/
def State.staysOn (s : State) (core : Nat) : Bool := (s.teamsOn core).any fun t => !(s.team t).saving

/-- Whether a team's tiles stay in their bank: every team of its core is being saved, and not for a migration (R358). -/
def State.holdsTiles (s : State) (t : Nat) : Bool :=
  let core := (s.team t).core
  !s.staysOn core && !(s.fe (s.feOf t)).migState.still && !(s.core core).failed && (s.gridOf t).needs.atiles != 0

/-- R358: a bank that is held already is spilled before another one. -/
def State.bankWaits (s : State) (t : Nat) : Bool :=
  s.holdsTiles t && (s.heldOn (s.team t).core).any fun k =>
    (s.team k).tilesAt == .held && (s.team k).bank != (s.team t).bank

/-- Whether what a team has begun is complete (R237). -/
def State.stopped (s : State) (t : Nat) : Bool :=
  let tm := s.team t
  tm.status == .resident && tm.saving && !s.bankWaits t &&
  (s.log.all fun e => e.lanes.all fun a => (e.team != t && s.padOwner e a != some t) || s.accStops e a) &&
  (s.copies.all fun c => (c.team != t || c.orphan.isSome || c.long) &&
    ((c.team == t && c.orphan.isNone) || c.lines.all fun p => p.1 != t)) &&
  (s.mops.all fun m => m.team != t || s.opStops m) && (s.cross.all fun x => x.team != t) &&
  (List.range tm.crews.length).all fun c => s.clocksHold t c

/-- Crews of a team that have written through ports since the last zero-length reads on these. -/
def State.portCrews (s : State) (t : Nat) : List Nat :=
  (List.range (s.team t).crews.length).filter fun c => !(s.crew t c).ports.isEmpty

/-- INSTRUCTION_BOUNDARY_STOP may save the team. -/
def State.saveReady (s : State) (t : Nat) : Bool := s.stopped t && (s.portCrews t).isEmpty

/-- The fence at the save waits for zero-length reads on a crew's ports (R288, R467). -/
def State.fencePorts (s : State) (t c : Nat) : State :=
  let (id, s) := s.fresh
  let n := s.nextAcc
  let a : LaneAcc :=
    { lane := 0, acc := n, addr := 0, data := 0, data2 := 0, elem := 0, parked := false, order := .rel, scope := .sys,
      status := .hostRead (.guard 0 false 0), after := [], stamp := noClock, tso := false }
  { s with
    nextAcc := n + 1
    log := s.log ++ [⟨id, (s.team t).core, t, c, 0, 0, .fence, true, BitVec.allOnes 16, [a], false⟩] }

/-! ## Taking back what has not begun -/

/-- Lanes go back to an instruction. -/
def State.backTo (s : State) (t c : Nat) (m : Mask) (pc : Word64) : State :=
  s.modCrew t c fun cr => { cr.modLanes m fun _ th => { th with pc := pc } with bundle := cr.bundle &&& ~~~m }

/-- Whether no element of a lane is complete beyond one that is not, so that its complete elements are a prefix (R265). -/
def LogEntry.prefixDone (e : LogEntry) (l : Nat) : Bool :=
  e.lanes.all fun a => a.l != l || a.status != .done || (e.openOf l).all fun b => decide (a.elem < b.elem)

/-- Whether lanes of an entry have not gone past its instruction: they stand at the next word, or their bundle stands at a
gather or scatter whose elements it is beginning; and no element of theirs would be performed twice (R265). -/
def State.canGoBack (s : State) (e : LogEntry) (m : Mask) : Bool :=
  (!e.kind.elems || (lanesOf m).all e.prefixDone) && (s.lanesAtNext e.team e.crew m e.pc ||
    ((s.longEntry e.team e.crew).map LogEntry.id == some e.id && m &&& ~~~(s.crew e.team e.crew).bundle == 0))

/-- Abandon what a lane of an entry has not completed: it stands at the instruction, to be issued again, and %pix at the
first element that is not complete (R265, R298). -/
def State.rollAcc (s : State) (e : LogEntry) (a : LaneAcc) : State :=
  let m := e.lanesFor a.lane
  let s := if e.kind.elems then
      let j := (((e.openOf a.l).head?).map LaneAcc.elem).getD a.elem
      s.modCrew e.team e.crew fun cr => cr.modLanes m fun _ th => { th with pix := BitVec.ofNat 32 j }
    else s
  (s.leaveEntry e m).backTo e.team e.crew m e.pc

/-- Abandon the accesses of a team that wait, where their lanes have not gone past; the others stay outstanding (log 31). -/
def State.abandon (s : State) (t : Nat) : State :=
  let todo := (s.log.filter fun e => e.team == t && !e.kind.bare && !e.posted).flatMap fun e =>
    e.lanes.filterMap fun a =>
      if a.parked || a.released || !a.status.pends || a.status == .later || !s.canGoBack e (e.lanesFor a.lane) then none else some (e, a)
  todo.foldl (fun s p => match s.logEntry p.1.id with
    | some e => s.rollAcc e p.2
    | none => s) s

/-- R342: stop the long copies of a team; %pix stands at the units that are complete, and a claimed stage stays claimed. -/
def State.stopCopies (s : State) (t : Nat) : State :=
  (s.copies.filter fun c => c.team == t && c.orphan.isNone).foldl (fun s c =>
    let s := s.landLines c.id c.lines []
    let s := s.modCrew t c.crew fun cr => (cr.lower c.id).modLanes (BitVec.allOnes 16) fun _ th =>
      if th.runWait = some (.copy c.id) then { th with runWait := none } else th
    let s := s.modTeam t fun tm => { tm with claims := ⟨c.crew, c.pc, c.ring, c.stage⟩ :: tm.claims }
    { s with copies := s.copies.filter fun k => k.id != c.id }) s

/-- R379: a direct operation that has not started is taken back. -/
def State.rollOp (s : State) (m : MatrixOp) : State :=
  let s := m.counts.foldl (fun s p => s.modCrew m.team p.1 fun cr => cr.lower p.2) s
  let s := ((s.modCrew m.team m.crew fun cr => cr.returned m.id).setPresence m.lines).backTo m.team m.crew m.lanes m.pc
  { s with mops := s.mops.filter fun k => k.id != m.id }

/-- One whose lanes have gone past its instruction stays as it is, and starts on the new core (log 31). -/
def State.rollOps (s : State) (t : Nat) : State :=
  (s.mops.filter fun m => m.team == t && m.stage == .issued && m.cv.isNone &&
    s.lanesAtNext m.team m.crew m.lanes m.pc).foldl State.rollOp s

/-- Task instructions that have not acted: a staged one counts as complete, its lanes going on with its result outstanding (R299,
R428); another one is abandoned, its lanes standing at it. -/
def State.dropTasks (s : State) (t : Nat) : State :=
  (s.tasks.filter fun x => x.team == t && !x.past).foldl (fun s x =>
    if x.seq.isNone then s.taskEnd x
    else
      let b := (s.crew t x.crew).bundle
      let s := s.modCrew t x.crew fun cr => cr.modLanes b fun _ th => { th with awaits := th.awaits.filter (· != x.id) }
      { s with tasks := s.tasks.map fun (y : TaskOp) => if y.id = x.id then { y with past := true } else y }.goOn t x.crew b) s

/-- The bundles of a team's crews stop part way through their gathers and scatters (R265). -/
def State.stopLongs (s : State) (t : Nat) : State :=
  (List.range (s.team t).crews.length).foldl (fun s c => s.stopLong t c) s

/-- Bring a team to an instruction boundary. The save is a fence .sc.sys of each thread that has not exited, which takes its number
(R288, R443). -/
def State.toBoundary (s : State) (t : Nat) : State :=
  let s := (((((s.abandon t).stopLongs t).stopCopies t).rollOps t).dropTasks t).modTeam t fun tm =>
    { tm with crews := tm.crews.map fun cr => { cr with bundle := 0, yielding := 0, headed := none } }
  { s with sequencer := s.sequencer + BitVec.ofNat 64 (((s.team t).crews.map fun cr =>
      (List.range cr.threads.length).countP fun l => (cr.th l).state != .exited).sum) }

/-! ## Saving (R239, R358) -/

/-- The core of an operand-log entry of a saved team: none. -/
def noCore : Nat := 2 ^ 20

/-- The tile part of a saved context: the tiles, or before a spill bytes of no defined value (R358, log 9). -/
def State.tilePart (s : State) (t : Nat) (held : Bool) : List Byte × State :=
  let n := (s.gridOf t).needs.atiles
  if held then ((List.range (4096 * n)).map fun i => Config.freeByte (s.freeCtr + i), { s with freeCtr := s.freeCtr + 4096 * n })
  else ((List.range n).flatMap (s.team t).tileBytes, s)

/-- Write a team's context to an address. -/
def State.writeContext (s : State) (t a : Nat) (held : Bool) : State :=
  let (tiles, s) := s.tilePart t held
  s.writeBytes (s.gridOf t).fe a (s.contextOf t tiles)

/-- The team gives up its blocks, but for tiles that stay in their bank; when the core has no team left and holds tiles,
the selector flips (R358). -/
def State.leaveCore (s : State) (t : Nat) (held : Bool) : State :=
  let tm := s.team t
  let tiles := (s.core tm.core).blocks.filter fun b => held && b.team == t && decide (2 ≤ b.share)
  let s := (s.freeBlocks t).modCore tm.core fun c => { c with blocks := c.blocks ++ tiles }
  let s := s.modTeam t fun tm => { tm with status := .saved, saving := false, tilesAt := if held then .held else .area }
  if (s.teamsOn tm.core).isEmpty && (s.heldOn tm.core).any fun k =>
      (s.team k).tilesAt == .held && (s.team k).bank == (s.core tm.core).bank then
    s.modCore tm.core fun c => { c with bank := 1 - c.bank }
  else s

/-- Save a team whose stop is complete. -/
def State.saveTeam (s : State) (t : Nat) : State :=
  let held := s.holdsTiles t
  let s := (s.toBoundary t).writeContext t (s.team t).saveAt held
  let s := { s with
    log := s.log.map fun (e : LogEntry) => if e.team = t then { e with core := noCore } else e
    slots := s.slots.filter fun x => x.1 != t }
  s.leaveCore t held

/-- INSTRUCTION_BOUNDARY_STOP (R237): every bundle has stopped, what it began is complete, and the team is saved, with all
that are saved with it (R300), once its ports have been read (R288). A trap that is due is taken first (R238). -/
def execInstructionBoundaryStop (team : Nat) (s : State) : Result :=
  let s := s.evalTraps team
  .next (if s.saveReady team then (s.saveTeams [team]).saveTeam team
    else if s.stopped team then (s.portCrews team).foldl (fun s c => s.fencePorts team c) s
    else s)

/-! ## Restoring (R238, R249, R299, R317, R379) -/

/-- The operations of a restored team belong to its new core; one in STATE 2 starts again (R360). -/
def State.moveOps (s : State) (t core : Nat) : State :=
  let op (m : MatrixOp) : MatrixOp := if m.team = t then
    { m with core := core, stage := if m.stage = .again then .issued else m.stage, tries := 0 } else m
  let entry (e : LogEntry) : LogEntry := if e.team = t then { e with core := core } else e
  { s with mops := s.mops.map op, log := s.log.map entry }

/-- The entries take places on the new core, and each access that waits is presented once again, its lane parking where it lacks its
place (R313, R317); a load that waits for its team's turn keeps its place in it. A lane parked at an element goes on from there
(R265). -/
def State.presentAgain (s : State) (t : Nat) : State :=
  let mine := s.log.filter fun e => e.team == t && !e.kind.bare && !e.posted
  let todo := mine.flatMap fun e =>
    (e.lanes.filter fun a => a.status.pends && a.status != .later && !a.status.isTrapping).map fun a => (e.id, a.lane)
  let s := todo.foldl (fun s p => s.presentLate p.1 p.2) s
  let later := mine.flatMap fun e =>
    (((e.lanes.filter fun a => a.status == .later && a.parked).map LaneAcc.l).eraseDups).map fun l => (e.id, l)
  later.foldl (fun s p => s.resumeElems p.1 p.2) s

/-- What a restored crew issues comes after what it had under way at the save (R288). -/
def State.afterSave (s : State) (t : Nat) : State :=
  (List.range (s.team t).crews.length).foldl (fun s c => s.modCrew t c fun cr =>
    cr.modLanes (BitVec.allOnes 16) fun l th =>
      { th with beforeAll := (th.beforeAll ++ s.pendingAccs t c (laneBit l)).eraseDups }) s

/-- Bring a seated team back to life from its context at an address; the restore acts as a fence .acq.sys (R288), and its crews'
dependency clocks read zero (R438). -/
def State.revive (s : State) (t a : Nat) : State :=
  let core := (s.team t).core
  let s := s.readContext t a ((s.team t).tilesAt == .area)
  let s := s.modTeam t fun tm => { tm with
    tilesAt := .area
    crews := tm.crews.map fun cr => { cr with age := 0, lastIssue := 0, clock := noClock } }
  (((s.moveOps t core).dropLines core).presentAgain t).afterSave t

/-- The unit of saved teams that a team belongs to. -/
def State.backUnitOf (s : State) (t : Nat) : Option WaitUnit :=
  (s.unitsOf (s.team t).grid).find? fun u => u.back && u.members.any fun m => m.1 == t

/-- Bring back the teams of a unit that were saved in `was`; others of a cooperative grid start afresh (R92). -/
def State.reviveAll (s was : State) (u : WaitUnit) (at_ : Nat → Nat) : State :=
  u.members.foldl (fun s m => if (was.team m.1).status = .saved then s.revive m.1 (at_ m.1) else s) s

/-- TEAM_RESTORE (R238, R300, R410): a saved team, with its cohort or cooperative grid, is restored; the first of them
onto the core. -/
def execTeamRestore (team core : Nat) (s : State) : Result :=
  .next (match s.backUnitOf team with
    | none => s
    | some u =>
      match s.give u core with
      | none => s
      | some s' => s'.reviveAll s u fun t => (s.team t).saveAt)

/-! ## Retirement of teams (R72) -/

/-- Whether some ranges of a team reach a scratchpad of another one. -/
def State.reachesPad (s : State) (k t : Nat) (spans : List (Nat × Nat)) : Bool :=
  k != t && spans.any fun p => (s.spanLines k p).any fun q => q.1 == t

/-- R245: whether another team's access to a team's scratchpad is outstanding, the copies and matrix operations that read or
write it among them (log 53). -/
def State.peersInside (s : State) (t : Nat) : Bool :=
  (s.log.any fun e => e.team != t && e.lanes.any fun a => a.status.pends && s.padOwner e a == some t) ||
  (s.copies.any fun c => c.team != t && ((c.lines.any fun p => p.1 == t) ||
    (c.orphan.isNone && s.reachesPad c.team t (s.srcSpans c.team c.xform c.srcD ++ s.foldWord c)))) ||
  s.mops.any fun m => s.reachesPad m.team t ((s.fetches m).map Prod.snd ++ (match m.kind.tensor with
    | some (_, d) => d.spans .fp32 false
    | none => []))

/-- Whether a team retires: when all its crews have (R72), and no peer's access to its scratchpad is outstanding (R245). -/
def State.teamOver (s : State) (t : Nat) : Bool :=
  let tm := s.team t
  tm.status == .resident && !tm.saving && (tm.crews.all Crew.retired) && !s.peersInside t &&
    (tm.guard.isNone || !(s.fe (s.gridOf t).fe).recBlocked)

/-- The record of a guard touch that no barrier has reported; where it says the crew, the lanes and the address, the
manual gives no value (R233, log 9). -/
def State.lateGuard (s : State) (t : Nat) : State :=
  match (s.team t).guard with
  | none => s
  | some info =>
    let g := s.gridOf t
    let v := Config.lateGuard info.toNat (s.team t).index
    s.post g.fe (trapRecord (v.extractLsb' 0 64) info (s.team t).index g.handle (v.extractLsb' 64 16)
      (v.extractLsb' 80 6).toNat 7 { imprecise := true })

/-- TEAM_RETIRE (R72, R195, R297). -/
def execTeamRetire (team : Nat) (s : State) : Result :=
  let g := (s.team team).grid
  .next (if !s.teamOver team then s
    else
      let s := (s.lateGuard team).freeBlocks team
      let s := s.modTeam team fun tm => { tm with status := .retired }
      let s := (s.modGrid g fun gr => { gr with ended := gr.ended + 1 }).advanceHead g
      match s.cohort team with
      | [] => s
      | k :: _ => s.evalCohort k)


/-! ## Banks (R358) -/

/-- Move a saved team's tiles to its save area. -/
def State.spillToArea (s : State) (t : Nat) : State :=
  let tm := s.team t
  let s := s.writeBytes (s.gridOf t).fe (tm.saveAt + 4096) ((List.range (s.gridOf t).needs.atiles).flatMap tm.tileBytes)
  let s := s.modCore tm.core fun c => { c with blocks := c.blocks.filter fun b => b.team != t }
  s.modTeam t fun tm => { tm with tilesAt := .area }

/-- Move a held team's tiles to the surplus bank. -/
def State.spillToSurplus (s : State) (t : Nat) : State :=
  let s := s.modCore (s.team t).core fun c => { c with blocks := c.blocks.filter fun b => b.team != t }
  s.modTeam t fun tm => { tm with tilesAt := .surplus }

/-- The tiles that a front end's saved teams have in banks go to their save areas: before a migration, and where the driver
takes its save area back (R358). -/
def State.spillAll (s : State) (fe : Nat) : State :=
  ((List.range s.teams.length).filter fun t =>
    let tm := s.team t
    tm.status == .saved && tm.tilesAt != .area && (s.gridOf t).fe == fe).foldl State.spillToArea s

/-- BANK_SPILL (R358): the held tiles of a core go to the surplus bank, when ACC is 24 and it is free, else to the save
areas; with none held, those of the surplus bank go there. -/
def execBankSpill (core : Nat) (s : State) : Result :=
  let all := s.heldOn core
  let held := all.filter fun t => (s.team t).tilesAt == .held
  let extra := all.filter fun t => (s.team t).tilesAt == .surplus
  let wide := held.all fun t => ((s.gridOf t).record.partition.extractLsb' 10 5).toNat == 24
  .next (if held.isEmpty then extra.foldl State.spillToArea s
    else if wide && extra.isEmpty then held.foldl State.spillToSurplus s
    else held.foldl State.spillToArea s)

/-! ## Fallback (R360) -/

/-- An operation that has started and not committed is to start again at restore; a direct one is taken back, the newest first, so
that its lanes end at the oldest. -/
def State.unstart (s : State) (m : MatrixOp) : State :=
  if !m.stage.running && m.stage != .issued then s
  else if m.cv.isSome then { s with mops := s.mops.map fun k => if k.id = m.id then { k with stage := .again } else k }
  else s.rollOp m

/-- RESIDUE_FALLBACK (R360): the third attempt of an operation has failed; every team of its core is saved, to run on
another core, and the core is reported and taken out of placement. -/
def execResidueFallback (op : Nat) (s : State) : Result :=
  .next (match s.mop op with
    | none => s
    | some m =>
      if !m.stage.running || m.tries < 2 then s
      else
        let s := (s.mops.filter fun k => k.core == m.core).reverse.foldl State.unstart s
        let s := (s.modCore m.core fun c => { c with failed := true }).modDie (m.core / Config.coresPerDie) fun d =>
          { d with dieFail := d.dieFail ||| ((1 : BitVec 64) <<< (m.core % 64)) }
        s.saveTeams (s.teamsOn m.core))

/-! ## Privileged instructions (R62, R208) -/

/-- THE FRAME OF THE PRIVILEGED INSTRUCTIONS: outside firmware kernels they raise the privilege trap. -/
def privOp (i : Instr) (s : State) (k : Issue → State) : Result :=
  crewOp i s noChecks fun x =>
    if (s.gridOf x.t).origin ≠ .firmware then s.trap x.t x.c 4 x.act (fun _ => BitVec.ofNat 32 x.inf.major) x.pc
    else if x.act = 0 then s
    else k x

/-- ctxsave: the context of the team of the handle is written. That of the issuing team is written as it stands, and the team goes
on; another resident team stops first and leaves its core, with all that are saved with it (R300), which is the model's choice
(log 26); one that is saved already is written again. -/
def execCtxsave (g : Guard) (a : Dst) (b : Opnd) (s : State) : Result :=
  privOp (.ctxsave g a b) s fun x =>
    let l := lowestLane x.act
    let t := s.rd32 x.t x.c b l
    let a := s.rd64 x.t x.c (dstOpnd a) l
    if t = x.t then s.writeContext t a false
    else
      match (s.team t).status with
      | .saved => (s.modTeam t fun tm => { tm with saveAt := a }).writeContext t a ((s.team t).tilesAt != .area)
      | .resident =>
        let s := (s.modTeam t fun tm => { tm with saveAt := a }).saveTeams [t]
        if s.saveReady t then s.saveTeam t else s.stall
      | _ => s

/-- ctxload: a saved team is restored from the address onto the core, with all that are restored with it (R70, R92), once it fits
there and none comes first (R300). -/
def execCtxload (g : Guard) (a : Dst) (b : Opnd) (s : State) : Result :=
  privOp (.ctxload g a b) s fun x =>
    let l := lowestLane x.act
    let t := s.rd32 x.t x.c b l
    let core := (s.team x.t).core
    if (s.team t).status ≠ .saved then s
    else
      let a := s.rd64 x.t x.c (dstOpnd a) l
      match s.backUnitOf t with
      | none => s.stall
      | some u =>
        let u := { u with members := u.members.filter (fun m => m.1 == t) ++ u.members.filter fun m => m.1 != t }
        match s.placeUnit u core with
        | none => s.stall
        | some s' => s'.reviveAll s u fun k => if k = t then a else (s.team k).saveAt

def execAccsw (g : Guard) (s : State) : Result :=
  privOp (.accsw g) s fun x => s.modCore (s.team x.t).core fun c => { c with bank := 1 - c.bank }

def execHlt (g : Guard) (s : State) : Result :=
  privOp (.hlt g) s fun x => s.modCore (s.team x.t).core fun c => { c with halted := true }

end Sys2Proof.Machine
end

