-- ==== Sys2Proof/Machine/Migration.lean ====
section
/-! DEFINITION. The move of a virtual device to another device (R452 to R457). -/

namespace Sys2Proof.Machine

def MigState.code : MigState → Nat
  | .idle => 0
  | .quiescing => 1
  | .sending => 2
  | .sent => 3
  | .receiving => 4
  | .resumed => 5
  | .aborted => 6

/-- A change of STATE posts a record (R452). -/
def State.setMig (s : State) (fe : Nat) (m : MigState) : State :=
  (s.modFe fe fun f => { f with migState := m }).post fe (stateChanged m.code)

/-- Teams of a front end. -/
def State.teamsOfFe (s : State) (fe : Nat) (p : Team → Bool) : List Nat :=
  (List.range s.teams.length).filter fun t => (s.gridOf t).fe == fe && p (s.team t)

/-- MIGCTL_GO_SOURCE (R358, R454): the front end takes no more entries, the tiles that its saved teams have in banks are
spilled, and every team of the partition stops. -/
def execMigctlGoSource (fe : Nat) (peer : BitVec 6) (other : BitVec 4) (s : State) : Result :=
  .next (if (s.fe fe).migState.still then s
    else
      let s := ((s.modFe fe fun f => { f with migPeer := peer, migFe := other }).setMig fe .quiescing).spillAll fe
      s.saveTeams (s.teamsOfFe fe fun tm => tm.status == .resident))

/-- MIGCTL_GO_TARGET (R452): the front end accepts a move. -/
def execMigctlGoTarget (fe : Nat) (peer : BitVec 6) (other : BitVec 4) (s : State) : Result :=
  .next (if (s.fe fe).migState.still then s
    else (s.modFe fe fun f => { f with
      migPeer := peer, migFe := other, landing := [], tables := [], cleared := [], freed := [] }).setMig fe .receiving)

/-! ## Numbers in what a source sends (R454) -/

/-- How the numbers of grids, teams, submissions, binaries, operations and accesses change. -/
structure Renumber where
  grid : Nat → Nat
  team : Nat → Nat
  sub : Nat → Nat
  bin : Nat → Nat
  op : Nat → Nat
  acc : Nat → Nat

/-- The place of a number in a list. -/
def placeIn (l : List Nat) (n : Nat) : Nat := l.findIdx (· == n)

def Origin.renumber (r : Renumber) : Origin → Origin
  | .ring i => .ring i
  | .node u n => .node (r.sub u) n
  | .child t c id => .child (r.team t) c (r.op id)
  | .firmware => .firmware

def Grid.renumber (r : Renumber) (fe : Nat) (g : Grid) : Grid := { g with fe := fe, origin := g.origin.renumber r }

def Thread.renumber (r : Renumber) (th : Thread) : Thread :=
  { th with
    awaits := th.awaits.map r.op
    runWait := th.runWait.map fun w => match w with
      | .copy id => .copy (r.op id)
      | w => w
    beforeAll := th.beforeAll.map r.acc
    beforeWrites := th.beforeWrites.map r.acc
    carried := th.carried.map r.acc }

def Crew.renumber (r : Renumber) (cr : Crew) : Crew :=
  { cr with
    threads := cr.threads.map (Thread.renumber r)
    counted := cr.counted.map fun k => { k with id := r.op k.id }
    outs := cr.outs.map fun k => { k with id := r.op k.id }
    copyAfter := cr.copyAfter.map r.acc
    long := cr.long.map r.op }

def Staged.renumber (r : Renumber) (k : Staged) : Staged :=
  { k with log := r.op k.log, acc := if k.kind = .launch then r.grid k.acc else r.acc k.acc }

/-- A team, with the first byte of its front end's save area before and after. -/
def Team.renumber (r : Renumber) (was now : Nat) (tm : Team) : Team :=
  { tm with
    grid := r.grid tm.grid
    crews := tm.crews.map (Crew.renumber r)
    unsealed := tm.unsealed.map fun k => { k with team := r.team k.team }
    notes := tm.notes.map fun k => { k with accs := k.accs.map r.acc }
    staged := tm.staged.map (Staged.renumber r)
    saveAt := tm.saveAt - was + now }

def Submission.renumber (r : Renumber) (fe was now : Nat) (u : Submission) : Submission :=
  { u with
    fe := fe
    bin := r.bin u.bin
    grids := u.grids.map fun k => (k.1, r.grid k.2)
    replays := u.replays.map fun k => (k.1, r.grid k.2)
    logAt := u.logAt.map fun k => (k.1, k.2 - was + now) }

def LogEntry.renumber (r : Renumber) (e : LogEntry) : LogEntry :=
  let acc (a : LaneAcc) : LaneAcc := { a with acc := r.acc a.acc, after := a.after.map r.acc }
  { e with id := r.op e.id, core := noCore, team := r.team e.team, lanes := e.lanes.map acc }

def MatrixOp.renumber (r : Renumber) (m : MatrixOp) : MatrixOp :=
  { m with
    id := r.op m.id
    team := r.team m.team
    counts := m.counts.map fun k => (k.1, r.op k.2)
    lines := m.lines.map fun k => (r.team k.1, k.2)
    after := m.after.map r.acc }

def TaskOp.renumber (r : Renumber) (x : TaskOp) : TaskOp := { x with id := r.op x.id, team := r.team x.team }

/-! ## What the source sends (R454) -/

/-- Numbers of the members of a list that belong to a front end. -/
def numbersOf {α : Type} [Inhabited α] (l : List α) (p : α → Bool) : List Nat := (List.range l.length).filter fun i => p (nth l i)

/-- A record of a change of STATE (R452), which stays with the front end that has changed. -/
def isMigRecord (r : BitVec 256) : Bool := r.extractLsb' 0 8 == 6

/-- Ticket tables and version regions that a front end's grids and submissions name. -/
def State.tableBases (s : State) (fe : Nat) : List Nat × List Nat :=
  let own := (s.grids.filter fun g => g.fe == fe && !g.retired).map Grid.record
  let nodes := (s.subs.filter fun k => k.fe == fe && !k.finished).flatMap fun k =>
    (List.range (s.bin k.bin).nodes.length).map (s.bin k.bin).recordOf
  let pick (f : Launch → Word64) : List Nat := (((own ++ nodes).map fun r => (f r).toNat).filter (· != 0)).eraseDups
  (pick Launch.tkTable, pick Launch.vregion)

/-- The ticket tables, and the headers and pointer tables of the version regions, by address. -/
def State.readTables (s : State) (fe : Nat) : Except NoPage (List (Nat × List Byte) × State) := do
  let (tks, vrs) := s.tableBases fe
  let (l, s) ← tks.foldlM (fun (l, s) a => do
    let (h, s) ← State.getNat s (feDie fe) fe .frontEnd a 64
    let (bs, s) ← s.get (feDie fe) fe .frontEnd a (64 + 64 * 2 ^ bitsOf h 0 5)
    return (l ++ [(a, bs)], s)) (([] : List (Nat × List Byte)), s)
  vrs.foldlM (fun (l, s) a => do
    let (h, s) ← State.versionHead s (feDie fe) fe .frontEnd a
    let (bs, s) ← s.get (feDie fe) fe .frontEnd a (4096 + 72 * granulesOf h)
    return (l ++ [(a, bs)], s)) (l, s)

/-- The parcel of a front end whose teams are all saved. -/
def State.parcelOf (s : State) (fe : Nat) (tables : List (Nat × List Byte)) : Parcel :=
  let f := s.fe fe
  let gs := numbersOf s.grids fun g => g.fe == fe
  let ts := numbersOf s.teams fun tm => gs.contains tm.grid
  let us := numbersOf s.subs fun k => k.fe == fe
  let r : Renumber := ⟨placeIn gs, placeIn ts, placeIn us, placeIn f.binaries, id, id⟩
  let base := f.saveBase.toNat
  let saved := ts.filter fun t => (s.team t).status == .saved
  { regs := { f with pending := f.pending.filter fun k => !isMigRecord k }
    grids := gs.map fun g => (s.grid g).renumber r fe
    teams := ts.map fun t => (s.team t).renumber r base 0
    subs := us.map fun u => (s.sub u).renumber r fe base 0
    bins := f.binaries.map s.bin
    log := (s.log.filter fun e => ts.contains e.team && !e.posted).map (LogEntry.renumber r)
    ops := (s.mops.filter fun m => ts.contains m.team).map (MatrixOp.renumber r)
    tasks := (s.tasks.filter fun x => ts.contains x.team).map (TaskOp.renumber r)
    area := saved.map fun t =>
      ((s.team t).saveAt - base, Sparse.getList s.mem (s.team t).saveAt (s.gridOf t).contextBytes)
    lost := (s.lost.filter fun k => k.1 == fe).map Prod.snd
    tables := tables }

/-- The parcel leaves on a link. Records of the tenant that wait for room go with it, and come back only with an abort. -/
def State.sendParcel (s : State) (fe : Nat) (tables : List (Nat × List Byte)) : State :=
  let f := s.fe fe
  let s := s.sendPeer (feDie fe) f.migPeer.toNat (.state (s.parcelOf fe tables))
  (s.modFe fe fun f => { f with
    sentRecords := f.pending.filter fun k => !isMigRecord k, pending := f.pending.filter isMigRecord }).setMig fe .sent

/-- Send: the tables are read, a missing page of theirs being asked for; one that is refused leaves them out (log 28). A killed team
that waits for a page response is awaited. -/
def State.sendTenant (s : State) (fe : Nat) : State :=
  if s.teams.any fun tm => (s.grid tm.grid).fe == fe && tm.blocked.isSome then s
  else
    match s.readTables fe with
    | .ok (l, s) => s.sendParcel fe l
    | .error p =>
      if s.pageRefused (feDie fe) fe 0 p then (s.dropRefused (feDie fe) fe .frontEnd).sendParcel fe []
      else s.askPage (feDie fe) fe 0 p

/-! ## What arrives at the target (R454) -/

/-- The ring and record registers of the source, and the records that waited there. -/
def FrontEnd.adopt (f k : FrontEnd) : FrontEnd :=
  { f with
    ringBase := k.ringBase, ringEn := k.ringEn, ringSize := k.ringSize, ringWr := k.ringWr, ringRd := k.ringRd
    recBase := k.recBase, recSize := k.recSize, sized := k.sized, recWr := k.recWr, recRd := k.recRd
    stopped := k.stopped, halted := k.halted, pending := k.pending ++ f.pending }

/-- Numbers of operations that a parcel uses. -/
def Parcel.ids (p : Parcel) : List Nat :=
  p.log.map LogEntry.id ++ p.ops.map MatrixOp.id ++ p.tasks.map TaskOp.id ++ p.teams.flatMap fun tm =>
    tm.staged.map Staged.log ++ tm.crews.flatMap fun cr => cr.counted.map Counted.id ++ cr.outs.map Outstanding.id

def Parcel.accs (p : Parcel) : List Nat :=
  p.log.flatMap (fun e => e.lanes.map LaneAcc.acc) ++
    p.teams.flatMap fun tm => (tm.staged.filter fun k => k.kind != .launch).map Staged.acc

def maxNat (l : List Nat) : Nat := l.foldl max 0

/-- How far the contexts of a parcel reach in the save area. -/
def Parcel.reach (p : Parcel) : Nat := maxNat (p.area.map fun k => k.1 + k.2.length)

/-- The accepting front end takes in the grids, teams and submissions under numbers that are new to the device, and writes the
contexts and tables to its save area. -/
def State.receive (s : State) (fe : Nat) (p : Parcel) : State :=
  let b := s.bins.length
  let r : Renumber := ⟨(s.grids.length + ·), (s.teams.length + ·), (s.subs.length + ·), (b + ·), (s.nextId + ·), (s.nextAcc + ·)⟩
  let base := (s.fe fe).saveBase.toNat
  let s := { s with
    grids := s.grids ++ p.grids.map (Grid.renumber r fe)
    teams := s.teams ++ p.teams.map fun (tm : Team) => { tm.renumber r 0 base with tilesAt := .area, core := noCore }
    subs := s.subs ++ p.subs.map (Submission.renumber r fe 0 base)
    bins := s.bins ++ p.bins.map fun (k : Binary) => { k with fe := fe }
    log := s.log ++ p.log.map (LogEntry.renumber r)
    mops := s.mops ++ p.ops.map (MatrixOp.renumber r)
    tasks := s.tasks ++ p.tasks.map (TaskOp.renumber r)
    lost := p.lost.map (fun k => (fe, k)) ++ s.lost
    nextId := s.nextId + maxNat p.ids + 1
    nextAcc := s.nextAcc + maxNat p.accs + 1 }
  let s := s.modFe fe fun f => { f.adopt p.regs with
    tables := p.tables
    binaries := f.binaries ++ (List.range p.bins.length).map (b + ·) }
  let s := p.area.foldl (fun s k => s.writeBytes fe (base + k.1) k.2) s
  s.writeBytes fe (s.fe fe).tablesAt (p.tables.flatMap Prod.snd)

/-- Whether a source has something to do about its move. -/
def State.sendDue (s : State) (fe : Nat) : Bool :=
  match (s.fe fe).migState with
  | .quiescing => (s.teamsOfFe fe fun tm => tm.status == .resident).isEmpty
  | .sending => true
  | _ => false

/-- MIGRATION_SEND_COMPLETE (R454): at the source, a quiet partition begins to be sent, and then is sent; at the target, the parcel
has arrived, and is taken in where the save area holds it (log 28). -/
def execMigrationSendComplete (fe : Nat) (parcel : Parcel) (s : State) : Result :=
  let f := s.fe fe
  .next (match f.migState with
    | .quiescing => if (s.teamsOfFe fe fun tm => tm.status == .resident).isEmpty then s.setMig fe .sending else s
    | .sending => s.sendTenant fe
    | .receiving =>
      if f.saveOk && decide (parcel.reach + { f with tables := parcel.tables }.tableBytes ≤ f.saveSize.toNat) then
        s.receive fe parcel else s
    | _ => s)

/-! ## Resume, abort, clear (R452 to R456) -/

/-- An entry of the landing list (R453). -/
def Landing.ofWord (x : Nat) : Landing :=
  ⟨bitsOf x 21 43 * 2 ^ 21, bitsOf x 85 43 * 2 ^ 21, 0, false, false⟩

/-- MIGCTL_RESUME (R453, R454): the landing list is read and the teams may be restored; a missing page is asked for, and
a refused one leaves the move where it is. -/
def execMigctlResume (fe : Nat) (s : State) : Result :=
  let f := s.fe fe
  let die := feDie fe
  .next (if f.migState ≠ .receiving then s
    else
      match s.get die fe .frontEnd f.migLand.toNat (16 * f.migCount.toNat) with
      | .ok (bs, s) =>
        let list := (List.range f.migCount.toNat).map fun i => Landing.ofWord (cellAt bs 0 16 i)
        (s.modFe fe fun f => { f with landing := list, resuming := false }).setMig fe .resumed
      | .error p =>
        if s.pageRefused die fe 0 p then (s.dropRefused die fe .frontEnd).modFe fe fun f => { f with resuming := false }
        else (s.askPage die fe 0 p).modFe fe fun f => { f with resuming := true })

/-- The tenant leaves the front end: what is left of its grids ends without records. -/
def State.dropTenant (s : State) (fe : Nat) : State :=
  let gs := (List.range s.grids.length).filter fun g => (s.grid g).fe == fe && !(s.grid g).retired
  let s := gs.foldl (fun s g => (s.forTeams g State.killForGood).modGrid g fun gr => { gr with retired := true, noMore := true }) s
  { s with subs := s.subs.map fun k => if k.fe = fe then { k with finished := true } else k }

/-- The records that had gone with the move are posted here after all. -/
def FrontEnd.takeBack (f : FrontEnd) : FrontEnd := { f with pending := f.sentRecords ++ f.pending, sentRecords := [] }

/-- MIGCTL_ABORT (R454): before RESUME the move is abandoned; at the source the tenant stays, saved, unless a page has been handed
off, which shows that the target has resumed. -/
def execMigctlAbort (fe : Nat) (s : State) : Result :=
  .next (match (s.fe fe).migState with
    | .quiescing | .sending => s.setMig fe .aborted
    | .sent => if (s.fe fe).stubs.isEmpty then (s.modFe fe FrontEnd.takeBack).setMig fe .aborted else s
    | .receiving => ((s.dropTenant fe).modFe fe fun f => { f with resuming := false, tables := [] }).setMig fe .aborted
    | _ => s)

/-- The stubs of a front end end (R456). -/
def FrontEnd.clear (f : FrontEnd) : FrontEnd := { f with stubs := [], cleared := f.stubs ++ f.cleared, sentRecords := [] }

/-- MIGCTL_CLEAR (R456): the source ends its stubs and returns to idle; its ring is the tenant's and takes no more
entries (log 28). -/
def execMigctlClear (fe : Nat) (s : State) : Result :=
  .next (match (s.fe fe).migState with
    | .sent => ((s.dropTenant fe).modFe fe fun f => { f.clear with halted := true }).setMig fe .idle
    | .aborted => (s.modFe fe FrontEnd.clear).setMig fe .idle
    | _ => s)

/-! ## Accesses of other devices (R450, R451, R456) -/

/-- A message on the link by which an access came. -/
def State.answerOn (s : State) (link : Nat) (bytes : Option (List Byte)) : State :=
  s.modLink link fun k => k.send (.message (.answer bytes))

/-- Perform another device's access at a byte of HBM, and give what it asks for (R451): an access of the .sys instance. -/
def State.peerDo (s : State) (fe pa : Nat) (op : PeerOp) : List Byte × State :=
  match op with
  | .read n => s.readMem fe pa n
  | .write bs => ([], s.writeMem none fe pa bs noClock)
  | .atom op t b c =>
    let n := ATy.bytes t
    let (bs, s) := s.readMem fe pa n
    (bs, s.writeMem none fe pa (bytesOf n (atomNew op t (ofBytes bs) b.toNat c.toNat)) noClock)
  | .reply _ => ([], s)

/-- Perform it and answer. -/
def State.peerServe (s : State) (link fe pa : Nat) (op : PeerOp) : State :=
  let (bs, s) := s.peerDo fe pa op
  s.answerOn link (some bs)

/-! ## Pages (R455 to R457) -/

/-- Set PSTATE of a page, and of its entry in the landing list in memory. A page of that list that is missing is asked for and the
write made later; one that is refused leaves the list as it is (log 28). -/
def State.setPstate (s : State) (fe i st : Nat) : State :=
  let set (owed : Bool) (s : State) : State :=
    s.modFe fe fun f => { f with landing := upd f.landing i fun k => { k with pstate := st, owed := owed } }
  match s.put (feDie fe) fe .frontEnd ((s.fe fe).migLand.toNat + 16 * i) [BitVec.ofNat 8 st] with
  | .ok s => set false s
  | .error p =>
    if s.pageRefused (feDie fe) fe 0 p then set false (s.dropRefused (feDie fe) fe .frontEnd)
    else set true (s.askPage (feDie fe) fe 0 p)

/-- Whether a 2 MiB page of HBM belongs to a front end (R465). -/
def FrontEnd.ownsPage (f : FrontEnd) (page : Nat) : Bool :=
  decide (f.hbm.1 ≤ page * 2 ^ 21) && decide ((page + 1) * 2 ^ 21 ≤ f.hbm.2)

/-- The bytes of a 2 MiB page that are not zero, by their place in it. -/
def State.pageCells (s : State) (page : Nat) : List (Nat × Byte) :=
  (s.mem.filter fun c => c.1 / 2 ^ 21 == page).map fun c => (c.1 % 2 ^ 21, c.2)

/-- The source reads a page for the pull, which is its hand-off, and sends it; the page forwards from then on (R455, R456). A pull
that starts again gets the copy that the source still holds (R457). -/
def State.handOff (s : State) (fe page : Nat) : State :=
  let f := s.fe fe
  if !f.ownsPage page || f.freed.contains page then s
  else
    ((s.touchLines fe (page * 2 ^ 21) (2 ^ 21) false).sendPeer (feDie fe) f.migPeer.toNat (.page page (s.pageCells page))).modFe fe
      fun f => { f with stubs := if f.stubs.contains page then f.stubs else page :: f.stubs }

/-- PAGE_PULL (R455 to R457): at the target the first access to a remote page starts its pull, and a PSTATE that memory still lacks
is written; at the source, where `entry` numbers the page, the pull of a page has come. -/
def execPagePull (fe entry : Nat) (s : State) : Result :=
  let f := s.fe fe
  let k := nth f.landing entry
  .next (match f.migState with
    | .resumed =>
      if f.landing.length ≤ entry then s
      else if k.wanted ∧ k.pstate = 0 then
        (s.setPstate fe entry 1).sendPeer (feDie fe) f.migPeer.toNat (.pull (peerOffset k.src / 2 ^ 21))
      else if k.owed then s.setPstate fe entry k.pstate
      else s
    | .sent => s.handOff fe entry
    | _ => s)

/-- Whether a target has something to do about an entry of its landing list. -/
def Landing.pullDue (k : Landing) : Bool := (k.wanted && k.pstate == 0) || k.owed

/-- Accesses that wait for a page go on (R320, R455). -/
def State.pageIn (s : State) (fe i : Nat) : State :=
  { s with log := s.log.map fun e => { e with lanes := e.lanes.map fun a =>
      match a.status with
      | .pulling f j p => if f = fe ∧ j = i then { a with status := .ready p } else a
      | _ => a } }

/-- Write the whole of a landing page: what the page sent does not list is zero. -/
def State.landPage (s : State) (fe land : Nat) (cells : List (Nat × Byte)) : State :=
  let s := (s.touchLines fe land (2 ^ 21) true).setStamp land (2 ^ 21) noClock
  let mem := s.mem.filter fun c => c.1 / 2 ^ 21 != land / 2 ^ 21
  { s with mem := cells.foldl (fun m c => if c.1 < 2 ^ 21 then Sparse.set m (land + c.1) c.2 else m) mem }

/-- Accesses of other devices that waited for a page are performed in it, oldest first (R456). -/
def State.serveEarly (s : State) (fe land : Nat) : State :=
  let here (k : Nat × Nat × PeerOp) : Bool := k.2.1 / 2 ^ 21 == land / 2 ^ 21
  let now := (s.fe fe).early.filter here
  let s := s.modFe fe fun f => { f with early := f.early.filter fun k => !here k }
  now.foldl (fun s k => s.peerServe k.1 fe k.2.1 k.2.2) s

/-- PAGE_LANDED (R455, R457): at the target the page that was sent has come: it stands in the landing page, the source is told, and
what waited for it goes on. At the source, where `entry` numbers the page, that acknowledgement releases the page's memory. -/
def execPageLanded (fe entry : Nat) (bytes : List (Nat × Byte)) (s : State) : Result :=
  let f := s.fe fe
  let k := nth f.landing entry
  .next (match f.migState with
    | .resumed =>
      if entry < f.landing.length ∧ k.pstate = 1 then
        let s := ((s.landPage fe k.land bytes).setPstate fe entry 2).sendPeer (feDie fe) f.migPeer.toNat
          (.landed (peerOffset k.src / 2 ^ 21))
        (s.pageIn fe entry).serveEarly fe k.land
      else s
    | .sent => if f.stubs.contains entry && !f.freed.contains entry then s.modFe fe fun f => { f with freed := entry :: f.freed } else s
    | _ => s)

/-- FORWARDED_ATOMIC (R455): the source has performed the atomic and answers with the old value, or returns it, to be
performed here once the page has landed. -/
def execForwardedAtomic (log lane : Nat) (answer : Option Word64) (s : State) : Result :=
  .next (match s.logEntry log with
    | none => s
    | some e =>
      match e.acc lane with
      | none => s
      | some a =>
        match a.status, answer with
        | .forwarded _ _ _, some w => (s.orderAt e a).finishWith e a (bytesOf e.kind.bytes w.toNat)
        | .forwarded fe i p, none =>
          s.setStatus log lane (if (nth (s.fe fe).landing i).pstate = 2 then .ready p else .pulling fe i p)
        | _, _ => s)

/-- An access of another device to the front end's own HBM: refused beyond its pages and at a cleared stub, sent on to the target at
a stub, and else performed, in a landing page once that has landed (R450, R456). -/
def State.peerDirect (s : State) (link fe offset : Nat) (op : PeerOp) : State :=
  let f := s.fe fe
  let page := offset / 2 ^ 21
  if f.cleared.contains page || !f.ownsPage page then s.answerOn link none
  else if f.stubs.contains page then
    (s.sendPeer (feDie fe) f.migPeer.toNat (.forward offset op)).modFe fe fun f => { f with sentOn := f.sentOn ++ [(link, offset)] }
  else if f.landing.any fun k => k.land / 2 ^ 21 == page && k.pstate != 2 then
    s.modFe fe fun f => { f with early := f.early ++ [(link, offset, op)] }
  else s.peerServe link fe offset op

/-- An access that the other side of a move has sent: at the target what a stub sent on, performed at the landing page once that has
landed (R456); at the source an atomic, which is returned after the hand-off (R455). -/
def State.peerMoved (s : State) (link fe offset : Nat) (op : PeerOp) : State :=
  let f := s.fe fe
  let page := offset / 2 ^ 21
  match f.migState with
  | .resumed =>
    match f.landing.find? fun k => peerOffset k.src / 2 ^ 21 == page with
    | none => s.answerOn link none
    | some k =>
      let pa := k.land + offset % 2 ^ 21
      if k.pstate = 2 then s.peerServe link fe pa op
      else s.modFe fe fun f => { f with early := f.early ++ [(link, pa, op)] }
  | .sent => if f.ownsPage page && !f.stubs.contains page then s.peerServe link fe offset op else s.answerOn link none
  | _ => s.answerOn link none

/-- FORWARDING_STUB_ACCESS (R450, R451, R455, R456): another device's access, or its reply to one that was sent on, comes in on a
trained link. -/
def execForwardingStubAccess (link fe offset : Nat) (access : StubAccess) (s : State) : Result :=
  .next (if !(s.link link).trained then s
    else
      match access.op with
      | .reply bytes =>
        match (s.fe fe).sentOn.find? fun k => k.2 == offset with
        | some k => (s.modFe fe fun f => { f with sentOn := f.sentOn.erase k }).answerOn k.1 bytes
        | none => s
      | op => if access.moved then s.peerMoved link fe offset op else s.peerDirect link fe offset op)

end Sys2Proof.Machine
end

