-- ==== Sys2Proof/Machine/HostEvents.lean ====
section
/-! DEFINITION. What the host does to the device: resets, accesses to HBM, attestation, bring-up, heat and the
registers (R459 to R474). -/

namespace Sys2Proof.Machine

/-! ## Function-level reset (R466) -/

/-- Kill every grid of a front end without a record. -/
def State.killTenant (s : State) (fe : Nat) : State :=
  let gs := (List.range s.grids.length).filter fun g => (s.grid g).fe == fe && !(s.grid g).retired
  let s := gs.foldl (fun s g => (s.forTeams g State.killForGood).modGrid g fun gr =>
    { gr with retired := true, failed := true, noMore := true }) s
  { s with subs := s.subs.map fun k => if k.fe = fe then { k with finished := true } else k }

/-- STATE after a reset during a migration (R466). -/
def MigState.afterReset : MigState → MigState
  | .idle => .idle
  | .resumed => .resumed
  | _ => .aborted

/-- FUNCTION_LEVEL_RESET (R466): the grids die, EN, the indices and FESTAT become zero, and what R464 reserves to the
physical function stays. -/
def execFunctionLevelReset (fe : Nat) (s : State) : Result :=
  .next ((s.killTenant fe).modFe fe fun f => { f with
    ringEn := false, ringWr := 0, ringRd := 0, recWr := 0, recRd := 0, sized := false
    stopped := false, halted := false, shrinking := false, removed := [], cut := false, recRefused := false, pending := []
    sentRecords := [], binaries := [], resuming := false, migState := f.migState.afterReset })

/-! ## Host accesses to HBM (R460, R467, R469) -/

/-- The front end of a host access: none, so that its colours are all (R253). -/
def noFe : Nat := 16

/-- A completion with Unsupported Request, or with data (R460). -/
def State.unsupportedRequest (s : State) : State := { s with reply := [], unsupported := true }
def State.replies (s : State) (bs : List Byte) : State := { s with reply := bs, unsupported := false }

/-- HOST_BAR2_ACCESS (R469): through the shared cache; beyond 640 GB it is refused. A write with Relaxed Ordering and one
without are performed alike in one step. -/
def execHostBar2Access (offset size : Nat) (write : Option Word64) (_relaxed : Bool) (s : State) : Result :=
  .next (if Config.hbmBytes < offset + size then s.unsupportedRequest
    else
      match write with
      | some w => (s.writeMem none noFe offset (bytesOf size w.toNat) noClock).replies []
      | none =>
        let (bs, s) := s.readMem noFe offset size
        s.replies bs)

/-- The bytes that a line has in memory: those behind a dirty cached line, or its own. -/
def State.rawLine (s : State) (line : Nat) : List Byte :=
  match (nth s.llc (homeDie (128 * line))).find? fun k => k.line == line with
  | some k => k.old.getD (Sparse.getList s.mem (128 * line) 128)
  | none => Sparse.getList s.mem (128 * line) 128

/-- Write HBM bytes of one line and drop its cached copy. -/
def State.rawWriteLine (s : State) (a : Nat) (bs : List Byte) : State :=
  let line := a / 128
  let new := patch (s.rawLine line) (a % 128) bs
  { s.setStamp a bs.length noClock with
    mem := Sparse.setList s.mem (128 * line) new
    llc := upd s.llc (homeDie a) fun l => l.filter fun k => k.line != line }

/-- Write HBM bytes line by line. -/
def State.rawWrite (s : State) (a : Nat) (bs : List Byte) : State :=
  (linesAt a bs.length).foldl (fun s l =>
    let lo := max a (128 * l)
    s.rawWriteLine lo ((bs.drop (lo - a)).take (128 * l + 128 - lo))) s

/-- HBM bytes as memory holds them. -/
def State.rawRead (s : State) (a n : Nat) : List Byte := (((linesAt a n).flatMap s.rawLine).drop (a % 128)).take n

/-- HOST_BAR4_ACCESS (R469): HBM itself, past the shared cache. -/
def execHostBar4Access (offset size : Nat) (write : Option Word64) (s : State) : Result :=
  .next (if Config.hbmBytes < offset + size then s.unsupportedRequest
    else
      match write with
      | some w => (s.rawWrite offset (bytesOf size w.toNat)).replies []
      | none => s.replies (s.rawRead offset size))

/-! ## Firmware and attestation (R470 to R473) -/

/-- Fields of the header of an image (R470). -/
def imageVersion (bs : List Byte) : Nat := cellAt bs 4 4 0
def imageSvn (bs : List Byte) : Nat := cellAt bs 8 4 0
def imageLength (bs : List Byte) : Nat := cellAt bs 16 8 0

/-- P of R470: where the keys follow the payload, which zero bytes complete to a multiple of 64. -/
def imageKeys (bs : List Byte) : Nat := 64 + up64 (imageLength bs)

/-- Whether an image is laid out as R470 says. -/
def imageShaped (bs : List Byte) : Bool :=
  let h := ofBytes (bs.take 64)
  let n := 64 + imageLength bs
  bitsOf h 0 32 == 0x4B465257 && decide (bitsOf h 96 8 ≤ 2) && bitsOf h 104 24 == 0 && bitsOf h 192 320 == 0 &&
    decide (imageKeys bs + 5357 ≤ bs.length) && ((bs.drop n).take (imageKeys bs - n)).all (· == 0)

/-- R471: the digest of each key is the fused one, and both signatures verify. -/
def imageVerifies (die : Nat) (bs : List Byte) : Bool :=
  let p := imageKeys bs
  let part (o n : Nat) : List Byte := (bs.drop (p + o)).take n
  let msg := bs.take (p + 1984)
  sha384 (part 0 32) == Config.fusedDigest die false && sha384 (part 32 1952) == Config.fusedDigest die true &&
    ed25519Verifies (part 0 32) (part 1984 64) msg && mldsa65Verifies (part 32 1952) (part 2048 3309) msg

/-- The image that a die stores: as written, or as made. -/
def State.imageOf (s : State) (die slot : Nat) : List Byte :=
  (nth (s.die die).written slot).getD (Config.storedImage die slot)

/-- Why a stored image is not accepted: 1 signature, 2 rollback; none when it is. One that is not laid out as R470 says has no keys
and no signatures where they should stand, and so counts as refused for its signature (the model's choice, log 10). -/
def State.imageRefused (s : State) (die slot : Nat) : Option Nat :=
  let bs := s.imageOf die slot
  if !imageShaped bs || !imageVerifies die bs then some 1
  else if imageSvn bs < (s.die die).minSvn.toNat then some 2
  else none

/-- FUSED_MINIMUM_RAISE (R471): only to the SVN of the accepted image, and only upwards. -/
def execFusedMinimumRaise (die : Nat) (svn : BitVec 32) (s : State) : Result :=
  .next (match (s.die die).accepted with
    | none => s
    | some k =>
      if svn.toNat = imageSvn (s.imageOf die k) ∧ (s.die die).minSvn.toNat < svn.toNat then
        s.modDie die fun d => { d with minSvn := svn }
      else s)

/-- A die is up with an image; READY is set when all four are (R473). -/
def State.dieUp (s : State) (die slot : Nat) : State :=
  let s := s.modDie die fun d => { d with accepted := some slot, up := true, inReset := false }
  { s with ready := s.dies.all DieState.up }

/-- DEVICE_RESET_BOOT (R471, R473): a die that is not up takes the images that have been written since its last reset, verifies both,
boots the first or else the other, and trains its memory. -/
def execDeviceResetBoot (die : Nat) (input : BootInput) (s : State) : Result :=
  .next (if (s.die die).up then s
    else
      let s := s.modDie die fun d => { d with written := input.written.foldl (fun l k => upd l k.1 fun _ => some k.2) d.written }
      match s.imageRefused die 0, s.imageRefused die 1 with
      | some k, some _ => { s.modDie die fun d => { d with inReset := true, accepted := none } with boot := BitVec.ofNat 3 k }
      | r, _ =>
        let slot := if r.isNone then 0 else 1
        let s := match r with
          | some k => { s with boot := BitVec.ofNat 3 k }
          | none => s
        if input.memoryTrained then s.dieUp die slot
        else { s.modDie die fun d => { d with accepted := some slot } with boot := 3 })

/-- What a report says of a die: versions, SVNs and digests of the accepted image. -/
def State.dieReport (s : State) (die : Nat) : List Byte :=
  match (s.die die).accepted with
  | none => zeros 56
  | some k =>
    let bs := s.imageOf die k
    bytesOf 4 (imageVersion bs) ++ bytesOf 4 (imageSvn bs) ++ sha384 bs

/-- MIGCTL without its command bits (R452). -/
def FrontEnd.migCtl (f : FrontEnd) : Nat := packFields [(4, f.migState.code), (8, f.migFe.toNat), (18, f.migPeer.toNat)]

/-- The registers of R464 of a front end. -/
def FrontEnd.report (f : FrontEnd) : List Byte :=
  [f.part.toNat, f.quantum.toNat, f.saveBase.toNat, f.saveSize.toNat, f.migCtl, f.migLand.toNat, f.migCount.toNat,
    f.hbmBase.toNat, f.hbmLimit.toNat].flatMap fun x => bytesOf 8 x

/-- Front end of a function: that of a virtual function. -/
def feOfFunction (pf : Nat) (vf : Nat) : Nat := 8 * pf + vf

/-- ATTESTATION_REQUEST (R472): the report body and its signatures; the order of the body's parts is the model's
(log 10). -/
def execAttestationRequest (pf : Fin 2) (vf : Option (Fin 8)) (nonce : List Byte) (s : State) : Result :=
  let fes := match vf with
    | some n => [feOfFunction pf.val n.val]
    | none => List.range 16
  let body := fillTo 32 (nonce.take 32) ++ Config.serialNumber ++ (List.range 4).flatMap s.dieReport ++
    fes.flatMap fun f => (s.fe f).report
  .next (s.replies (body ++ Config.reportSignature body))

/-! ## Heat (R474) -/

/-- THERMAL_LIMIT (R474): above 95 °C no team is placed on the die, from 105 °C its teams are saved and it is held, and
below 90 °C it goes on. -/
def execThermalLimit (die celsius : Nat) (s : State) : Result :=
  let bit : BitVec 4 := (1 : BitVec 4) <<< die
  .next (if celsius < 90 then
      { s.modDie die fun d => { d with thermal := false, thermalHold := false } with therm := s.therm &&& ~~~bit }
    else if 105 ≤ celsius then
      let s := { s.modDie die fun d => { d with thermal := true, thermalHold := true } with therm := s.therm ||| bit }
      s.saveTeams ((List.range s.teams.length).filter fun t =>
        (s.team t).status == .resident && (s.team t).core / Config.coresPerDie == die)
    else if 95 < celsius then
      { s.modDie die fun d => { d with thermal := true } with therm := s.therm ||| bit }
    else s)

/-! ## Writes of registers (R399, R452, R461, R462, R464)

A front end's block is written at an offset of it; `pf` says that the physical function writes, without which the registers of R464
stay as they are. -/

/-- A TSO window changes: no read cache keeps a line of a page that may have the attribute now (R255). -/
def State.setWindow (s : State) (fe : Nat) (f : FrontEnd → FrontEnd) : State :=
  { s.modFe fe f with cores := s.cores.map fun c => { c with rcache := [] } }

/-- Whether a front end holds a tenant: a ring, a grid or a submission. -/
def State.hasTenant (s : State) (fe : Nat) : Bool :=
  (s.fe fe).ringEn || (s.grids.any fun g => g.fe == fe && !g.retired) || s.subs.any fun k => k.fe == fe && !k.finished

/-- A write of MIGCTL (R452): its fields, then the command of its lowest set bit; GO begins at a front end that holds a tenant, and
accepts at one that holds none (the model's choice, log 28). -/
def State.migWrite (s : State) (fe : Nat) (v : Word64) : Result :=
  let peer := v.extractLsb' 18 6
  let other := v.extractLsb' 8 4
  let s := s.modFe fe fun f => { f with migPeer := peer, migFe := other }
  if v.getLsbD 0 then (if s.hasTenant fe then execMigctlGoSource fe peer other s else execMigctlGoTarget fe peer other s)
  else if v.getLsbD 1 then execMigctlResume fe s
  else if v.getLsbD 2 then execMigctlAbort fe s
  else if v.getLsbD 3 then execMigctlClear fe s
  else .next s

/-- Registers of the ring and the records, and FESTAT. -/
def State.ringWrite (s : State) (fe off : Nat) (v : Word64) : Result :=
  let w : Word32 := v.setWidth 32
  match off with
  | 0x000 => .next (s.modFe fe fun f => { f with ringBase := v &&& 0x00FFFFFFFFFFF000 })
  | 0x008 => execRingctlEnable fe w s
  | 0x00C => execRingwrDoorbell fe w s
  | 0x010 => .next (s.modFe fe fun f => if f.ringEn then f else { f with ringRd := w })
  | 0x018 => execRecbaseWrite fe (some v) none s
  | 0x020 => execRecbaseWrite fe none (some (v.setWidth 16)) s
  | 0x028 => execRecrdWrite fe w s
  | 0x050 => if v.getLsbD 1 then execFestatStoppedClear fe s else .next s
  | _ => .next s

/-- Registers that R464 reserves to the physical function. A write of the save area's registers takes the area back, so that held
tiles are spilled first (R358); new HBM pages have no stubs of a move that is over (log 28). -/
def State.reservedWrite (s : State) (fe off : Nat) (v : Word64) : Result :=
  let set (f : FrontEnd → FrontEnd) : Result := .next (s.modFe fe f)
  match off with
  | 0x030 => execPartWrite fe v s
  | 0x038 => set fun f => { f with quantum := v.setWidth 32 }
  | 0x040 => .next ((s.spillAll fe).modFe fe fun f => { f with saveBase := v })
  | 0x048 => .next ((s.spillAll fe).modFe fe fun f => { f with saveSize := v })
  | 0x058 => s.migWrite fe v
  | 0x060 => set fun f => { f with migLand := v &&& 0x00FFFFFFFFFFF000 }
  | 0x068 => set fun f => { f with migCount := v.setWidth 32 }
  | 0x070 => set fun f => { f with hbmBase := v &&& 0xFFFFE00000, cleared := [], freed := [] }
  | 0x078 => set fun f => { f with hbmLimit := v &&& 0xFFFFE00000, cleared := [], freed := [] }
  | _ => .next s

/-- A write at an offset of a front end's block. -/
def State.feWrite (s : State) (fe off : Nat) (v : Word64) (pf : Bool) : Result :=
  if 0x100 ≤ off ∧ off < 0x180 ∧ off % 16 = 0 then
    .next (s.setWindow fe fun f => { f with tsoBase := upd f.tsoBase ((off - 0x100) / 16) fun _ => v &&& 0x00FFFFFFFFFFF001 })
  else if 0x100 ≤ off ∧ off < 0x180 ∧ off % 16 = 8 then
    .next (s.setWindow fe fun f => { f with tsoLast := upd f.tsoLast ((off - 0x100) / 16) fun _ => v &&& 0x00FFFFFFFFFFF000 })
  else if 0x030 ≤ off ∧ off < 0x080 ∧ off ≠ 0x050 then (if pf then s.reservedWrite fe off v else .next s)
  else s.ringWrite fe off v

/-- A device register of the first block. -/
def State.deviceWrite (s : State) (off : Nat) (v : Word64) : State :=
  if 0x100 ≤ off ∧ off < 0x180 ∧ off % 16 = 0 then
    { s with cxlBase := upd s.cxlBase ((off - 0x100) / 16) fun _ => v &&& 0xFFFFFFFFFFFF0001 }
  else if 0x100 ≤ off ∧ off < 0x180 ∧ off % 16 = 8 then
    { s with cxlLimit := upd s.cxlLimit ((off - 0x100) / 16) fun _ => v &&& 0xFFFFFFFFFFFF0000 }
  else if 0x200 ≤ off ∧ off < 0x400 ∧ off % 8 = 0 then
    { s with peers := upd s.peers ((off - 0x200) / 8) fun _ => v &&& 0xFFFFFF0000000001 }
  else s

/-- A register of a die's block (R309, R311, R315, R461); an access that waits for a link of a new route leaves (R450). -/
def State.dieWrite (s : State) (die off : Nat) (v : Word64) : Result :=
  if off < 0x080 then (if off % 16 = 0 ∧ v.getLsbD 0 then execFbufValidClear die (off / 16) s else .next s)
  else if off = 0x080 then (if v.getLsbD 3 then execFstatDropClear die s else .next s)
  else if off = 0x088 then (if v.getLsbD 0 then execReplay die s else .next s)
  else if 0x100 ≤ off ∧ off < 0x300 ∧ off % 8 = 0 then
    .next (s.modDie die fun d => { d with routes := upd d.routes ((off - 0x100) / 8) fun _ => v.setWidth 12 }).flushOutbox
  else .next s

/-! ## Reads of registers (R461, R462) -/

/-- Value and bytes of a front end's register. -/
def State.feReg (s : State) (fe off : Nat) : Nat × Nat :=
  let f := s.fe fe
  if 0x100 ≤ off ∧ off < 0x180 ∧ off % 8 = 0 then
    ((if off % 16 = 0 then nth f.tsoBase ((off - 0x100) / 16) else nth f.tsoLast ((off - 0x100) / 16)).toNat, 8)
  else
    match off with
    | 0x000 => (f.ringBase.toNat, 8)
    | 0x008 => (packFields [(0, f.ringSize.toNat), (31, if f.ringEn then 1 else 0)], 4)
    | 0x00C => (f.ringWr.toNat, 4)
    | 0x010 => (f.ringRd.toNat, 4)
    | 0x018 => (f.recBase.toNat, 8)
    | 0x020 => (f.recSize.toNat, 4)
    | 0x024 => (f.recWr.toNat, 4)
    | 0x028 => (f.recRd.toNat, 4)
    | 0x030 => (f.part.toNat, 8)
    | 0x038 => (f.quantum.toNat, 8)
    | 0x040 => (f.saveBase.toNat, 8)
    | 0x048 => (f.saveSize.toNat, 8)
    | 0x050 => ((s.festat fe).toNat, 8)
    | 0x058 => (f.migCtl, 8)
    | 0x060 => (f.migLand.toNat, 8)
    | 0x068 => (f.migCount.toNat, 8)
    | 0x070 => (f.hbmBase.toNat, 8)
    | 0x078 => (f.hbmLimit.toNat, 8)
    | _ => (0, 8)

/-- DEVSTAT, the CXL windows and the peer windows. -/
def State.deviceReg (s : State) (off : Nat) : Nat × Nat :=
  if off = 0 then (packFields [(0, if s.ready then 1 else 0), (1, s.boot.toNat), (8, s.therm.toNat)], 8)
  else if 0x100 ≤ off ∧ off < 0x180 ∧ off % 8 = 0 then
    ((if off % 16 = 0 then nth s.cxlBase ((off - 0x100) / 16) else nth s.cxlLimit ((off - 0x100) / 16)).toNat, 8)
  else if 0x200 ≤ off ∧ off < 0x400 ∧ off % 8 = 0 then ((nth s.peers ((off - 0x200) / 8)).toNat, 8)
  else (0, 8)

/-- The fault buffer, FSTAT, the routes and DIEFAIL of a die; REPLAY is write-only. -/
def State.dieReg (s : State) (die off : Nat) : Nat × Nat :=
  let d := s.die die
  if off < 0x080 ∧ off % 8 = 0 then (((nth d.fbuf (off / 16)).word.extractLsb' (off % 16 * 8) 64).toNat, 8)
  else if off = 0x080 then (d.fstat.toNat, 8)
  else if 0x100 ≤ off ∧ off < 0x300 ∧ off % 8 = 0 then ((nth d.routes ((off - 0x100) / 8)).toNat, 8)
  else if off = 0x300 then (d.dieFail.toNat, 8)
  else (0, 8)

/-- What an offset of BAR0 of a function reads (R461). -/
def State.regAt (s : State) (pf : Fin 2) (vf : Option (Fin 8)) (offset : Nat) : Nat × Nat :=
  match vf with
  | some n => if offset < 0x10000 then s.feReg (feOfFunction pf.val n.val) offset else (0, 8)
  | none =>
    if offset < 0x100000 then s.deviceReg offset
    else if offset < 0x300000 then s.dieReg (2 * pf.val + (offset / 0x100000 - 1)) (offset % 0x100000)
    else if 0x400000 ≤ offset ∧ offset < 0x480000 then
      s.feReg (feOfFunction pf.val ((offset - 0x400000) / 0x10000)) (offset % 0x10000)
    else (0, 8)

/-! ## Configuration space (R459, R460) -/

/-- Where the model places the configuration space of a function: past BAR0 (log 29). -/
def barOffset : Nat := 0x1000000

/-- The host allocates page requests to a physical function, at most 16 (R458, R459); entries that waited for room go out. -/
def State.allocate (s : State) (pf n : Nat) : State :=
  (List.range 16).foldl (fun s _ => s.sendUnsent pf) { s with prAlloc := upd s.prAlloc pf fun _ => min n 16 }

/-- BAR2, BAR4, the allocation of page requests, and BAR0 of a physical function and of its virtual ones. -/
def State.configWrite (s : State) (pf off : Nat) (v : Word64) : State :=
  if off = 0x00 then { s with bars := upd s.bars (2 * pf) fun _ => v }
  else if off = 0x08 then { s with bars := upd s.bars (2 * pf + 1) fun _ => v }
  else if off = 0x10 then s.allocate pf v.toNat
  else if off = 0x18 then { s with bar0 := upd s.bar0 pf fun _ => v }
  else if 0x20 ≤ off ∧ off < 0x60 ∧ off % 8 = 0 then { s with bar0 := upd s.bar0 (2 + 8 * pf + (off - 0x20) / 8) fun _ => v }
  else s

/-- REGISTER_WRITE (R461, R462, R464): a write of a register at its own width, by a physical function at an offset of its BAR0, or by
a virtual function in its block; with no value, a read. -/
def execRegisterWrite (pf : Fin 2) (vf : Option (Fin 8)) (offset : Nat) (value : Option Word64) (s : State) : Result :=
  match value, vf with
  | none, _ => let (x, n) := s.regAt pf vf offset; .next (s.replies (bytesOf n x))
  | some v, some n => if offset < 0x10000 then s.feWrite (feOfFunction pf.val n.val) offset v false else .next s
  | some v, none =>
    if offset < 0x100000 then .next (s.deviceWrite offset v)
    else if offset < 0x300000 then s.dieWrite (2 * pf.val + (offset / 0x100000 - 1)) (offset % 0x100000) v
    else if 0x400000 ≤ offset ∧ offset < 0x480000 then
      s.feWrite (feOfFunction pf.val ((offset - 0x400000) / 0x10000)) (offset % 0x10000) v true
    else if barOffset ≤ offset then .next (s.configWrite pf.val (offset - barOffset) v)
    else .next s

end Sys2Proof.Machine
end

