-- ==== Sys2Proof/Machine/Schedule.lean ====
section
/-! DEFINITION. The events of the device's own engines that may come next when no issue cycle is under way (log 3). What
the host, the driver, another device, heat or a bit error does comes only through the agenda. An event whose own
conditions do not hold changes nothing, so a list may name some too many. -/

namespace Sys2Proof.Machine

def keepIf (b : Bool) (i : Instr) : List Instr := if b then [i] else []

/-- Cores that hold a resident team. -/
def State.busyCores (s : State) : List Nat :=
  ((s.teams.filter fun tm => tm.status == .resident).map Team.core).eraseDups

/-- Events of the crew engines. -/
def State.coreEvents (s : State) : List Instr :=
  (s.busyCores.filter fun c => !(s.core c).failed && !(s.core c).halted).map Instr.coreIssueCycle ++
    s.cross.map (fun x => .crossLaneCompletion x.id) ++
    (s.tasks.filter s.taskReady).map (fun x => .taskResultReturn x.id)

/-- The event that an access waits for. -/
def State.accEvents (s : State) (e : LogEntry) (a : LaneAcc) : List Instr :=
  match a.status with
  | .behind | .granted _ => keepIf (s.canPerform e a) (.memoryAccessComplete e.id a.lane)
  | .ready _ => keepIf (s.canPerform e a) (.memoryAccessComplete e.id a.lane) ++
      keepIf (s.launchReady e a) (.launchStatusReturn e.id a.lane)
  | .presence t o =>
    keepIf (!(linesAt o e.kind.bytes).any (s.team t).absent.contains) (.presenceRelease t (o / 128))
  | .clock _ => keepIf (s.clocksHold e.team e.crew) (.releaseClockWaitEnd e.id a.lane)
  | .hostRead _ => [.zeroLengthReadCompletion e.id a.lane]
  | .exported _ home _ => [.exportPerformed (e.core / 64) home]
  | .ordered _ => keepIf (s.loadReady e a) (.stagedLoadComplete e.id a.lane)
  | .stageWait since _ => if s.entryTaken e.core e.team since || (s.bufferFull e.core e.team since && !isHead s e.team) then []
      else if e.kind.isLaunch then keepIf (s.launchReady e a) (.launchStatusReturn e.id a.lane)
      else [.stageEntryWaitEnd e.id a.lane]
  | _ => []

/-- Events of the memory engines and the die links. -/
def State.memoryEvents (s : State) : List Instr :=
  (s.log.flatMap fun e => e.lanes.flatMap fun a => s.accEvents e a) ++
    ((List.range s.grids.length).filter fun g => match s.headTeam g with
      | some t => s.releaseDue t
      | none => false).map Instr.plumbRelease ++
    ((List.range 4).filter s.replayDone).map Instr.replayEnd ++
    ((List.range 4).filter fun d => (List.range 4).any fun j =>
      decide ((nth (s.die j).vector d).toNat < (s.die d).performed.toNat)).map Instr.clockAnnouncement

/-- Events of the copy and matrix engines. -/
def State.engineEvents (s : State) : List Instr :=
  (s.copies.flatMap fun c =>
    keepIf (s.unitFree c) (.copyLineLanded c.id) ++ keepIf (c.units ≤ c.unit) (.copyComplete c.id) ++
    keepIf ((s.copyNeeds c).any fun p => (s.spanRefused c.engine p.1 p.2).isSome ||
      (!c.held && (s.spanFaulted c.engine p.1 p.2).isSome)) (.copyPageFault c.id)) ++
    (((List.range Config.cores).filter fun k => !(s.core k).cpQueue.isEmpty && (s.granted k).isNone &&
      decide (s.copiesOn k < Config.copyPlaces)).map Instr.copyEnterEngine) ++
    s.mops.flatMap fun m => keepIf (s.canStart m) (.matrixOpStart m.id) ++
      keepIf (s.canCommit m) (.matrixCommit m.id) ++
      keepIf (m.kind.needsPass && m.stage == .started) (.curvePassEnd m.id) ++
      match s.fetchFault m with
      | some (k, h, c, a, _) => [.matrixFetchFault m.id k h c (BitVec.ofNat 64 a)]
      | none => []

/-- Retirements. -/
def State.retireEvents (s : State) : List Instr :=
  ((List.range s.teams.length).flatMap fun t =>
    ((List.range (s.team t).crews.length).filter fun c => s.crewOver t c).map (fun c => Instr.crewRetire t c) ++
      keepIf (s.teamOver t) (.teamRetire t)) ++
    ((List.range s.grids.length).filter s.gridOver).map Instr.gridRetire

/-- Events of the command front ends and the task-graph engine. -/
def State.graphEvents (s : State) : List Instr :=
  ((List.range 16).flatMap fun f =>
    keepIf (s.entryDue f) (.ringEntryTaken f) ++ keepIf (s.recordDue f) (.recordPost f) ++
    keepIf (s.fe f).shrinking (.rangeShrinkComplete f) ++ keepIf (s.fe f).resuming (.migctlResume f) ++
    keepIf (s.sendDue f) (.migrationSendComplete f default) ++
    ((List.range (s.fe f).landing.length).filter fun i => (nth (s.fe f).landing i).pullDue).map (fun i => Instr.pagePull f i)) ++
  (List.range s.subs.length).flatMap fun u =>
    let k := s.sub u
    keepIf (s.nodeReady u || k.isOver) (.nodeReadyLaunch u) ++
    ((List.range (s.bin k.bin).blocks.length).filter fun i => s.replayDue u i).map (fun i => Instr.replayGridLaunch u i) ++
    keepIf (k.redemption.isSome && !k.finished && s.subTurn u) (.redemptionRun u) ++
    keepIf (s.updateReady u) (.updateNodeReady u) ++ keepIf (s.updateRetired u) (.updateNodeRetire u)

/-- A lower place for an allocated block, if its owner is quiet (R101). -/
def State.compactions (s : State) (core : Nat) : List Instr :=
  let bs := (s.core core).blocks
  (List.range bs.length).filterMap fun i =>
    let b := nth bs i
    if !s.mayMove b then none
    else match findBlock (bs.eraseIdx i) b.share b.size b.first with
      | some a => some (.compactorMove core i a)
      | none => none

/-- Placement, saves and restores. -/
def State.placeEvents (s : State) : List Instr :=
  let waiting := (List.range s.grids.length).filter fun g => !(s.unitsOf g).isEmpty
  let starved := waiting.filter fun g => (s.unitsOf g).any s.starved
  (waiting.flatMap fun g => (s.coresIn (s.grid g).fe).flatMap fun c =>
    [.teamPlacement g c] ++ ((s.backUnits g).flatMap fun u => (u.members.take 1).map fun m => Instr.teamRestore m.1 c)) ++
  (starved.flatMap fun g => (s.coresIn (s.grid g).fe).flatMap fun c =>
    [.priorityPreempt g c, .quantumExpiry c, .bankSpill c] ++ s.compactions c) ++
  ((List.range s.teams.length).flatMap fun t =>
    keepIf (s.stopped t) (.instructionBoundaryStop t) ++
      keepIf ((s.team t).saving && s.bankWaits t) (.bankSpill (s.team t).core)) ++
  ((List.range s.grids.length).flatMap fun g =>
    keepIf (s.drainPoint g) (.coopDrainPoint g) ++
      (s.busyCores.filter fun c => s.imageDue g c).map fun c => Instr.kernelImageLoad g c)

/-- Links that a route names (R473). -/
def State.linkEvents (s : State) : List Instr :=
  ((List.range Config.links).filter fun k => s.routeNames k && !(s.link k).trained).map Instr.wenandLinkTrained

def State.enabled (s : State) : List Instr :=
  s.coreEvents ++ s.memoryEvents ++ s.engineEvents ++ s.retireEvents ++ s.graphEvents ++ s.placeEvents ++ s.linkEvents

end Sys2Proof.Machine
end

