-- ==== Sys2Proof/Machine/Cycle.lean ====
section
/-! DEFINITION. What comes next: the agenda, then the issue slots of the core cycle under way, then a chosen event
(R78, log 3); and a program put where the machine issues its next instruction (log 6). -/

namespace Sys2Proof.Machine

/-- What a step does. -/
inductive Turn where
  /-- Only bookkeeping of the issue slots. -/
  | done (s : State)
  /-- An event. -/
  | event (i : Instr) (s : State)
  /-- A selection point or a clause header of the crew at the head of the slots. -/
  | point (i : Instr) (t c : Nat) (s : State)
  /-- An instruction of that crew. -/
  | issue (i : Instr) (t c : Nat) (x : Cur) (s : State)
  /-- The issues of the cycle are spent: the instruction, as it would issue in `k`, shows only whether the crew was
  eligible (R78). -/
  | trial (i : Instr) (t c : Nat) (k s : State)
  deriving Repr

/-- Whether the crew would have issued in this cycle, all eight issues being spent: its age stands or is lost (R78). -/
def State.trialTurn (s : State) (t c : Nat) : Turn :=
  let k := match s.fetch t c with
    | .header => s.issueHeader t c
    | _ => s
  match k.fetch t c with
  | .run i => .trial i t c (k.enter t c) s
  | .held => .done (s.notEligible t c)
  | _ => .done s

/-- The turn of the crew at the head of the slots; `rest` follows it. -/
def State.crewTurn (s : State) (t c : Nat) (rest : List (Nat × Nat)) : Turn :=
  if !s.issues? t c then .done { s with slots := rest }
  else if s.budget = 0 then State.trialTurn { s with slots := rest } t c
  else
    match s.fetch t c with
    | .nothing => .point (.selection t c) t c s
    | .header => .point (.clauseHeaderIssue t c) t c s
    | .held => .done ({ s with slots := rest }.notEligible t c)
    | .illegal =>
      let s := { s with slots := rest }
      let k := s.enter t c
      if !s.effected t c (s.crew t c).bundle then .done (s.notEligible t c)
      else .done ((k.trap t c 3 (s.crew t c).bundle (fun _ => 0) (s.crew t c).bundlePc).finish t c (k.cur.getD default))
    | .run i =>
      let k := { s with slots := rest }.enter t c
      .issue i t c (k.cur.getD default) k

/-- The next event, when nothing is due: `Config.pick` chooses among the enabled ones. -/
def State.pickTurn (s : State) : Turn :=
  match s.enabled with
  | [] => .done s
  | e :: es => .event ((e :: es).getD (Config.pick s.freeCtr % (es.length + 1)) e) { s with freeCtr := s.freeCtr + 1 }

def State.turn (s : State) : Turn :=
  match s.agenda, s.slots with
  | i :: r, _ => .event i { s with agenda := r }
  | [], (t, c) :: r => s.crewTurn t c r
  | [], [] => s.pickTurn

/-! ## Records that find no room (R403) -/

/-- Whether what leads from one state to another would post a record to a front end inside which 64 wait. -/
def State.overflows (s u : State) : Bool :=
  (List.range 16).any fun f => decide (64 < (u.fe f).pending.length) && decide ((s.fe f).pending.length < (u.fe f).pending.length)

/-- What would post it waits where it stands: an event of the agenda behind the others, a crew for a later cycle, a chosen event to
be chosen again. -/
def State.putOff (s : State) : State :=
  match s.agenda, s.slots with
  | i :: r, _ => { s with agenda := r ++ [i] }
  | [], (t, c) :: r => { s with slots := r }.notEligible t c
  | [], [] => { s with freeCtr := s.freeCtr + 1 }

/-- After a selection point or a header: a crew with no bundle, or with one that stays at a header, gives up its
slot. -/
def State.afterPoint (s : State) (header : Bool) (t c : Nat) : State :=
  let cr := s.crew t c
  if cr.bundle = 0 ∨ (header && (s.image t).marked cr.bundlePc) then
    { s with slots := s.slots.filter fun k => k != (t, c) }
  else s

def isHeaderIssue : Instr → Bool
  | .clauseHeaderIssue _ _ => true
  | _ => false

/-! ## A program in place -/

/-- Class of a major (R47, R59). -/
def classOfMajor (m : Nat) : Nat :=
  if 0x64 ≤ m ∧ m ≤ 0x6F then 1
  else if m = 0x70 then 2
  else if 0x74 ≤ m ∧ m ≤ 0x7B then 3
  else if m = 0x7C ∨ m = 0x7D then 4
  else 0

/-- A header of one instruction with no waits (R47). -/
def plainHeader (cls : Nat) : Word64 := BitVec.ofNat 64 (cls * 2 ^ 61 + 0xFFFFFFFFFFFF)

/-- A role that may issue the class (R24). -/
def roleFor (cls : Nat) : Nat := if cls = 2 then 0 else if cls = 3 then 1 else 2

def programEntry : Word64 := 0x10000

/-- A launch record of one team of one crew. -/
def programRecord (cls : Nat) : Launch :=
  { (default : Launch) with
    entry := programEntry
    gx := 1
    gy := 1
    gz := 1
    teamShape := 1
    roles := BitVec.ofNat 128 (roleFor cls) }

/-- Place one team of one crew on core 0, all sixteen threads in the bundle, at the word in a clause of its own. -/
def State.withProgram (s : State) (w : Word64) : State :=
  let cls := classOfMajor (wordMajor w)
  let r := programRecord cls
  let g := s.grids.length
  let t := s.teams.length
  let im : Image := ⟨programEntry, 32, [plainHeader cls, w, plainHeader 0, 0x5278000000000000], [0, 2], g⟩
  let gr : Grid :=
    { (default : Grid) with
      record := r
      needs := { (default : Needs) with vregs := 768, spadb := 65536, atiles := 256, codelen := 32 }
      handle := 1
      nextTeam := 1 }
  let cr := { Crew.start (programEntry + 8) 0 with bundle := BitVec.allOnes 16 }
  let s := s.modCore 0 fun c => { c with images := im :: c.images }
  { s with
    grids := s.grids ++ [gr]
    teams := s.teams ++ [{ Team.start g 0 r with status := .resident, crews := [cr] }]
    agenda := []
    slots := [(t, 0)]
    budget := 8
    cur := none }

end Sys2Proof.Machine
end

