-- ==== Sys2Proof/Machine/MemInstr.lean ====
section
/-! DEFINITION. Issue of the memory instructions, of stload and of launch (R197, R217, R259 to R274). -/

namespace Sys2Proof.Machine

/-- What a memory instruction asks of each lane: its kind, aperture, formed address, order and scope, data. -/
structure MemReq where
  kind : MemKind
  aper : Aper
  raw : Nat → Nat
  size : Nat
  order : Order
  scope : Scope
  data : Nat → Nat
  data2 : Nat → Nat
  uniform : Bool

/-- A lane of a request after the checks of R260. -/
abbrev Checked := List (Nat × Except (Nat × Nat) Word64)

def goodLanes (l : Checked) : List (Nat × Word64) :=
  l.filterMap fun p => match p.2 with
    | .ok a => some (p.1, a)
    | .error _ => none

/-- Lanes that trap with a class, and their %tinfo. -/
def badLanes (l : Checked) (cls : Nat) : List (Nat × Nat) :=
  l.filterMap fun p => match p.2 with
    | .ok _ => none
    | .error e => if e.1 = cls then some (p.1, e.2) else none

/-- Take the traps of a class in the lanes that fail its check; a uniform access takes them in all of Active(). -/
def State.trapLanes (s : State) (x : Issue) (uniform : Bool) (cls : Nat) (bad : List (Nat × Nat)) : State :=
  match bad with
  | [] => s
  | b :: _ =>
    s.trap x.t x.c cls (if uniform then x.act else maskOf fun l => bad.any fun p => p.1 == l)
      (fun l => BitVec.ofNat 32 (if uniform then b.2 else ((bad.find? fun p => p.1 == l).map Prod.snd).getD 0)) x.pc

/-- Whether the log or a wait counter is full (R13, R312). -/
def State.memStalls (s : State) (x : Issue) (k : MemKind) (lanes : Nat) : Bool :=
  let cr := s.crew x.t x.c
  (k.logged && decide (64 ≤ s.logUsed (s.team x.t).core)) ||
  (match k with
   | .launch _ => decide (63 < cr.counter 5 + lanes)
   | _ => match k.counter with
     | some n => decide (63 ≤ cr.counter n)
     | none => false)

/-- The lanes and threads of a request's access. -/
def MemReq.mask (r : MemReq) (x : Issue) (l : Nat) : Mask := if r.uniform then x.act else laneBit l

/-- The one read of a uniform load is an event of every lane that makes it, through which the orders of one lane reach those of the
others (R263, R285). -/
def Crew.share (cr : Crew) (m : Mask) (accs : List Nat) (pending : Nat → Bool) : Crew :=
  let ths := (lanesOf m).map cr.th
  let join (f : Thread → List Nat) : List Nat := ((ths.flatMap f).filter pending).eraseDups
  let all := join Thread.beforeAll
  let writes := join Thread.beforeWrites
  let carried := (join Thread.carried ++ accs).eraseDups
  cr.modLanes m fun _ th => { th with beforeAll := all, beforeWrites := writes, carried := carried }

/-- Add the access that a lane makes, under its number in the entry, with its place in the orders of its thread (R258, R269,
R283). An .sc event comes before all that its thread issues after it (R287). -/
def State.addAcc (s : State) (x : Issue) (id : Nat) (r : MemReq) (num : Nat) (addr : Word64) : State :=
  match s.logEntry id with
  | none => s
  | some e =>
    let cr := s.crew x.t x.c
    let l := num % 16
    let m := r.mask x l
    let tso := s.tsoAt x.t addr.toNat
    let (o, sc) := strengthen r.kind tso r.order r.scope
    let ths := (lanesOf m).map cr.th
    let before := ths.flatMap Thread.beforeAll ++ (if r.kind.writes then ths.flatMap Thread.beforeWrites else []) ++
      (if r.kind.isRelease o then s.pendingAccs x.t x.c m ++ ths.flatMap Thread.carried else [])
    let earlier := if r.uniform && e.loads then s.pendingAccs x.t x.c m else []
    let counts := r.kind.isLaunch && (s.gridOf x.t).record.depth != 9
    let (id5, s) := if counts then s.fresh else (0, s)
    let n := s.nextAcc
    let first := ((e.lanes.head?).map LaneAcc.acc).getD n
    let a : LaneAcc :=
      { lane := num, acc := n, addr := addr, data := BitVec.ofNat 64 (r.data l),
        data2 := BitVec.ofNat 64 (if counts then id5 else r.data2 l), elem := num / 16, parked := false, order := o,
        scope := sc, status := .later, stamp := cr.clock, tso := tso
        after := (before.filter fun k => decide (k < first) && s.accPending k).eraseDups }
    let s := { s.modEntry id fun e => { e with lanes := e.lanes ++ [a] } with nextAcc := n + 1 }
    s.modCrew x.t x.c fun cr =>
      let cr := if counts then cr.raise 5 id5 else cr
      let cr := if r.uniform && e.loads then cr.share m earlier s.accPending else cr
      if e.isAcquire o || o == .sc then cr.modLanes m fun _ th => { th with beforeAll := th.beforeAll ++ [n] } else cr

/-- Issue the accesses of a request's lanes, of which each begins its first, and take the traps of the lanes that fail their
checks. %pix of a lane whose elements have all been handed over reads 0 until it parks or stops (R237, R265). -/
def State.memIssue (s : State) (x : Issue) (r : MemReq) (checked : Checked) : State :=
  let good := goodLanes checked
  let traps (s : State) : State :=
    (s.trapLanes x r.uniform 5 (badLanes checked 5)).trapLanes x r.uniform 6 (badLanes checked 6)
  if good.isEmpty then traps s
  else if s.memStalls x r.kind good.length then s.stall
  else
    let (id, s) := s.fresh
    let e : LogEntry := ⟨id, (s.team x.t).core, x.t, x.c, x.pc, x.word, r.kind, r.uniform, x.act, [], false⟩
    let s := { s.modCrew x.t x.c fun cr =>
        let cr := match r.kind.counter with
          | some n => cr.raise n id
          | none => cr
        let res := r.kind.results ++ r.kind.sources
        if res.isEmpty then cr else cr.await id res with
      log := s.log ++ [e] }
    let s := good.foldl (fun s p => s.addAcc x id r p.1 p.2) s
    let s := if r.kind.elems then s.modCrew x.t x.c fun cr =>
        cr.modLanes (maskOf fun l => good.any fun p => p.1 % 16 == l) fun _ th => { th with pix := 0 } else s
    traps ((good.map fun p => p.1 % 16).eraseDups.foldl (fun s l => State.beginElems 1 s id l) s)

/-- Lanes that form an address: Active(), or its lowest lane for a uniform access, whose slot of the stack window it then reaches
(R246; the model's choice, log 21). -/
def MemReq.lanes (r : MemReq) (x : Issue) : List Nat := if r.uniform then (lanesOf x.act).take 1 else lanesOf x.act

def State.memCheck (s : State) (x : Issue) (r : MemReq) : Checked :=
  (r.lanes x).map fun l => (l, s.checkAddr x.t x.c r.aper r.size (r.raw l) l)

/-- The bundle keeps its place at its memory instruction while elements have still to begin (R264), or it may still trap (R229). -/
def State.holdLong (s : State) (x : Issue) (id : Nat) : State :=
  let s := s.modCrew x.t x.c fun cr => { cr with long := some id }
  if (s.longEntry x.t x.c).isSome then (s.spend x.t x.c).stall
  else s.modCrew x.t x.c fun cr => { cr with long := none }

/-- Issue of a memory instruction by `k`, once: a bundle that it keeps stalls until it is decided, and then goes on. -/
def State.issueOnce (s : State) (x : Issue) (k : State) : State :=
  match (s.crew x.t x.c).long with
  | none => k.holdLong x s.nextId
  | some _ => if (s.longEntry x.t x.c).isSome then s.stall else s.modCrew x.t x.c fun cr => { cr with long := none }

/-- A memory instruction whose lanes all take the checks of R260. -/
def memOp (i : Instr) (s : State) (r : Issue → MemReq) : Result :=
  crewOp i s noChecks fun x => s.issueOnce x (s.memIssue x (r x) (s.memCheck x (r x)))

/-- The address that a mem-form operand gives in a lane, its offset in units of `unit` bytes. -/
def State.memAddr (s : State) (x : Issue) (ap : Aper) (m : MemOp) (unit l : Nat) : Nat :=
  s.formed x.t x.c ap m.base m.index (m.off.toInt * unit) l

/-! ## Loads and stores -/

def isUniform : Dst → Bool
  | .v _ => false
  | .s _ => true

def execLd (g : Guard) (sz : MSize) (ap : Aper) (o : Order) (sc : Scope) (d : Dst) (m : MemOp) (s : State) : Result :=
  memOp (.ld g sz ap o sc d m) s fun x =>
    { kind := .ld sz d, aper := ap, raw := s.memAddr x ap m (MSize.bytes sz), size := MSize.bytes sz, order := o,
      scope := sc, data := fun _ => 0, data2 := fun _ => 0, uniform := isUniform d }

/-- Datum of an st (R57, R263). -/
def State.stData (s : State) (x : Issue) (sz : MSize) (d : Opnd) (l : Nat) : Nat :=
  match sz with
  | .b64 => s.rd64 x.t x.c d l
  | .b32 => s.rd32 x.t x.c d l
  | _ => s.rd16 x.t x.c d l

def execSt (g : Guard) (sz : MSize) (ap : Aper) (o : Order) (sc : Scope) (d : Opnd) (m : MemOp) (s : State) : Result :=
  memOp (.st g sz ap o sc d m) s fun x =>
    { kind := .st sz, aper := ap, raw := s.memAddr x ap m (MSize.bytes sz), size := MSize.bytes sz, order := o,
      scope := sc, data := s.stData x sz d, data2 := fun _ => 0, uniform := false }

/-- The accesses of one lane of a gather or scatter, from element %pix on, each under its number: the whole lane traps where an
element fails its checks, with misalignment before an address (R229, R264). -/
def State.elemCheck (s : State) (x : Issue) (k : MemKind) (l : Nat) : Checked :=
  let e : LogEntry := ⟨0, 0, x.t, x.c, 0, 0, k, false, 0, [], false⟩
  let js := (List.range k.count).filter fun j => decide (((s.crew x.t x.c).th l).pix.toNat ≤ j)
  let all : Checked := js.map fun j => (16 * j + l, match s.elemAddr e l j with
    | some (ap, raw) => s.checkAddr x.t x.c ap k.bytes raw l
    | none => .error (6, 0))
  match badLanes all 5 ++ badLanes all 6 with
  | [] => all
  | b :: _ => [(l, .error (if (badLanes all 5).isEmpty then 6 else 5, b.2))]

/-- Issue of a gather or scatter (R264): the first time it enters the log and each lane begins an element; then, turn by turn,
the lanes left in the bundle begin their next. A lane whose %pix lies past its elements is complete, and %pix returns to 0. -/
def State.elemIssue (s : State) (x : Issue) (k : MemKind) (ap : Aper) (o : Order) : State :=
  match s.longEntry x.t x.c, s.begins x.t x.c with
  | some e, true => ((lanesOf x.act).foldl (fun s l => State.beginElems 1 s e.id l) s).holdLong x e.id
  | _, _ =>
    let past := x.act &&& (s.crew x.t x.c).inState fun th => decide (k.count ≤ th.pix.toNat)
    let s := s.modCrew x.t x.c fun cr => cr.modLanes past fun _ th => { th with pix := 0 }
    let x := { x with act := x.act &&& ~~~past }
    let r : MemReq :=
      { kind := k, aper := ap, size := k.bytes, order := o, scope := .none, data := fun _ => 0, data2 := fun _ => 0,
        uniform := false, raw := fun _ => 0 }
    s.issueOnce x (s.memIssue x r ((lanesOf x.act).flatMap fun l => s.elemCheck x k l))

def execLdx (g : Guard) (sz : MSize) (ap : Aper) (o : Order) (d : Fin 768) (base : Opnd) (idx : Dst) (n : Fin 16)
    (s : State) : Result :=
  crewOp (.ldx g sz ap o d base idx n) s noChecks fun x => s.elemIssue x (.ldx sz (n.val + 1) d.val base idx ap) ap o

def execStx (g : Guard) (sz : MSize) (ap : Aper) (o : Order) (d : Dst) (base : Opnd) (idx : Dst) (n : Fin 16)
    (s : State) : Result :=
  crewOp (.stx g sz ap o d base idx n) s noChecks fun x => s.elemIssue x (.stx sz (n.val + 1) d base idx ap) ap o

/-! ## Atomics -/

/-- Register `j` after the one an operand names. -/
def Opnd.next (o : Opnd) (j : Nat) : Opnd :=
  match o with
  | .v n => .v (Fin.ofNat 768 (n.val + j))
  | .s n => .s (Fin.ofNat 128 (n.val + j))
  | o => o

/-- Datum or compare value, and swap value, of an atomic (R266). -/
def State.atomData (s : State) (x : Issue) (op : AOp) (t : ATy) (b : Opnd) (l : Nat) : Nat × Nat :=
  match t with
  | .b64 => (s.rd64 x.t x.c b l, if op == .cas then s.rd64 x.t x.c (Opnd.next b 2) l else 0)
  | .f64 => (s.fbits x.t x.c .f64 b l, 0)
  | .f16 => (s.rdHalf x.t x.c false b l, 0)
  | .bf16 => (s.rdHalf x.t x.c true b l, 0)
  | _ => (s.rd32 x.t x.c b l, if op == .cas then s.rd32 x.t x.c (Opnd.next b 1) l else 0)

def State.atomReq (s : State) (x : Issue) (k : MemKind) (op : AOp) (t : ATy) (ap : Aper) (o : Order) (sc : Scope)
    (base b : Opnd) : MemReq :=
  { kind := k, aper := ap, raw := s.formed x.t x.c ap base (.con 0) 0, size := ATy.bytes t, order := o, scope := sc,
    data := fun l => (s.atomData x op t b l).1, data2 := fun l => (s.atomData x op t b l).2, uniform := false }

def execAtom (g : Guard) (op : AOp) (t : ATy) (ap : Aper) (o : Order) (sc : Scope) (d : Fin 768) (base b : Opnd)
    (s : State) : Result :=
  memOp (.atom g op t ap o sc d base b) s fun x => s.atomReq x (.atom op t (.v d)) op t ap o sc base b

def execRed (g : Guard) (op : AOp) (t : ATy) (ap : Aper) (o : Order) (sc : Scope) (base b : Opnd) (s : State) : Result :=
  memOp (.red g op t ap o sc base b) s fun x => s.atomReq x (.red op t) op t ap o sc base b

/-! ## Fences and seal (R269, R270) -/

def execFence (g : Guard) (o : Order) (sc : Scope) (s : State) : Result :=
  crewOp (.fence g o sc) s noChecks fun x =>
    if x.act = 0 then s else s.addFence x.t x.c x.pc x.word x.act o (if sc == .none then .dev else sc)

/-- seal; one with no active lane neither waits nor seals (the model's choice, log 20). -/
def execSealOp (g : Guard) (team : Bool) (s : State) : Result :=
  crewOp (.sealOp g team) s noChecks fun x =>
    if x.act = 0 then s else if !s.sealReady x.t x.c then s.stall else s.sealCopies x.t x.c team

/-! ## Cache and ownership instructions (R271 to R273) -/

/-- prefetch: where neither cache holds the translation, it is asked for, no page request follows, and the line is fetched when it
is granted (R271, R304). It has no access size, so that no address is misaligned (log 21). -/
def execPrefetch (g : Guard) (near : Bool) (m : MemOp) (s : State) : Result :=
  crewOp (.prefetch g near m) s noChecks fun x =>
    (lanesOf x.act).foldl (fun s l =>
      let a := s.memAddr x .generic m 1 l
      let core := (s.team x.t).core
      let fe := s.feOf x.t
      if !globalAddr a then s
      else
        match s.cached x.t a with
        | none => (s.request (core / 64) ⟨(s.fe fe).pasid, pageOf a, false, fe, core % 64, .frontEnd⟩).modDie (core / 64) fun d =>
            { d with prefetches := d.prefetches ++ [(core, fe, a, near)] }
        | some pa => s.prefetchLine core fe a pa near) s

/-- cinv of a line and cwb: lanes at or above 2^56 trap, non-global ones do nothing. -/
def State.lineIssue (s : State) (x : Issue) (k : MemKind) (m : MemOp) : State :=
  let r : MemReq :=
    { kind := k, aper := .generic, raw := s.memAddr x .generic m 1, size := 1, order := .none, scope := .none,
      data := fun _ => 0, data2 := fun _ => 0, uniform := false }
  s.memIssue x r ((lanesOf x.act).filterMap fun l =>
    let a := r.raw l
    if 2 ^ 56 ≤ a then some (l, .error (6, addrTrap 0 4))
    else if globalAddr a then some (l, .ok (BitVec.ofNat 64 a)) else none)

/-- cinv.all is one access for the whole of Active(), at no line. -/
def State.allIssue (s : State) (x : Issue) : State :=
  if x.act = 0 then s
  else if s.memStalls x .cinv 1 then s.stall
  else
    let (id, s) := s.fresh
    let l := lowestLane x.act
    let r : MemReq :=
      { kind := .cinv, aper := .generic, raw := fun _ => 0, size := 1, order := .none, scope := .none,
        data := fun _ => 0, data2 := fun _ => 0, uniform := true }
    let e : LogEntry := ⟨id, (s.team x.t).core, x.t, x.c, x.pc, x.word, .cinv, true, x.act, [], false⟩
    let s := { s.modCrew x.t x.c fun cr => cr.raise 1 id with log := s.log ++ [e] }
    (s.addAcc x id r l (0xFE * 2 ^ 48)).setStatus id l (.ready (.guard 0 false 0))

def execCinv (g : Guard) (m : Option MemOp) (s : State) : Result :=
  crewOp (.cinv g m) s noChecks fun x =>
    match m with
    | some m => s.lineIssue x .cinv m
    | none => s.allIssue x

def execCwb (g : Guard) (m : MemOp) (s : State) : Result :=
  crewOp (.cwb g m) s noChecks fun x => s.lineIssue x .cwb m

/-- Aperture code of a non-global address (R227); none when it is global. -/
def windowInfo (a : Nat) : Option Nat :=
  match decodeAddr a with
  | .error i => some i
  | .ok (.own _) => some 1
  | .ok (.peer _ _) => some 2
  | .ok (.stack _) => some 3
  | .ok (.global _) => none

/-- own: its claims wait in the memory engine until the accesses that the team has issued before it have found their lines' states,
and later ones wait for them (`State.claimAhead`). The address trap comes before the rest of its rule, also in free mode and where
c = 0 (log 60). -/
def execOwn (g : Guard) (shr : Bool) (a : Fin 128) (b : Opnd) (s : State) : Result :=
  crewOp (.own g shr a b) s
    (fun x => if x.act ≠ 0 ∧ 65536 < s.rd32 x.t x.c b 0 then { bundle := some 0 } else {}) fun x =>
      let addr := s.rd64 x.t x.c (.s a) 0
      if x.act = 0 then s
      else
        match windowInfo addr with
        | some i => s.trap x.t x.c 6 x.act (fun _ => BitVec.ofNat 32 i) x.pc
        | none =>
          if !(s.gridOf x.t).record.ord then s
          else if !s.mapPending x.t s.nextAcc then
            (List.range (s.rd32 x.t x.c b 0)).foldl (fun s i => s.claimLine x.t shr (addr / 128 + i)) s
          else
            let (id, s) := s.fresh
            let n := s.nextAcc
            let acc : LaneAcc :=
              { lane := lowestLane x.act, acc := n, addr := BitVec.ofNat 64 (0xFE * 2 ^ 48), data := 0, data2 := 0, elem := 0
                parked := false, order := .rlx, scope := .none, status := .ready (.guard 0 false 0), after := []
                stamp := noClock, tso := false }
            { s with
              nextAcc := n + 1
              log := s.log ++ [⟨id, (s.team x.t).core, x.t, x.c, x.pc, x.word,
                .own shr (addr / 128) (s.rd32 x.t x.c b 0), true, x.act, [acc], false⟩] }

/-! ## stload and launch (R197, R217) -/

def execStload (g : Guard) (k : Fin 8) (a : Fin 128) (s : State) : Result :=
  memOp (.stload g k a) s fun x =>
    { kind := .stload k, aper := .generic, raw := s.rd64 x.t x.c (.s a), size := 64, order := .rlx, scope := .none,
      data := fun _ => 0, data2 := fun _ => 0, uniform := true }

/-- launch: the record is read and validated by LAUNCH_STATUS_RETURN. At depth 9 the bundle waits at it for the read of the
record, after which each lane takes the nesting-depth trap (R71, R197, R229). -/
def execLaunch (g : Guard) (d a : Dst) (s : State) : Result :=
  memOp (.launch g d a) s fun x =>
    { kind := .launch d, aper := .generic, raw := s.rd64 x.t x.c (dstOpnd a), size := 256, order := .none, scope := .dev,
      data := fun _ => 0, data2 := fun _ => 0, uniform := false }

end Sys2Proof.Machine
end

