-- ==== Sys2Proof/Machine/Dispatch.lean ====
section
/-! DEFINITION. One arm per constructor of `Instr`. -/

namespace Sys2Proof.Machine

def exec (i : Instr) (s : State) : Host.Outcome State Fault Refusal :=
  match i with
  | .iadd g t w sat d a b => Sys2Proof.Machine.execIadd g t w sat d a b s
  | .iaddImm g t w sat d a imm => Sys2Proof.Machine.execIaddImm g t w sat d a imm s
  | .isub g t w sat d a b => Sys2Proof.Machine.execIsub g t w sat d a b s
  | .imul g t w d a b => Sys2Proof.Machine.execImul g t w d a b s
  | .imulhi g signed w d a b => Sys2Proof.Machine.execImulhi g signed w d a b s
  | .imad g t w sat d a b c => Sys2Proof.Machine.execImad g t w sat d a b c s
  | .idiv g signed w d a b => Sys2Proof.Machine.execIdiv g signed w d a b s
  | .irem g signed w d a b => Sys2Proof.Machine.execIrem g signed w d a b s
  | .imin g signed w d a b => Sys2Proof.Machine.execImin g signed w d a b s
  | .imax g signed w d a b => Sys2Proof.Machine.execImax g signed w d a b s
  | .iaddc g w d a b p => Sys2Proof.Machine.execIaddc g w d a b p s
  | .isubb g w d a b p => Sys2Proof.Machine.execIsubb g w d a b p s
  | .andL g w d a b => Sys2Proof.Machine.execAndL g w d a b s
  | .orL g w d a b => Sys2Proof.Machine.execOrL g w d a b s
  | .xorL g w d a b => Sys2Proof.Machine.execXorL g w d a b s
  | .andnL g w d a b => Sys2Proof.Machine.execAndnL g w d a b s
  | .andImm g w d a imm => Sys2Proof.Machine.execAndImm g w d a imm s
  | .orImm g w d a imm => Sys2Proof.Machine.execOrImm g w d a imm s
  | .xorImm g w d a imm => Sys2Proof.Machine.execXorImm g w d a imm s
  | .andnImm g w d a imm => Sys2Proof.Machine.execAndnImm g w d a imm s
  | .shl g w d a b => Sys2Proof.Machine.execShl g w d a b s
  | .shr g w d a b => Sys2Proof.Machine.execShr g w d a b s
  | .sar g w d a b => Sys2Proof.Machine.execSar g w d a b s
  | .rotl g w d a b => Sys2Proof.Machine.execRotl g w d a b s
  | .rotr g w d a b => Sys2Proof.Machine.execRotr g w d a b s
  | .ineg g w sat d a => Sys2Proof.Machine.execIneg g w sat d a s
  | .iabs g w sat d a => Sys2Proof.Machine.execIabs g w sat d a s
  | .notL g w d a => Sys2Proof.Machine.execNotL g w d a s
  | .popc g w d a => Sys2Proof.Machine.execPopc g w d a s
  | .clz g w d a => Sys2Proof.Machine.execClz g w d a s
  | .ctz g w d a => Sys2Proof.Machine.execCtz g w d a s
  | .brev g w d a => Sys2Proof.Machine.execBrev g w d a s
  | .bfe g signed w d a b c => Sys2Proof.Machine.execBfe g signed w d a b c s
  | .bfi g w d a b c => Sys2Proof.Machine.execBfi g w d a b c s
  | .prmt g d a b c => Sys2Proof.Machine.execPrmt g d a b c s
  | .icmp g t w cond p a b => Sys2Proof.Machine.execIcmp g t w cond p a b s
  | .icmpImm g t w cond p a imm => Sys2Proof.Machine.execIcmpImm g t w cond p a imm s
  | .isel g w d a b p => Sys2Proof.Machine.execIsel g w d a b p s
  | .mov g w d a => Sys2Proof.Machine.execMov g w d a s
  | .movi g w d imm => Sys2Proof.Machine.execMovi g w d imm s
  | .lea g signed scale d a b c => Sys2Proof.Machine.execLea g signed scale d a b c s
  | .sext g t w d a => Sys2Proof.Machine.execSext g t w d a s
  | .zext g t w d a => Sys2Proof.Machine.execZext g t w d a s
  | .pand g d a b => Sys2Proof.Machine.execPand g d a b s
  | .por g d a b => Sys2Proof.Machine.execPor g d a b s
  | .pxor g d a b => Sys2Proof.Machine.execPxor g d a b s
  | .pnot g d a => Sys2Proof.Machine.execPnot g d a s
  | .pmov g d a => Sys2Proof.Machine.execPmov g d a s
  | .pmovPack g d a => Sys2Proof.Machine.execPmovPack g d a s
  | .pmovUnpack g d a => Sys2Proof.Machine.execPmovUnpack g d a s
  | .fadd g t r d a b => Sys2Proof.Machine.execFadd g t r d a b s
  | .fsub g t r d a b => Sys2Proof.Machine.execFsub g t r d a b s
  | .fmul g t r d a b => Sys2Proof.Machine.execFmul g t r d a b s
  | .ffma g t r d a b c => Sys2Proof.Machine.execFfma g t r d a b c s
  | .fmin g t nan d a b => Sys2Proof.Machine.execFmin g t nan d a b s
  | .fmax g t nan d a b => Sys2Proof.Machine.execFmax g t nan d a b s
  | .fdiv g f64 r d a b => Sys2Proof.Machine.execFdiv g f64 r d a b s
  | .fsqrt g f64 r d a => Sys2Proof.Machine.execFsqrt g f64 r d a s
  | .frcp g f16 d a => Sys2Proof.Machine.execFrcp g f16 d a s
  | .frsq g f16 d a => Sys2Proof.Machine.execFrsq g f16 d a s
  | .fexp2 g f16 d a => Sys2Proof.Machine.execFexp2 g f16 d a s
  | .flog2 g f16 d a => Sys2Proof.Machine.execFlog2 g f16 d a s
  | .fsin g f16 d a => Sys2Proof.Machine.execFsin g f16 d a s
  | .fcos g f16 d a => Sys2Proof.Machine.execFcos g f16 d a s
  | .fcmp g t cond p a b => Sys2Proof.Machine.execFcmp g t cond p a b s
  | .fclass g t d a => Sys2Proof.Machine.execFclass g t d a s
  | .frint g t r x d a => Sys2Proof.Machine.execFrint g t r x d a s
  | .fcvt g k d a => Sys2Proof.Machine.execFcvt g k d a s
  | .icvt g k r hi d a => Sys2Proof.Machine.execIcvt g k r hi d a s
  | .fscale g t r d a b => Sys2Proof.Machine.execFscale g t r d a b s
  | .fgetexp g t d a => Sys2Proof.Machine.execFgetexp g t d a s
  | .fgetman g t d a => Sys2Proof.Machine.execFgetman g t d a s
  | .fslice g slot d a b c => Sys2Proof.Machine.execFslice g slot d a b c s
  | .dp2h g bf d a b c => Sys2Proof.Machine.execDp2h g bf d a b c s
  | .dp4 g f32 slot d a b c => Sys2Proof.Machine.execDp4 g f32 slot d a b c s
  | .dp8 g f32 slot d a b c => Sys2Proof.Machine.execDp8 g f32 slot d a b c s
  | .bra g off => Sys2Proof.Machine.execBra g off s
  | .brx g a off => Sys2Proof.Machine.execBrx g a off s
  | .call g d off => Sys2Proof.Machine.execCall g d off s
  | .ret g a => Sys2Proof.Machine.execRet g a s
  | .join g a => Sys2Proof.Machine.execJoin g a s
  | .loop g a off => Sys2Proof.Machine.execLoop g a off s
  | .lbrk g n => Sys2Proof.Machine.execLbrk g n s
  | .exit g => Sys2Proof.Machine.execExit g s
  | .bar g sl id b => Sys2Proof.Machine.execBar g sl id b s
  | .cbar g => Sys2Proof.Machine.execCbar g s
  | .launch g d a => Sys2Proof.Machine.execLaunch g d a s
  | .waitChild g a => Sys2Proof.Machine.execWaitChild g a s
  | .elect g p => Sys2Proof.Machine.execElect g p s
  | .ldarg g t d off => Sys2Proof.Machine.execLdarg g t d off s
  | .mfs g d r => Sys2Proof.Machine.execMfs g d r s
  | .mts g r a => Sys2Proof.Machine.execMts g r a s
  | .trap g cls code => Sys2Proof.Machine.execTrap g cls code s
  | .brk g code => Sys2Proof.Machine.execBrk g code s
  | .nop g => Sys2Proof.Machine.execNop g s
  | .yield g => Sys2Proof.Machine.execYield g s
  | .rft g => Sys2Proof.Machine.execRft g s
  | .ctxsave g a b => Sys2Proof.Machine.execCtxsave g a b s
  | .ctxload g a b => Sys2Proof.Machine.execCtxload g a b s
  | .accsw g => Sys2Proof.Machine.execAccsw g s
  | .hlt g => Sys2Proof.Machine.execHlt g s
  | .bfly g w d a b fill => Sys2Proof.Machine.execBfly g w d a b fill s
  | .shfl g w m d a b fill => Sys2Proof.Machine.execShfl g w m d a b fill s
  | .xbar g d a x fill => Sys2Proof.Machine.execXbar g d a x fill s
  | .stload g x a => Sys2Proof.Machine.execStload g x a s
  | .vote g op p => Sys2Proof.Machine.execVote g op p s
  | .redux g op d a => Sys2Proof.Machine.execRedux g op d a s
  | .scan g op excl d a => Sys2Proof.Machine.execScan g op excl d a s
  | .matchOp g w d a => Sys2Proof.Machine.execMatchOp g w d a s
  | .rand g k23 x4 d a b => Sys2Proof.Machine.execRand g k23 x4 d a b s
  | .randNext g k23 x4 d b => Sys2Proof.Machine.execRandNext g k23 x4 d b s
  | .ld g sz ap o sc d m => Sys2Proof.Machine.execLd g sz ap o sc d m s
  | .st g sz ap o sc d m => Sys2Proof.Machine.execSt g sz ap o sc d m s
  | .ldx g sz ap o d base idx n => Sys2Proof.Machine.execLdx g sz ap o d base idx n s
  | .stx g sz ap o d base idx n => Sys2Proof.Machine.execStx g sz ap o d base idx n s
  | .atom g op t ap o sc d base b => Sys2Proof.Machine.execAtom g op t ap o sc d base b s
  | .red g op t ap o sc base b => Sys2Proof.Machine.execRed g op t ap o sc base b s
  | .fence g o sc => Sys2Proof.Machine.execFence g o sc s
  | .sealOp g team => Sys2Proof.Machine.execSealOp g team s
  | .prefetch g near m => Sys2Proof.Machine.execPrefetch g near m s
  | .cinv g m => Sys2Proof.Machine.execCinv g m s
  | .cwb g m => Sys2Proof.Machine.execCwb g m s
  | .own g shr a b => Sys2Proof.Machine.execOwn g shr a b s
  | .memoryAccessComplete log lane => Sys2Proof.Machine.execMemoryAccessComplete log lane s
  | .presenceRelease team line => Sys2Proof.Machine.execPresenceRelease team line s
  | .cp g dir x d a ring b => Sys2Proof.Machine.execCp g dir x d a ring b s
  | .copyEnterEngine core => Sys2Proof.Machine.execCopyEnterEngine core s
  | .copyLineLanded copy => Sys2Proof.Machine.execCopyLineLanded copy s
  | .copyComplete copy => Sys2Proof.Machine.execCopyComplete copy s
  | .copyPageFault copy => Sys2Proof.Machine.execCopyPageFault copy s
  | .tdset g d a => Sys2Proof.Machine.execTdset g d a s
  | .tdmov g d a => Sys2Proof.Machine.execTdmov g d a s
  | .tdmovGet g d a => Sys2Proof.Machine.execTdmovGet g d a s
  | .tdmovBase g d a => Sys2Proof.Machine.execTdmovBase g d a s
  | .tdmovAdd g d a => Sys2Proof.Machine.execTdmovAdd g d a s
  | .ringadvInit g r a => Sys2Proof.Machine.execRingadvInit g r a s
  | .ringadv g r => Sys2Proof.Machine.execRingadv g r s
  | .ringadvCons g r => Sys2Proof.Machine.execRingadvCons g r s
  | .ringwait g r ph => Sys2Proof.Machine.execRingwait g r ph s
  | .sign g cv a => Sys2Proof.Machine.execSign g cv a s
  | .mma g f32 fa fb d a b sct cv => Sys2Proof.Machine.execMma g f32 fa fb d a b sct cv s
  | .mmaSp g f32 fa fb d a b sct cv => Sys2Proof.Machine.execMmaSp g f32 fa fb d a b sct cv s
  | .mmaw g slot d a b m cv => Sys2Proof.Machine.execMmaw g slot d a b m cv s
  | .acclr g d a => Sys2Proof.Machine.execAcclr g d a s
  | .accld g d t => Sys2Proof.Machine.execAccld g d t s
  | .accst g t a => Sys2Proof.Machine.execAccst g t a s
  | .accrd g d a h => Sys2Proof.Machine.execAccrd g d a h s
  | .acccvt g f64 slot d a e h => Sys2Proof.Machine.execAcccvt g f64 slot d a e h s
  | .mwait g a => Sys2Proof.Machine.execMwait g a s
  | .mmaDn g fin slot d a b sct cv => Sys2Proof.Machine.execMmaDn g fin slot d a b sct cv s
  | .mmaDnb g db slot d frag t sct cv => Sys2Proof.Machine.execMmaDnb g db slot d frag t sct cv s
  | .dntap g m slot d t h b => Sys2Proof.Machine.execDntap g m slot d t h b s
  | .dnload g slot => Sys2Proof.Machine.execDnload g slot s
  | .matrixOpStart op => Sys2Proof.Machine.execMatrixOpStart op s
  | .matrixCommit op => Sys2Proof.Machine.execMatrixCommit op s
  | .residueRetry op => Sys2Proof.Machine.execResidueRetry op s
  | .residueFallback op => Sys2Proof.Machine.execResidueFallback op s
  | .curvePassEnd op => Sys2Proof.Machine.execCurvePassEnd op s
  | .matrixFetchFault op kind hard content addr => Sys2Proof.Machine.execMatrixFetchFault op kind hard content addr s
  | .tkissue g d a => Sys2Proof.Machine.execTkissue g d a s
  | .tkredeem g d a b => Sys2Proof.Machine.execTkredeem g d a b s
  | .tkstateGet g d a => Sys2Proof.Machine.execTkstateGet g d a s
  | .tkstateVoid g d a => Sys2Proof.Machine.execTkstateVoid g d a s
  | .tkstateFree g d a => Sys2Proof.Machine.execTkstateFree g d a s
  | .wvcommitOpen g d => Sys2Proof.Machine.execWvcommitOpen g d s
  | .wvcommitCow g d a => Sys2Proof.Machine.execWvcommitCow g d a s
  | .wvcommitFin g d => Sys2Proof.Machine.execWvcommitFin g d s
  | .wvcommitDrop g d => Sys2Proof.Machine.execWvcommitDrop g d s
  | .taskResultReturn op => Sys2Proof.Machine.execTaskResultReturn op s
  | .launchStatusReturn log lane => Sys2Proof.Machine.execLaunchStatusReturn log lane s
  | .selection team crew => Sys2Proof.Machine.execSelection team crew s
  | .clauseHeaderIssue team crew => Sys2Proof.Machine.execClauseHeaderIssue team crew s
  | .coreIssueCycle core => Sys2Proof.Machine.execCoreIssueCycle core s
  | .crossLaneCompletion op => Sys2Proof.Machine.execCrossLaneCompletion op s
  | .trapTaken team crew cls lanes tinfo => Sys2Proof.Machine.execTrapTaken team crew cls lanes tinfo s
  | .teamKill team crew cls lanes pc tinfo => Sys2Proof.Machine.execTeamKill team crew cls lanes pc tinfo s
  | .driverResumeGrid grid => Sys2Proof.Machine.execDriverResumeGrid grid s
  | .driverKillGrid grid => Sys2Proof.Machine.execDriverKillGrid grid s
  | .uncorrectableError team storage => Sys2Proof.Machine.execUncorrectableError team storage s
  | .crewRetire team crew => Sys2Proof.Machine.execCrewRetire team crew s
  | .teamRetire team => Sys2Proof.Machine.execTeamRetire team s
  | .gridRetire grid => Sys2Proof.Machine.execGridRetire grid s
  | .teamPlacement grid core => Sys2Proof.Machine.execTeamPlacement grid core s
  | .kernelImageLoad grid core => Sys2Proof.Machine.execKernelImageLoad grid core s
  | .compactorMove core block first => Sys2Proof.Machine.execCompactorMove core block first s
  | .priorityPreempt grid core => Sys2Proof.Machine.execPriorityPreempt grid core s
  | .instructionBoundaryStop team => Sys2Proof.Machine.execInstructionBoundaryStop team s
  | .teamRestore team core => Sys2Proof.Machine.execTeamRestore team core s
  | .quantumExpiry core => Sys2Proof.Machine.execQuantumExpiry core s
  | .bankSpill core => Sys2Proof.Machine.execBankSpill core s
  | .coreFailure core => Sys2Proof.Machine.execCoreFailure core s
  | .coreRestart core => Sys2Proof.Machine.execCoreRestart core s
  | .stageEntryWaitEnd log lane => Sys2Proof.Machine.execStageEntryWaitEnd log lane s
  | .plumbRelease grid => Sys2Proof.Machine.execPlumbRelease grid s
  | .stagedLoadComplete log lane => Sys2Proof.Machine.execStagedLoadComplete log lane s
  | .atsTranslationResponse die pasid page write grant => Sys2Proof.Machine.execAtsTranslationResponse die pasid page write grant s
  | .atsInvalidateRequest die pasid range => Sys2Proof.Machine.execAtsInvalidateRequest die pasid range s
  | .pageRequestGroupResponse die entry resp => Sys2Proof.Machine.execPageRequestGroupResponse die entry resp s
  | .fbufValidClear die entry => Sys2Proof.Machine.execFbufValidClear die entry s
  | .fstatDropClear die => Sys2Proof.Machine.execFstatDropClear die s
  | .replay die => Sys2Proof.Machine.execReplay die s
  | .replayEnd die => Sys2Proof.Machine.execReplayEnd die s
  | .ringwrDoorbell fe w => Sys2Proof.Machine.execRingwrDoorbell fe w s
  | .ringctlEnable fe value => Sys2Proof.Machine.execRingctlEnable fe value s
  | .ringEntryTaken fe => Sys2Proof.Machine.execRingEntryTaken fe s
  | .festatStoppedClear fe => Sys2Proof.Machine.execFestatStoppedClear fe s
  | .recordPost fe => Sys2Proof.Machine.execRecordPost fe s
  | .recrdWrite fe value => Sys2Proof.Machine.execRecrdWrite fe value s
  | .recbaseWrite fe base size => Sys2Proof.Machine.execRecbaseWrite fe base size s
  | .nodeReadyLaunch sub => Sys2Proof.Machine.execNodeReadyLaunch sub s
  | .replayGridLaunch sub block => Sys2Proof.Machine.execReplayGridLaunch sub block s
  | .partWrite fe value => Sys2Proof.Machine.execPartWrite fe value s
  | .rangeShrinkComplete fe => Sys2Proof.Machine.execRangeShrinkComplete fe s
  | .coopDrainPoint grid => Sys2Proof.Machine.execCoopDrainPoint grid s
  | .redemptionRun sub => Sys2Proof.Machine.execRedemptionRun sub s
  | .updateNodeReady sub => Sys2Proof.Machine.execUpdateNodeReady sub s
  | .updateNodeRetire sub => Sys2Proof.Machine.execUpdateNodeRetire sub s
  | .exportPerformed die home => Sys2Proof.Machine.execExportPerformed die home s
  | .clockAnnouncement die => Sys2Proof.Machine.execClockAnnouncement die s
  | .announcementReceived die src value => Sys2Proof.Machine.execAnnouncementReceived die src value s
  | .releaseClockWaitEnd log lane => Sys2Proof.Machine.execReleaseClockWaitEnd log lane s
  | .zeroLengthReadCompletion log lane => Sys2Proof.Machine.execZeroLengthReadCompletion log lane s
  | .wenandDataFrame link incoming frame => Sys2Proof.Machine.execWenandDataFrame link incoming frame s
  | .wenandAcknowledgement link frame => Sys2Proof.Machine.execWenandAcknowledgement link frame s
  | .wenandRetryRequest link frame => Sys2Proof.Machine.execWenandRetryRequest link frame s
  | .wenandRetrain link => Sys2Proof.Machine.execWenandRetrain link s
  | .wenandLinkTrained link => Sys2Proof.Machine.execWenandLinkTrained link s
  | .wenandLinkFailure link => Sys2Proof.Machine.execWenandLinkFailure link s
  | .peerAccess log lane answer => Sys2Proof.Machine.execPeerAccess log lane answer s
  | .migctlGoSource fe peer other => Sys2Proof.Machine.execMigctlGoSource fe peer other s
  | .migctlGoTarget fe peer other => Sys2Proof.Machine.execMigctlGoTarget fe peer other s
  | .migrationSendComplete fe parcel => Sys2Proof.Machine.execMigrationSendComplete fe parcel s
  | .migctlResume fe => Sys2Proof.Machine.execMigctlResume fe s
  | .migctlAbort fe => Sys2Proof.Machine.execMigctlAbort fe s
  | .migctlClear fe => Sys2Proof.Machine.execMigctlClear fe s
  | .pagePull fe entry => Sys2Proof.Machine.execPagePull fe entry s
  | .pageLanded fe entry bytes => Sys2Proof.Machine.execPageLanded fe entry bytes s
  | .forwardedAtomic log lane answer => Sys2Proof.Machine.execForwardedAtomic log lane answer s
  | .forwardingStubAccess link fe offset access => Sys2Proof.Machine.execForwardingStubAccess link fe offset access s
  | .functionLevelReset fe => Sys2Proof.Machine.execFunctionLevelReset fe s
  | .hostBar2Access offset size write relaxed => Sys2Proof.Machine.execHostBar2Access offset size write relaxed s
  | .hostBar4Access offset size write => Sys2Proof.Machine.execHostBar4Access offset size write s
  | .attestationRequest pf vf nonce => Sys2Proof.Machine.execAttestationRequest pf vf nonce s
  | .fusedMinimumRaise die svn => Sys2Proof.Machine.execFusedMinimumRaise die svn s
  | .deviceResetBoot die input => Sys2Proof.Machine.execDeviceResetBoot die input s
  | .thermalLimit die celsius => Sys2Proof.Machine.execThermalLimit die celsius s
  | .registerWrite pf vf offset value => Sys2Proof.Machine.execRegisterWrite pf vf offset value s

end Sys2Proof.Machine
end

