-- ==== Sys2Proof/Machine/Step.lean ====
section
/-! DEFINITION. One step of the device, and the state in which a given instruction is the next one to issue. -/

namespace Sys2Proof.Machine

/-- Go on with a next state. -/
def Result.andThen (r : Result) (f : State → State) : Result :=
  match r with
  | .next s => .next (f s)
  | .fault e => .fault e
  | .refused e => .refused e

/-- What comes next is done. -/
def State.act (s : State) : Result :=
  match s.turn with
  | .done s => .next s
  | .event i s => exec i s
  | .point i t c s => Result.andThen (exec i s) fun s => s.afterPoint (isHeaderIssue i) t c
  | .issue i t c x s => Result.andThen (exec i s) fun r => (r.issued s t c i).finish t c x
  | .trial i t c k s => Result.andThen (exec i k) fun r => if r.stalls && !r.begins t c then s.notEligible t c else s

def step (s : State) : Host.Outcome State Fault Refusal :=
  Result.andThen s.act fun u => if s.overflows u then s.putOff else u

/-- `s` with the instruction as the next word to issue (log 6). Every instruction is one 64-bit word (R47). -/
def State.withFetchWord (s : State) (_nbits w : Nat) : State := s.withProgram (BitVec.ofNat 64 w)

end Sys2Proof.Machine
end

