-- ==== Sys2Proof/Safety.lean ====
section
/-! DEFINITION. The terms in which statements are made: which instructions issue, what a written destination is, which
states are canonical, and what counts as a safe step. -/

namespace Sys2Proof.Machine

/-- A step that ends neither in a fault nor in a refusal. -/
def Safe (r : Result) : Prop := ∃ s, r = .next s

/-- A team and a crew of these numbers exist. -/
def State.hasCrew (s : State) (t c : Nat) : Prop := t < s.teams.length ∧ c < (s.team t).crews.length

/-- Memory in its canonical form: addresses strictly rising, no zero byte listed. -/
abbrev Memory.wf (s : State) : Prop := Sparse.wf s.mem = true

/-- The instruction issues for `x`, and no condition of the whole instruction holds (R229): its registers and tiles
are the team's, the crew's role may issue it, no seal protects what it writes, and no rule of its own refuses it. -/
structure Runs (s : State) (i : Instr) (x : Issue) : Prop where
  issues : s.issuing i = some x
  crew : s.hasCrew x.t x.c
  range : s.outOfRange x = false
  role : s.roleRefused x = false
  noSeal : s.sealHit x [] = none

/-- The state after an instruction whose only effect is on its own crew. -/
def State.withCrew (s : State) (x : Issue) (cr : Crew) : State := s.modCrew x.t x.c fun _ => cr

/-- `cr'` is `cr` with the destination `d`, a pair when `w`, holding `f l` in each lane `l` of `m`, or for a uniform
destination once `f` of the lowest lane of `m` (R134, R137): no other register and nothing else of the crew changes. -/
def Wrote (cr cr' : Crew) (d : Dst) (w : Bool) (m : Mask) (f : Nat → Nat) : Prop :=
  match d with
  | .v n =>
    (∀ l, l < 16 → m.getLsbD l = true → if w then (cr'.v64 n.val l).toNat = f l else (cr'.v n.val l).toNat = f l) ∧
    (∀ k l, l < 16 → (m.getLsbD l = false ∨ k < n.val ∨ n.val + two w ≤ k) → cr'.v k l = cr.v k l) ∧
    { cr' with vregs := cr.vregs } = cr
  | .s n =>
    if m = 0 then cr' = cr
    else
      (if w then (cr'.s64 n.val).toNat = f (lowestLane m) else (cr'.s n.val).toNat = f (lowestLane m)) ∧
      (∀ k, k < n.val ∨ n.val + two w ≤ k → cr'.s k = cr.s k) ∧
      { cr' with sregs := cr.sregs } = cr

/-- `cr'` is `cr` with predicate `p` holding `f l` in each lane `l` of `m`; p15 takes no write (R95). -/
def WroteP (cr cr' : Crew) (p : Fin 16) (m : Mask) (f : Nat → Bool) : Prop :=
  (∀ l, l < 16 → m.getLsbD l = true → p.val ≠ 15 → (cr'.p p.val).getLsbD l = f l) ∧
  (∀ l, l < 16 → m.getLsbD l = false → (cr'.p p.val).getLsbD l = (cr.p p.val).getLsbD l) ∧
  (∀ k, k ≠ p.val → cr'.p k = cr.p k) ∧ (cr'.p 15 = BitVec.allOnes 16) ∧ { cr' with preds := cr.preds } = cr

/-- `cr'` is `cr` with the threads of `m` changed by `f` and the bundle `b`, and nothing else. -/
def ChangedThreads (cr cr' : Crew) (m : Mask) (f : Nat → Thread → Thread) (b : Mask) : Prop :=
  cr'.threads.length = cr.threads.length ∧
  (∀ l, l < cr.threads.length → cr'.th l = if m.getLsbD l then f l (cr.th l) else cr.th l) ∧
  cr'.bundle = b ∧ { cr' with threads := cr.threads, bundle := cr.bundle } = cr

/-- `cr'` is `cr` with the vector destination `d`, a pair when `w`, holding the codes of `r` in the lanes of `m`, and the
flags of `r` added to those of the lanes (R113); nothing else of the crew changes. -/
def WroteF (cr cr' : Crew) (d : Fin 768) (w : Bool) (m : Mask) (r : Nat → Rounded) : Prop :=
  (∀ l, l < 16 → m.getLsbD l = true →
    if w then cr'.v64 d.val l = BitVec.ofNat 64 (r l).code else cr'.v d.val l = BitVec.ofNat 32 (r l).code) ∧
  (∀ k l, l < 16 → (m.getLsbD l = false ∨ k < d.val ∨ d.val + two w ≤ k) → cr'.v k l = cr.v k l) ∧
  cr'.threads.length = cr.threads.length ∧
  (∀ l, l < cr.threads.length → cr'.th l =
    if m.getLsbD l then { cr.th l with fpflags := (cr.th l).fpflags ||| (r l).flags.setWidth 32 } else cr.th l) ∧
  { cr' with vregs := cr.vregs, threads := cr.threads } = cr

/-- No lane of Active() raises a flag that its %fptrap enables (R116). -/
def State.Quiet (s : State) (x : Issue) (r : Nat → Rounded) : Prop :=
  ∀ l, l < 16 → x.act.getLsbD l = true → (r l).traps ((s.crew x.t x.c).th l).fptrap = false

/-- No join of the crew is complete, not every thread that goes on stands held at a join (R80, R82), and no lane held at
one has a trap of its mwait due (R378). -/
def Crew.JoinsWait (cr : Crew) : Prop :=
  cr.matrixTraps (cr.inState fun th => th.state == .held && th.holdAt == .join) = 0 ∧
  (∀ l, l < 16 → cr.joinDone l = false) ∧
  ((∀ l, l < 16 → l < cr.threads.length → (cr.th l).state = .exited) ∨ ∃ l, l < 16 ∧ l < cr.threads.length ∧ (cr.th l).state ≠ .exited ∧ ¬((cr.th l).state = .held ∧ (cr.th l).holdAt = .join))

end Sys2Proof.Machine
end

