-- ==== Sys2Proof/Certificates/Slice0/Obligations.lean ====
section
/-! DEFINITION. The statements of this row. -/

namespace Sys2Proof.Machine

/-! ## Integer, address and predicate instructions -/

/-- N of R134. -/
def widthOf (w : Bool) : Nat := if w then 64 else 32

/-- Val of R134: a pattern read as a two's-complement or an unsigned integer. -/
def asInt (sg w : Bool) (u : Nat) : Int :=
  if sg then (if w then (BitVec.ofNat 64 u).toInt else (BitVec.ofNat 32 u).toInt) else (u : Int)

/-- The pattern of `x` modulo 2^N. -/
def modN (w : Bool) (x : Int) : Nat := (x % (2 : Int) ^ widthOf w).toNat

/-- Lo and Hi of R134. -/
def loN (sg w : Bool) : Int := if sg then -((2 : Int) ^ (widthOf w - 1)) else 0

def hiN (sg w : Bool) : Int := if sg then (2 : Int) ^ (widthOf w - 1) - 1 else (2 : Int) ^ widthOf w - 1

/-- The pattern that R140 writes for the exact result `x`. -/
def fitN (sg w sat : Bool) (x : Int) : Nat :=
  modN w (if sat then (if x < loN sg w then loN sg w else if hiN sg w < x then hiN sg w else x) else x)

/-- The field's pattern in a lane, read as the type says. -/
def State.at (s : State) (x : Issue) (sg w : Bool) (o : Opnd) (l : Nat) : Int := asInt sg w (s.bits x.t x.c w o l)

/-- A result for each lane: destination, whether it is a pair, and the pattern. -/
abbrev LaneSpec := Option (Dst × Bool × (Nat → Nat))

/-- R140, for each of its mnemonics. -/
def arithSpec (s : State) (x : Issue) : Instr → LaneSpec
  | .iadd _ t w sat d a b =>
    some (d, w, fun l => fitN (t == .s32) w sat (s.at x (t == .s32) w a l + s.at x (t == .s32) w b l))
  | .iaddImm _ t w sat d a imm =>
    some (d, w, fun l => fitN (t == .s32) w sat (s.at x (t == .s32) w a l + asInt (t == .s32) w (modN w imm.toInt)))
  | .isub _ t w sat d a b =>
    some (d, w, fun l => fitN (t == .s32) w sat (s.at x (t == .s32) w a l - s.at x (t == .s32) w b l))
  | .imul _ _ w d a b => some (d, w, fun l => modN w ((s.bits x.t x.c w a l : Int) * s.bits x.t x.c w b l))
  | .imad _ t w sat d a b c =>
    some (d, w, fun l => fitN (t == .s32) w sat
      (s.at x (t == .s32) w a l * s.at x (t == .s32) w b l + s.at x (t == .s32) w c l))
  | .ineg _ w sat d a => some (d, w, fun l => fitN true w sat (-(s.at x true w a l)))
  | .iabs _ w sat d a => some (d, w, fun l => fitN true w sat |s.at x true w a l|)
  | _ => none

/-- R141 to R143. -/
def divSpec (s : State) (x : Issue) : Instr → LaneSpec
  | .imulhi _ sg w d a b =>
    some (d, w, fun l => modN w ((s.at x sg w a l * s.at x sg w b l) / (2 : Int) ^ widthOf w))
  | .idiv _ sg w d a b => some (d, w, fun l =>
    let n := s.at x sg w a l
    let m := s.at x sg w b l
    if m = 0 then 2 ^ widthOf w - 1 else modN w (n.tdiv m))
  | .irem _ sg w d a b => some (d, w, fun l =>
    let n := s.at x sg w a l
    let m := s.at x sg w b l
    if m = 0 then modN w n else modN w (n - m * n.tdiv m))
  | .imin _ sg w d a b => some (d, w, fun l =>
    if s.at x sg w b l < s.at x sg w a l then s.bits x.t x.c w b l else s.bits x.t x.c w a l)
  | .imax _ sg w d a b => some (d, w, fun l =>
    if s.at x sg w a l < s.at x sg w b l then s.bits x.t x.c w b l else s.bits x.t x.c w a l)
  | _ => none

/-- The predicate's bit that a form reads for a lane (R137). -/
def State.carryBit (s : State) (x : Issue) (d : Dst) (p : Fin 16) (l : Nat) : Nat :=
  (((s.crew x.t x.c).p p.val).getLsbD (match d with
    | .v _ => l
    | .s _ => lowestLane x.act)).toNat

/-- R145 and R151 to R155, without the destination's lanes. -/
def moveSpec (s : State) (x : Issue) : Instr → LaneSpec
  | .andL _ w d a b => some (d, w, fun l => s.bits x.t x.c w a l &&& s.bits x.t x.c w b l)
  | .orL _ w d a b => some (d, w, fun l => s.bits x.t x.c w a l ||| s.bits x.t x.c w b l)
  | .xorL _ w d a b => some (d, w, fun l => s.bits x.t x.c w a l ^^^ s.bits x.t x.c w b l)
  | .andnL _ w d a b =>
    some (d, w, fun l => s.bits x.t x.c w a l - (s.bits x.t x.c w a l &&& s.bits x.t x.c w b l))
  | .andImm _ w d a imm => some (d, w, fun l => s.bits x.t x.c w a l &&& modN w imm.toInt)
  | .orImm _ w d a imm => some (d, w, fun l => s.bits x.t x.c w a l ||| modN w imm.toInt)
  | .xorImm _ w d a imm => some (d, w, fun l => s.bits x.t x.c w a l ^^^ modN w imm.toInt)
  | .andnImm _ w d a imm =>
    some (d, w, fun l => s.bits x.t x.c w a l - (s.bits x.t x.c w a l &&& modN w imm.toInt))
  | .notL _ w d a => some (d, w, fun l => 2 ^ widthOf w - 1 - s.bits x.t x.c w a l)
  | .isel _ w d a b p =>
    some (d, w, fun l => if s.carryBit x d p l = 1 then s.bits x.t x.c w a l else s.bits x.t x.c w b l)
  | .mov _ w d a => some (d, w, fun l => s.bits x.t x.c w a l)
  | .movi _ w d imm => some (d, w, fun _ => if w then (BitVec.signExtend 64 imm).toNat else imm.toNat)
  | .lea _ sg scale d a b c => some (d, true, fun l =>
    modN true (s.rd64 x.t x.c a l + s.at x sg false b l * (2 : Int) ^ scale.val + s.at x true false c l))
  | .sext _ t w d a => some (d, w, fun l =>
    modN w (match t with
      | .b8 => (BitVec.ofNat 8 (s.rd16 x.t x.c a l)).toInt
      | .b16 => (BitVec.ofNat 16 (s.rd16 x.t x.c a l)).toInt
      | .b32 => (BitVec.ofNat 32 (s.rd32 x.t x.c a l)).toInt))
  | .zext _ t w d a => some (d, w, fun l =>
    match t with
      | .b8 => s.rd16 x.t x.c a l % 256
      | .b16 => s.rd16 x.t x.c a l % 65536
      | .b32 => s.rd32 x.t x.c a l)
  | _ => none

/-- R146, on bit vectors of N bits. -/
def shiftSpec (s : State) (x : Issue) : Instr → LaneSpec
  | .shl _ w d a b => some (d, w, fun l => (BitVec.ofNat (widthOf w) (s.bits x.t x.c w a l) <<< s.rd32 x.t x.c b l).toNat)
  | .shr _ w d a b => some (d, w, fun l => (BitVec.ofNat (widthOf w) (s.bits x.t x.c w a l) >>> s.rd32 x.t x.c b l).toNat)
  | .sar _ w d a b =>
    some (d, w, fun l => ((BitVec.ofNat (widthOf w) (s.bits x.t x.c w a l)).sshiftRight (s.rd32 x.t x.c b l)).toNat)
  | .rotl _ w d a b =>
    some (d, w, fun l => ((BitVec.ofNat (widthOf w) (s.bits x.t x.c w a l)).rotateLeft (s.rd32 x.t x.c b l)).toNat)
  | .rotr _ w d a b =>
    some (d, w, fun l => ((BitVec.ofNat (widthOf w) (s.bits x.t x.c w a l)).rotateRight (s.rd32 x.t x.c b l)).toNat)
  | _ => none

/-- Whether `r` is the pattern that R147 to R149 give for a lane, bit by bit. -/
def fieldSpec (s : State) (x : Issue) (l r : Nat) : Instr → Prop
  | .popc _ w _ a => r = ((List.range (widthOf w)).map fun i => ((s.bits x.t x.c w a l).testBit i).toNat).sum
  | .clz _ w _ a =>
    r ≤ widthOf w ∧ s.bits x.t x.c w a l < 2 ^ (widthOf w - r) ∧
      (r < widthOf w → 2 ^ (widthOf w - r - 1) ≤ s.bits x.t x.c w a l)
  | .ctz _ w _ a =>
    if s.bits x.t x.c w a l = 0 then r = widthOf w
    else 2 ^ r ∣ s.bits x.t x.c w a l ∧ ¬ 2 ^ (r + 1) ∣ s.bits x.t x.c w a l
  | .brev _ w _ a => ∀ i, r.testBit i = (decide (i < widthOf w) && (s.bits x.t x.c w a l).testBit (widthOf w - 1 - i))
  | .bfe _ sg w _ a b c =>
    let p := min (s.rd32 x.t x.c b l % 256) (widthOf w)
    let n := min (s.rd32 x.t x.c c l % 256) (widthOf w - p)
    ∀ i, r.testBit i = (decide (i < widthOf w ∧ (i < n ∨ (sg = true ∧ 0 < n))) &&
      (s.bits x.t x.c w a l).testBit (p + min i (n - 1)))
  | .bfi _ w d a b c =>
    let p := min (s.rd32 x.t x.c b l % 256) (widthOf w)
    let n := min (s.rd32 x.t x.c c l % 256) (widthOf w - p)
    ∀ i, r.testBit i = if p ≤ i ∧ i < p + n then (s.bits x.t x.c w a l).testBit (i - p)
      else (s.bits x.t x.c w (dstOpnd d) l).testBit i
  | .prmt _ _ a b c =>
    ∀ j k, k < 4 → r.testBit (4 * j + k) = (decide (j < 8) &&
      (let sel := s.rd32 x.t x.c c l / 16 ^ j % 16
       if sel < 8 then (s.rd32 x.t x.c a l).testBit (4 * sel + k) else (s.rd32 x.t x.c b l).testBit (4 * (sel - 8) + k)))
  | _ => False

/-- Destination of an instruction of R147 to R149, and whether it is a pair. -/
def fieldDst : Instr → Option (Dst × Bool)
  | .popc _ _ d _ => some (d, false)
  | .clz _ _ d _ => some (d, false)
  | .ctz _ _ d _ => some (d, false)
  | .brev _ w d _ => some (d, w)
  | .bfe _ _ w d _ _ _ => some (d, w)
  | .bfi _ w d _ _ _ => some (d, w)
  | .prmt _ d _ _ _ => some (d, false)
  | _ => none

/-- The answer of a condition (R150). -/
def holdsCond (c : ICond) (a b : Int) : Prop :=
  match c with
  | .eq => a = b
  | .ne => a ≠ b
  | .lt => a < b
  | .le => a ≤ b
  | .gt => b < a
  | .ge => b ≤ a

/-- The predicate that an instruction writes, and what it answers in a lane (R150, R156, R200). -/
def predSpec (s : State) (x : Issue) (l : Nat) : Instr → Option (Fin 16 × Prop)
  | .icmp _ t w c p a b => some (p, holdsCond c (s.at x (t == .s32) w a l) (s.at x (t == .s32) w b l))
  | .icmpImm _ t w c p a imm => some (p, holdsCond c (s.at x (t == .s32) w a l) (asInt (t == .s32) w (modN w imm.toInt)))
  | .pand _ d a b => some (d, ((s.crew x.t x.c).p a.val).getLsbD l = true ∧ ((s.crew x.t x.c).p b.val).getLsbD l = true)
  | .por _ d a b => some (d, ((s.crew x.t x.c).p a.val).getLsbD l = true ∨ ((s.crew x.t x.c).p b.val).getLsbD l = true)
  | .pxor _ d a b => some (d, ((s.crew x.t x.c).p a.val).getLsbD l ≠ ((s.crew x.t x.c).p b.val).getLsbD l)
  | .pnot _ d a => some (d, ((s.crew x.t x.c).p a.val).getLsbD l = false)
  | .pmov _ d a => some (d, ((s.crew x.t x.c).p a.val).getLsbD l = true)
  | .pmovUnpack _ d a => some (d, s.rd32 x.t x.c a l / 2 ^ l % 2 = 1)
  | .elect _ p => some (p, ∀ j, x.act.getLsbD j = true → l ≤ j)
  | _ => none

end Sys2Proof.Machine

open Sys2Proof Sys2Proof.Machine

/-- R140: iadd, isub, imul, imad, ineg and iabs write, in each lane of Active(), the exact result modulo 2^N or, with
.sat, clamped; nothing else of the state changes.
R141, R142, R143: imulhi, idiv, irem, imin and imax, a division by zero and the quotient of the least number by -1
included. -/
def Obligations.IntegerArithmetic : Prop :=
  (∀ (s : State) (i : Instr) (x : Issue) (d : Dst) (w : Bool) (f : Nat → Nat),
    Runs s i x → arithSpec s x i = some (d, w, f) →
    ∃ cr, exec i s = .next (s.withCrew x cr) ∧ Wrote (s.crew x.t x.c) cr d w x.act f) ∧
  (∀ (s : State) (i : Instr) (x : Issue) (d : Dst) (w : Bool) (f : Nat → Nat),
    Runs s i x → divSpec s x i = some (d, w, f) →
    ∃ cr, exec i s = .next (s.withCrew x cr) ∧ Wrote (s.crew x.t x.c) cr d w x.act f)

/-- R145, R151 to R155: the logical instructions, isel, mov, movi, lea, sext and zext.
R146: the shifts and rotations, by any unsigned 32-bit count. -/
def Obligations.LogicMovesShifts : Prop :=
  (∀ (s : State) (i : Instr) (x : Issue) (d : Dst) (w : Bool) (f : Nat → Nat),
    Runs s i x → moveSpec s x i = some (d, w, f) →
    ∃ cr, exec i s = .next (s.withCrew x cr) ∧ Wrote (s.crew x.t x.c) cr d w x.act f) ∧
  (∀ (s : State) (i : Instr) (x : Issue) (d : Dst) (w : Bool) (f : Nat → Nat),
    Runs s i x → shiftSpec s x i = some (d, w, f) →
    ∃ cr, exec i s = .next (s.withCrew x cr) ∧ Wrote (s.crew x.t x.c) cr d w x.act f)

/-- R147, R148, R149: bit counts, bit reversal, bit fields and nibble permutation, each result given bit by bit. -/
def Obligations.BitCountsAndFields : Prop :=
  ∀ (s : State) (i : Instr) (x : Issue) (d : Dst) (w : Bool),
    Runs s i x → fieldDst i = some (d, w) →
    ∃ cr f, exec i s = .next (s.withCrew x cr) ∧ Wrote (s.crew x.t x.c) cr d w x.act f ∧ ∀ l, fieldSpec s x l (f l) i

/-- R144: iaddc and isubb read the predicate before they write it; the carry-out goes to the lanes of Active(), that of a
uniform form to all of them (R137). -/
def Obligations.CarryAndBorrow : Prop :=
  ∀ (s : State) (g : Guard) (w : Bool) (d : Dst) (a b : Opnd) (p : Fin 16) (x : Issue),
    let src (l : Nat) : Nat := match d with
      | .v _ => l
      | .s _ => lowestLane x.act
    (Runs s (.iaddc g w d a b p) x →
      let sum (l : Nat) : Nat := s.bits x.t x.c w a l + s.bits x.t x.c w b l + s.carryBit x d p l
      ∃ mid cr, exec (.iaddc g w d a b p) s = .next (s.withCrew x cr) ∧
        Wrote (s.crew x.t x.c) mid d w x.act (fun l => sum l % 2 ^ widthOf w) ∧
        WroteP mid cr p x.act fun l => decide (2 ^ widthOf w ≤ sum (src l))) ∧
    (Runs s (.isubb g w d a b p) x →
      let dif (l : Nat) : Int := (s.bits x.t x.c w a l : Int) - s.bits x.t x.c w b l - s.carryBit x d p l
      ∃ mid cr, exec (.isubb g w d a b p) s = .next (s.withCrew x cr) ∧
        Wrote (s.crew x.t x.c) mid d w x.act (fun l => modN w (dif l)) ∧
        WroteP mid cr p x.act fun l => decide (dif (src l) < 0))

/-- R150, R156, R200: comparisons, predicate logic, pmov.unpack and elect write one predicate in the lanes of Active(), and
pmov.pack every lane of a predicate to a register. -/
def Obligations.ComparesAndPredicates : Prop :=
  (∀ (s : State) (i : Instr) (x : Issue) (p : Fin 16),
    Runs s i x → (∃ a, predSpec s x 0 i = some (p, a)) →
    ∃ cr f, exec i s = .next (s.withCrew x cr) ∧ WroteP (s.crew x.t x.c) cr p x.act f ∧
      ∀ l, l < 16 → x.act.getLsbD l = true → ∀ a, predSpec s x l i = some (p, a) → (f l = true ↔ a)) ∧
  ∀ (s : State) (g : Guard) (d : Dst) (a : Fin 16) (x : Issue), Runs s (.pmovPack g d a) x →
    ∃ cr, exec (.pmovPack g d a) s = .next (s.withCrew x cr) ∧
      Wrote (s.crew x.t x.c) cr d false x.act fun _ => ((s.crew x.t x.c).p a.val).toNat

namespace Sys2Proof.Machine

/-! ## Floating-point instructions -/

/-- The real number that a finite value stands for. -/
def FV.rat : FV → Option ℚ
  | .fin neg m e => some ((if neg then -1 else 1) * (m : ℚ) * (2 : ℚ) ^ e)
  | _ => none

/-- `c` is a code of the format for the real number nearest to `r`, of two equally near the one with an even last bit
(R117, rne), and no finite code of the format stands nearer. -/
def NearestCode (f : FFmt) (r : ℚ) (c : Nat) : Prop :=
  ∃ q, (f.value c).rat = some q ∧ ∀ k p, k < 2 ^ f.width → (f.value k).rat = some p →
    |q - r| ≤ |p - r| ∧ (|p - r| = |q - r| → p ≠ q → c % 2 = 0)

/-- The least magnitude that rne takes beyond the format's largest finite value (R114, R117): halfway to the next power
of two. -/
def FFmt.overflowAt (f : FFmt) : ℚ := ((2 : ℚ) ^ (f.mb + 2) - 1) * (2 : ℚ) ^ ((f.bias : Int) - f.mb - 1)

/-- A condition of fcmp on an ordered pair, from how the two compare (R167). -/
def condRel (c : FCond) (lt eq gt : Prop) : Prop :=
  match c with
  | .eq => eq
  | .ne => ¬ eq
  | .lt => lt
  | .le => lt ∨ eq
  | .gt => gt
  | .ge => gt ∨ eq
  | .un => False

/-- The vector formats of R158. -/
def vectorFormat (t : FTy) : FFmt := FFmt.ofTy t

/-- Result and flags in a lane of an arithmetic instruction, element by element (R160, R164 to R166, R169 to R171): each
sum, product, quotient or root is formed exactly and rounded once. -/
def floatArith (s : State) (x : Issue) (l : Nat) : Instr → Option (Fin 768 × Bool × Rounded)
  | .fadd _ t r d a b => some (d, isF64 t, perElem t fun e =>
    (sumRounded (.ofTy t) [s.fval x t a l e, s.fval x t b l e] (.ofMod r)).raise (readFlags [s.fval x t a l e, s.fval x t b l e]))
  | .fsub _ t r d a b => some (d, isF64 t, perElem t fun e =>
    let y := (s.fval x t b l e).negate
    (sumRounded (.ofTy t) [s.fval x t a l e, y] (.ofMod r)).raise (readFlags [s.fval x t a l e, y]))
  | .fmul _ t r d a b => some (d, isF64 t, perElem t fun e =>
    let p := (s.fval x t a l e).mul (s.fval x t b l e)
    ((FFmt.ofTy t).roundTo p.1 (.ofMod r) .special).raise (p.2 ||| readFlags [s.fval x t a l e, s.fval x t b l e]))
  | .ffma _ t r d a b c => some (d, isF64 t, perElem t fun e =>
    group (.ofTy t) (s.fval x t c l e) [(s.fval x t a l e, s.fval x t b l e)] (.ofMod r))
  | .fmin _ t nan d a b => some (d, isF64 t, perElem t fun e =>
    minMax (.ofTy t) false nan (part t (s.fbits x.t x.c t a l) e) (part t (s.fbits x.t x.c t b l) e))
  | .fmax _ t nan d a b => some (d, isF64 t, perElem t fun e =>
    minMax (.ofTy t) true nan (part t (s.fbits x.t x.c t a l) e) (part t (s.fbits x.t x.c t b l) e))
  | .fdiv _ f64 r d a b => some (d, f64,
    divRounded (.ofTy (tyOf f64)) (.ofMod r) (s.fval x (tyOf f64) a l 0) (s.fval x (tyOf f64) b l 0))
  | .fsqrt _ f64 r d a => some (d, f64, sqrtRounded (.ofTy (tyOf f64)) (.ofMod r) (s.fval x (tyOf f64) a l 0))
  | .frint _ t r xx d a => some (d, isF64 t, perElem t fun e =>
    integral (.ofTy t) (.ofMod r) xx (part t (s.fbits x.t x.c t a l) e))
  | .fscale _ t r d a b => some (d, isF64 t, perElem t fun e =>
    scaled (.ofTy t) (.ofMod r) (s.fval x t a l e) (asInt true false (s.rd32 x.t x.c b l)))
  | .fgetexp _ t d a => some (d, false, perElem t fun e => getExp (if t.half then 16 else 32) (s.fval x t a l e))
  | .fgetman _ t d a => some (d, isF64 t, perElem t fun e => getMan (.ofTy t) (s.fval x t a l e))
  | .fclass _ t d a => some (d, false, perElem t fun e =>
    Rounded.exact (classOf (.ofTy t) (part t (s.fbits x.t x.c t a l) e)))
  | _ => none

/-- The approximations of R172. -/
def floatApprox (s : State) (x : Issue) (l : Nat) : Instr → Option (Fin 768 × Bool × Rounded) :=
  let go (fn : Approx.Fn) (f16 : Bool) (d : Fin 768) (a : Opnd) : Option (Fin 768 × Bool × Rounded) :=
    let t : FTy := if f16 then .f16 else .f32
    some (d, false, perElem t fun e => approx fn f16 (part t (s.fbits x.t x.c t a l) e))
  fun i => match i with
  | .frcp _ f16 d a => go .rcp f16 d a
  | .frsq _ f16 d a => go .rsq f16 d a
  | .fexp2 _ f16 d a => go .exp2 f16 d a
  | .flog2 _ f16 d a => go .log2 f16 d a
  | .fsin _ f16 d a => go .sin f16 d a
  | .fcos _ f16 d a => go .cos f16 d a
  | _ => none

/-- Conversions, slices and dot products (R173 to R181), whose format slot admits them. -/
def floatConvert (s : State) (x : Issue) (l : Nat) : Instr → Option (Fin 768 × Bool × Rounded)
  | .fcvt _ (.wide dt st r hi) d a => some (d, isF64 dt, s.wideConvert x dt st (.ofMod r) hi d a l)
  | .fcvt _ (.pack slot elem draw) d a =>
    let e := slotElem (s.slot x.t slot)
    if e.narrow = true ∧ elem.val < e.perReg then some (d, false, s.packConvert x (s.slot x.t slot) elem draw d a l)
    else none
  | .fcvt _ (.unpack slot elem) d a =>
    let e := slotElem (s.slot x.t slot)
    if e.narrow = true ∧ elem.val < e.perReg then some (d, false, unpackConvert e (s.rd32 x.t x.c a l) elem.val)
    else none
  | .icvt _ (.toFloat dt sg w) r hi d a =>
    let v := s.at x sg w a l
    some (d, isF64 dt, s.intoHalf x dt d l (if hi then 1 else 0)
      (convert (.ofTy dt) (.ofMod r) (.fin (decide (v < 0)) v.natAbs 0)))
  | .icvt _ (.toInt sg w st) r hi d a =>
    some (d, w, roundInt (widthOf w) (loN sg w) (hiN sg w) (s.fval x st a l (if hi && st.half then 1 else 0)) (.ofMod r) .sat)
  | .fslice _ slot d a b c =>
    if slotElem (s.slot x.t slot) = .slice7 then some (d, false,
      sliceOf (slotSlices (s.slot x.t slot)) (FFmt.fp64.value (s.rd64 x.t x.c a l)) (asInt true false (s.rd32 x.t x.c b l))
        (s.rd32 x.t x.c c l))
    else none
  | .dp2h _ bf d a b c =>
    let t : FTy := if bf then .bf16 else .f16
    some (d, false, group .fp32 (FFmt.fp32.value (s.rd32 x.t x.c c l))
      [(s.fval x t a l 0, s.fval x t b l 0), (s.fval x t a l 1, s.fval x t b l 1)] .rne)
  | .dp4 _ f32 slot d a b c =>
    let e := slotElem (s.slot x.t slot)
    if (e == .e5m2 || e == .e4m3 || e == .int8 || e == .e3m2 || e == .e2m3) && f32 == e.fmt.isSome then
      some (d, false, dotProduct f32 e (s.rd32 x.t x.c a l) (s.rd32 x.t x.c b l) (s.rd32 x.t x.c c l))
    else none
  | .dp8 _ f32 slot d a b c =>
    let e := slotElem (s.slot x.t slot)
    if (e == .e2m1 || e == .int4) && f32 == e.fmt.isSome then
      some (d, false, dotProduct f32 e (s.rd32 x.t x.c a l) (s.rd32 x.t x.c b l) (s.rd32 x.t x.c c l))
    else none
  | _ => none

/-- A trap of a class in lanes of the instruction is taken at once and parks them with a report (R229, R231): the class has that
disposition, no lane of the bundle runs the handler or has exited, and what they issued earlier has taken full effect. -/
structure Parks (s : State) (x : Issue) (cls : Nat) : Prop where
  resident : (s.team x.t).status = .resident
  disposition : (s.gridOf x.t).record.disposition cls = 0
  outside : (s.crew x.t x.c).inState Thread.inh = 0
  alive : x.lanes &&& (s.crew x.t x.c).exited = 0
  effected : s.effected x.t x.c x.lanes = true

/-- What a floating-point instruction of one vector destination does when no lane raises an enabled flag: each lane of
Active() gets its result and adds its flags; nothing else changes. -/
def FloatCompletes (spec : State → Issue → Nat → Instr → Option (Fin 768 × Bool × Rounded)) : Prop :=
  ∀ (s : State) (i : Instr) (x : Issue) (d : Fin 768) (w : Bool) (r : Nat → Rounded),
    Runs s i x → (∀ l, spec s x l i = some (d, w, r l)) → s.Quiet x r →
    ∃ cr, exec i s = .next (s.withCrew x cr) ∧ WroteF (s.crew x.t x.c) cr d w x.act r

end Sys2Proof.Machine

open Sys2Proof Sys2Proof.Machine

/-- R117: RoundTo under rne gives the representable value nearest to the exact one, ties to even, and raises inexact exactly
when the two differ (R114). The result is finite exactly below the format's overflow threshold, and else an infinity of the
value's sign. -/
def Obligations.RoundsToNearestEven : Prop :=
  ∀ (t : FTy) (v : FV) (r : ℚ), v.rat = some r →
    let f := vectorFormat t
    let res := f.roundTo v .rne .special
    ((f.value res.code).rat.isSome = true ↔ |r| < f.overflowAt) ∧
    (|r| < f.overflowAt → NearestCode f r res.code) ∧
    (f.overflowAt ≤ |r| → res.code = f.infCode (decide (r < 0))) ∧
    (res.flags.getLsbD 4 = true ↔ (f.value res.code).rat ≠ some r)

/-- R164, R165: of finite operands, fadd, fsub and fmul round their exact sum, difference and product, and fdiv its exact
quotient by a number other than zero, each once: under rne an exact result below the overflow threshold gives the nearest
code, and no other gives a finite one. -/
def Obligations.ArithmeticRoundsExactResult : Prop :=
  ∀ (t : FTy) (a b : FV) (p q : ℚ), a.rat = some p → b.rat = some q →
    let f := vectorFormat t
    let near (r : ℚ) (res : Rounded) : Prop := ((f.value res.code).rat.isSome = true ↔ |r| < f.overflowAt) ∧
      (|r| < f.overflowAt → NearestCode f r res.code)
    near (p + q) (addRounded f .rne a b) ∧ near (p - q) (addRounded f .rne a b.negate) ∧
    near (p * q) (mulRounded f .rne a b) ∧ (q ≠ 0 → near (p / q) (divRounded f .rne a b))

/-- R162, R164 to R166, R168 to R171: floating-point arithmetic and classification. Each lane's flags and traps are judged on
their own (log 18); an approximation whose interval settles no code is free (log 7). R162, R172: the approximations frcp, frsq,
fexp2, flog2, fsin and fcos. R162, R173 to R181: conversions, slices and dot products. R172: frcp of +0 and -0 raises DZ and gives
an infinity of their sign, and of an infinity a zero of its sign (FP32). -/
def Obligations.FloatArithmetic : Prop :=
  (FloatCompletes floatArith) ∧
  (FloatCompletes floatApprox) ∧
  (FloatCompletes floatConvert) ∧
  (∀ neg : Bool,
    approx .rcp false (FFmt.fp32.signBit neg) = ⟨FFmt.fp32.infCode neg, fDZ, false, false⟩ ∧
    approx .rcp false (FFmt.fp32.infCode neg) = ⟨FFmt.fp32.signBit neg, 0, false, false⟩)

/-- R167: where no lane raises an enabled flag, fcmp completes: it writes one predicate and adds the flags in the lanes of
Active(). The answer is that of the real numbers; of an infinity and a number, that of their order; an unordered pair answers
only ne and un, and raises invalid for lt, le, gt and ge, and otherwise only for a signalling NaN. -/
def Obligations.FloatCompare : Prop :=
  ∀ (s : State) (g : Guard) (t : FTy) (c : FCond) (p : Fin 16) (a b : Opnd) (x : Issue),
    Runs s (.fcmp g t c p a b) x →
    let u (l : Nat) := s.fval x t a l 0
    let v (l : Nat) := s.fval x t b l 0
    let r (l : Nat) := compareF c (u l) (v l)
    s.Quiet x r →
    ∃ mid cr ans, exec (.fcmp g t c p a b) s = .next (s.withCrew x cr) ∧ WroteP (s.crew x.t x.c) mid p x.act ans ∧
      ChangedThreads mid cr x.act
        (fun l th => { th with fpflags := th.fpflags ||| (r l).flags.setWidth 32 }) mid.bundle ∧
      ∀ l,
        (∀ y z, (u l).rat = some y → (v l).rat = some z →
          (r l).flags = 0 ∧ (ans l = true ↔ condRel c (y < z) (y = z) (z < y))) ∧
        (∀ y neg, (u l).rat = some y → v l = .inf neg →
          (r l).flags = 0 ∧ (ans l = true ↔ condRel c (neg = false) False (neg = true))) ∧
        (∀ y neg, u l = .inf neg → (v l).rat = some y →
          (r l).flags = 0 ∧ (ans l = true ↔ condRel c (neg = true) False (neg = false))) ∧
        (∀ m n, u l = .inf m → v l = .inf n →
          (r l).flags = 0 ∧ (ans l = true ↔ condRel c (m = true ∧ n = false) (m = n) (m = false ∧ n = true))) ∧
        ((u l).isNan = true ∨ (v l).isNan = true →
          (ans l = true ↔ c = .ne ∨ c = .un) ∧
          ((r l).flags = fNV ↔ (c = .lt ∨ c = .le ∨ c = .gt ∨ c = .ge) ∨ (u l).isSnan = true ∨ (v l).isSnan = true))

/-- R116, R231: a lane that raises an enabled flag under the park-and-report disposition writes nothing and sets no flag; it is
parked at the instruction with the flags in %tinfo, and one record is posted. The other lanes complete. That each lane is judged
on its own is the model's reading (log 18). -/
def Obligations.FloatTrapParksLane : Prop :=
  ∀ (s : State) (i : Instr) (x : Issue) (d : Fin 768) (w : Bool) (r : Nat → Rounded) (l : Nat),
    Runs s i x → (∀ l, floatArith s x l i = some (d, w, r l)) → Parks s x 0 →
    (s.gridOf x.t).fe < s.fes.length →
    l < 16 → l < (s.crew x.t x.c).threads.length → x.act.getLsbD l = true →
    (r l).traps ((s.crew x.t x.c).th l).fptrap = true →
    ∃ u rcd, exec i s = .next u ∧
      (u.crew x.t x.c).th l = { (s.crew x.t x.c).th l with
        state := .parked, parkWhy := .report, pc := x.pc, tcause := 0, tinfo := (r l).info ((s.crew x.t x.c).th l).fptrap,
        late := false, awaits := [], runWait := none } ∧
      (∀ k, (u.crew x.t x.c).v k l = (s.crew x.t x.c).v k l) ∧
      (u.fe (s.gridOf x.t).fe).pending = (s.fe (s.gridOf x.t).fe).pending ++ [rcd] ∧ u.mem = s.mem ∧
      ∀ j, j < 16 → x.act.getLsbD j = true → (r j).traps ((s.crew x.t x.c).th j).fptrap = false →
        if w then (u.crew x.t x.c).v64 d.val j = BitVec.ofNat 64 (r j).code
        else (u.crew x.t x.c).v d.val j = BitVec.ofNat 32 (r j).code

namespace Sys2Proof.Machine

/-! ## Control -/

/-- Targets of bra, brx, call and ret in the lanes of Active() (R63, R64, R185 to R187), whether the loop stack is unwound,
and the pair that call writes. A jump table's index lies below its count. -/
def branchSpec (s : State) (x : Issue) : Instr → Option ((Nat → Word64) × Bool × Option Dst)
  | .bra _ off => some (fun _ => branchTarget x.header off, true, none)
  | .brx _ a off =>
    let im := s.image x.t
    let table := branchTarget x.header off
    if ∀ l ∈ lanesOf x.act, s.rd32 x.t x.c a l < im.tableCount table then
      some (fun l => im.tableTarget table (s.rd32 x.t x.c a l), true, none)
    else none
  | .call _ d off => some (fun _ => branchTarget x.header off, false, some d)
  | .ret _ a => some (fun l => BitVec.ofNat 64 (s.rd64 x.t x.c (dstOpnd a) l), false, none)
  | _ => none

/-- Lanes of the bundle outside Active(). -/
def Issue.outside (x : Issue) : Mask := x.lanes &&& ~~~x.act

/-- A lane that falls through to `p` neither ends a loop body there nor leaves a loop of count 0. -/
def Thread.plainFall (th : Thread) (p : Word64) : Prop :=
  th.loopSkip = none ∧ ∀ e ∈ th.loops.head?, e.stop ≠ p

/-- The address is a clause header at which lanes do not join (R66, R80). -/
def Image.plainHeaderAt (im : Image) (p : Word64) : Prop := im.marked p = true ∧ (im.header p).isJoin = false

/-- Some lane of the mask has a thread. -/
def Crew.hasLane (cr : Crew) (m : Mask) : Prop := ∃ l, l < 16 ∧ l < cr.threads.length ∧ m.getLsbD l = true

/-! ## Traps -/

/-- A thread that is parked for a report at `pc` with a cause and a detail (R228, R231); after a software trap, `late`, its
address is the following word. -/
def Thread.reported (th : Thread) (pc : Word64) (cause tinfo : Word32) (late : Bool := false) : Thread :=
  { th with
    state := .parked, parkWhy := .report, pc := pc, tcause := cause, tinfo := tinfo, late := late, awaits := []
    runWait := none }

/-- A thread that has entered the handler at `h` from `pc` (R234): it is active there or, where the handler's header is a join,
held at it (R80). -/
def Thread.handled (th : Thread) (im : Image) (h pc : Word64) (cause tinfo : Word32) : Thread :=
  let join := im.marked h && (im.header h).isJoin
  { th with
    state := if join then .held else .active
    holdAt := if join then .join else th.holdAt
    joinSet := if join then BitVec.allOnes 16 else th.joinSet
    pc := h, hpc := pc, hloops := th.loops, loops := [], inh := true, tcause := cause, tinfo := tinfo
    awaits := [], runWait := none, hskip := th.loopSkip, loopSkip := none, hlate := false, late := false }

/-- What mts does to a thread, for the registers that hold one value a thread (R203). -/
def specialWrite (s : State) (x : Issue) (a : Opnd) : SpecReg → Option (Nat → Thread → Thread)
  | .fpflags => some fun l th => { th with fpflags := BitVec.ofNat 32 (s.rd32 x.t x.c a l) &&& 31 }
  | .fptrap => some fun l th => { th with fptrap := BitVec.ofNat 32 (s.rd32 x.t x.c a l) &&& 31 }
  | .mflags => some fun l th => { th with mflags := BitVec.ofNat 32 (s.rd32 x.t x.c a l) &&& 63 }
  | _ => none

/-- What park-and-report leaves: the lanes `m` parked, out of the bundle, one record in the front end, nothing else. -/
def Reported (s u : State) (t c : Nat) (m : Mask) (f : Nat → Thread → Thread) : Prop :=
  ∃ cr rcd, ChangedThreads (s.crew t c) cr m f ((s.crew t c).bundle &&& ~~~m) ∧
    u = (s.modCrew t c fun _ => cr).post (s.gridOf t).fe rcd

end Sys2Proof.Machine

open Sys2Proof Sys2Proof.Machine

/-- R185 to R187: each lane of Active() goes to its target, each other lane of the bundle to the next clause; bra and brx
unwind the loop stack, call writes the return address and leaves the stack alone. -/
def Obligations.BranchesTransferLanes : Prop :=
  ∀ (s : State) (i : Instr) (x : Issue) (T : Nat → Word64) (unwind : Bool) (link : Option Dst),
    Runs s i x → branchSpec s x i = some (T, unwind, link) →
    let im := s.image x.t
    let next := im.nextClause x.header
    let old := s.crew x.t x.c
    (∀ l, l < 16 → x.act.getLsbD l = true → im.plainHeaderAt (T l)) →
    (∀ l, l < 16 → x.outside.getLsbD l = true → im.plainHeaderAt next ∧ (old.th l).plainFall next) →
    old.JoinsWait → old.hasLane x.lanes → old.bundle = x.lanes →
    ∃ mid cr, exec i s = .next (s.withCrew x cr) ∧
      (match link with
       | none => mid = old
       | some d => Wrote old mid d true x.act fun _ => next.toNat) ∧
      ChangedThreads mid cr x.lanes
        (fun l th => if x.act.getLsbD l
          then { th with state := .active, pc := T l, loops := if unwind then unwindTo th.loops (T l) else th.loops }
          else { th with state := .active, pc := next }) 0

/-- R85, R188: loop pushes the next clause, the end and the lane's count in each lane of Active() whose count is not 0; a count
of 0 pushes nothing and sends the lane to the end when the clause ends. A push onto a stack of four entries is an illegal
instruction in that lane, with 3 in %tinfo and the stack left as it was. R88, R189: lbrk pops its number of entries. -/
def Obligations.LoopPushesAndPops : Prop :=
  (∀ (s : State) (g : Guard) (a : Opnd) (off : BitVec 20) (x : Issue), Runs s (.loop g a off) x →
    let stop := branchTarget x.header off
    s.badLoop x stop = false → (s.image x.t).marked stop = true →
    (∀ l, l < 16 → x.act.getLsbD l = true → ((s.crew x.t x.c).th l).loops.length < 4) →
    ∃ cr, exec (.loop g a off) s = .next (s.withCrew x cr) ∧
      ChangedThreads (s.crew x.t x.c) cr x.act
        (fun l th => if s.rd32 x.t x.c a l = 0 then { th with loopSkip := some stop }
          else { th with
            loops := ⟨(s.image x.t).nextClause x.header, stop, BitVec.ofNat 32 (s.rd32 x.t x.c a l)⟩ :: th.loops })
        (s.crew x.t x.c).bundle) ∧
  (∀ (s : State) (g : Guard) (a : Opnd) (off : BitVec 20) (x : Issue), Runs s (.loop g a off) x →
    s.badLoop x (branchTarget x.header off) = false → x.act ≠ 0 → Parks s x 3 →
    (∀ l, l < 16 → x.act.getLsbD l = true → s.rd32 x.t x.c a l ≠ 0 ∧ 4 ≤ ((s.crew x.t x.c).th l).loops.length) →
    ∃ u, exec (.loop g a off) s = .next u ∧ Reported s u x.t x.c x.act fun _ th => th.reported x.pc 3 3) ∧
  ∀ (s : State) (g : Guard) (n : Fin 4) (x : Issue), Runs s (.lbrk g n) x →
    ∃ cr, exec (.lbrk g n) s = .next (s.withCrew x cr) ∧
      ChangedThreads (s.crew x.t x.c) cr x.act (fun _ th => { th with loops := th.loops.drop (n.val + 1) })
        (s.crew x.t x.c).bundle

/-- R190: the lanes of Active() that the mask names are held and leave the bundle, and wait while a lane of the set has neither
exited nor arrived; a mask that names none of them has no effect. Threads that came to one join with different sets judge it each
by its own (log 43). R191: exit marks the lanes of Active() exited and empties their loop stacks; the other lanes of the bundle
fall through. Here nobody waits at a barrier or in a convergence set, which an exit could complete. -/
def Obligations.JoinAndExit : Prop :=
  (∀ (s : State) (g : Guard) (a : Opnd) (x : Issue), Runs s (.join g a) x →
    let set := BitVec.ofNat 16 (s.rd32 x.t x.c a (lowestLane x.act))
    (x.act &&& set = 0 → exec (.join g a) s = .next s) ∧
    (x.act &&& set ≠ 0 → ∃ cr, ChangedThreads (s.crew x.t x.c) cr (x.act &&& set)
        (fun _ th => { th with
          state := .held, holdAt := .join, joinSet := set
          awaits := if g.sw then (s.crew x.t x.c).outs.map Outstanding.id else th.awaits })
        ((s.crew x.t x.c).bundle &&& ~~~(x.act &&& set)) ∧
      (cr.JoinsWait → exec (.join g a) s = .next (s.withCrew x cr)))) ∧
  (∀ (s : State) (g : Guard) (x : Issue), Runs s (.exit g) x →
    let next := (s.image x.t).nextClause x.header
    let old := s.crew x.t x.c
    old.bundle = x.lanes →
    (∀ l, l < 16 → x.outside.getLsbD l = true → (s.image x.t).plainHeaderAt next ∧ (old.th l).plainFall next) →
    (∀ tm ∈ s.teams, ∀ br ∈ tm.bars, br.tset = false ∧ br.teamArr = false) →
    (∀ k ∈ (s.team x.t).conv, k.state ≠ .armed) →
    ∃ cr, ChangedThreads old cr x.lanes
        (fun l th => if x.act.getLsbD l then { th with state := .exited, loops := [] }
          else { th with state := .active, pc := next }) 0 ∧
      (cr.JoinsWait → exec (.exit g) s = .next (s.withCrew x cr)))

/-- R201, R202: ldarg reads its bytes of the arguments in ascending order of significance; mfs copies a special register or
wait counter, each lane its own. -/
def Obligations.ArgumentsAndSpecialReads : Prop :=
  (∀ (s : State) (g : Guard) (t : ArgTy) (d : Dst) (off : Fin 128) (x : Issue), Runs s (.ldarg g t d off) x →
    (s.gridOf x.t).record.args.length = 128 → off.val + ArgTy.bytes t ≤ 128 →
    ∃ cr n, exec (.ldarg g t d off) s = .next (s.withCrew x cr) ∧
      Wrote (s.crew x.t x.c) cr d (t == .b64) x.act (fun _ => n) ∧ n < 256 ^ ArgTy.bytes t ∧
      ∀ k, k < ArgTy.bytes t → n / 256 ^ k % 256 = (nth (s.gridOf x.t).record.args (off.val + k)).toNat) ∧
  ∀ (s : State) (g : Guard) (d : Dst) (r : SpecReg) (x : Issue), Runs s (.mfs g d r) x →
    ∃ cr, exec (.mfs g d r) s = .next (s.withCrew x cr) ∧
      Wrote (s.crew x.t x.c) cr d false x.act fun l => (s.special x.t x.c l r).toNat

/-- R203: mts completes for %fpflags and %fptrap, whose bits [4:0] it writes in each lane of Active(), for %mflags, whose bits
[5:0] it writes once no matrix operation is outstanding and until then stalls, and for w6 and w7, which it writes once; a value
above 63 for these is an illegal instruction in the whole bundle. Every other register, w0 to w5 among them, takes the privilege
trap with 0x4F in %tinfo. -/
def Obligations.SpecialWrites : Prop :=
  (∀ (s : State) (g : Guard) (r : SpecReg) (a : Opnd) (x : Issue) (f : Nat → Thread → Thread),
    Runs s (.mts g r a) x → specialWrite s x a r = some f → (r = .mflags → (s.crew x.t x.c).counter 3 = 0) →
    ∃ cr, exec (.mts g r a) s = .next (s.withCrew x cr) ∧
      ChangedThreads (s.crew x.t x.c) cr x.act f (s.crew x.t x.c).bundle) ∧
  (∀ (s : State) (g : Guard) (a : Opnd) (x : Issue), Runs s (.mts g .mflags a) x → x.act ≠ 0 →
    (s.crew x.t x.c).counter 3 ≠ 0 → exec (.mts g .mflags a) s = .next s.stall) ∧
  (∀ (s : State) (g : Guard) (n : Fin 8) (a : Opnd) (x : Issue), Runs s (.mts g (.wctr n) a) x → 6 ≤ n.val →
    (s.rd32 x.t x.c a 0 ≤ 63 → a.uniformSrc = true → exec (.mts g (.wctr n) a) s = .next (if x.act = 0 then s
      else s.withCrew x (if n.val = 6 then { s.crew x.t x.c with w6 := s.rd32 x.t x.c a 0 }
        else { s.crew x.t x.c with w7 := s.rd32 x.t x.c a 0 }))) ∧
    (63 < s.rd32 x.t x.c a 0 → x.lanes ≠ 0 → Parks s x 3 →
      ∃ u, exec (.mts g (.wctr n) a) s = .next u ∧ Reported s u x.t x.c x.lanes fun _ th => th.reported x.pc 3 0)) ∧
  ∀ (s : State) (g : Guard) (r : SpecReg) (a : Opnd) (x : Issue), Runs s (.mts g r a) x → specialWrite s x a r = none →
    (∀ n, r = .wctr n → n.val < 6) → x.act ≠ 0 → Parks s x 4 →
    ∃ u, exec (.mts g r a) s = .next u ∧ Reported s u x.t x.c x.act fun _ th => th.reported x.pc 4 0x4F

/-- R199, R206: nop has no effect; yield and wait.child release the crew's issue, the lanes of the bundle going on at the next
word, and the lanes of wait.child wait for w5 to fall to the bound. -/
def Obligations.HintsAndWaits : Prop :=
  (∀ (s : State) (g : Guard) (x : Issue), Runs s (.nop g) x → exec (.nop g) s = .next s) ∧
  (∀ (s : State) (g : Guard) (x : Issue), Runs s (.yield g) x → x.act = 0 → exec (.yield g) s = .next s) ∧
  (∀ (s : State) (g : Guard) (a : Opnd) (x : Issue), Runs s (.waitChild g a) x → s.rd32 x.t x.c a 0 ≤ 63 → x.act = 0 →
    exec (.waitChild g a) s = .next s) ∧
  ∀ (s : State) (g : Guard) (a : Opnd) (x : Issue),
    let old := s.crew x.t x.c
    let im := s.image x.t
    let wake (th : Thread) : Thread := { th with
      awaits := if g.sw then old.outs.map Outstanding.id else th.awaits, state := .active, pc := x.pc + 8 }
    (∀ l, l < 16 → x.lanes.getLsbD l = true → (old.th l).pc = x.pc) → x.pc + 8 ≠ im.nextClause (im.headerOf x.pc) →
    (im.marked (x.pc + 8) = false) → old.JoinsWait → old.hasLane x.lanes → x.act ≠ 0 →
    (Runs s (.yield g) x → ∃ cr, exec (.yield g) s = .next (s.withCrew x { cr with yielding := x.lanes }) ∧
      ChangedThreads old cr x.lanes
        (fun l th => wake { th with runWait := if x.act.getLsbD l then none else th.runWait }) 0) ∧
    (Runs s (.waitChild g a) x → s.rd32 x.t x.c a 0 ≤ 63 → a.uniformSrc = true → ∃ cr,
      exec (.waitChild g a) s = .next (s.withCrew x cr) ∧
      ChangedThreads old cr x.lanes (fun l th => wake { th with
        runWait := if x.act.getLsbD l then some (.child (s.rd32 x.t x.c a 0)) else th.runWait }) 0)

/-- R204, R205: trap takes its class in each lane of Active() at the following word with SW set; brk parks them at the instruction
whatever the dispositions say; each posts one record. The address in the record of a trap is the model's reading (log 19). -/
def Obligations.SoftwareTrapsAndBreakpoints : Prop :=
  (∀ (s : State) (g : Guard) (cls : Fin 14) (code : BitVec 16) (x : Issue), Runs s (.trap g cls code) x → x.act ≠ 0 →
    Parks s x cls.val →
    ∃ u, exec (.trap g cls code) s = .next u ∧ Reported s u x.t x.c x.act fun _ th =>
      th.reported (x.pc + 8) (BitVec.ofNat 32 (cls.val + 16)) (0x80000000 ||| code.setWidth 32) true) ∧
  ∀ (s : State) (g : Guard) (code : BitVec 16) (x : Issue), Runs s (.brk g code) x → x.act ≠ 0 →
    s.effected x.t x.c x.lanes = true →
    ∃ u, exec (.brk g code) s = .next u ∧ Reported s u x.t x.c x.act fun _ th =>
      { th with state := .parked, parkWhy := .breakpoint, pc := x.pc }

/-- R228, R231, R234: a trap under the handler disposition, but for class 12 (R233), saves the address and the loop stack, sets
INH, writes %tcause and %tinfo, and sends the lanes to the kernel's handler; no record is posted and nothing else changes. R234: a
trap in a lane that runs the handler parks it with one DOUBLE record, whatever the disposition. The separate record of the lanes
inside the handler is the model's reading (log 19). -/
def Obligations.TrapEntry : Prop :=
  (∀ (s : State) (t c : Nat) (cls : Fin 14) (lanes : Mask) (tinfo : Word32),
    s.hasCrew t c → (s.team t).status = .resident → (s.gridOf t).record.disposition cls.val = 1 → cls.val ≠ 12 →
    (s.crew t c).long = none →
    let old := s.crew t c
    let m := lanes &&& old.inState fun th => th.state == .active
    m ≠ 0 → old.inState Thread.inh = 0 →
    ∃ cr, exec (.trapTaken t c cls lanes tinfo) s = .next (s.modCrew t c fun _ => cr) ∧
      ChangedThreads old cr m
        (fun l th => th.handled (s.image t) (s.gridOf t).handlerAt (old.th l).pc (BitVec.ofNat 32 cls.val) tinfo)
        (old.bundle &&& ~~~m)) ∧
  (∀ (s : State) (t c : Nat) (cls : Fin 14) (lanes : Mask) (tinfo : Word32),
    s.hasCrew t c → (s.team t).status = .resident → (s.crew t c).long = none →
    let old := s.crew t c
    let m := lanes &&& old.inState fun th => th.state == .active
    m ≠ 0 → (∀ l, l < 16 → m.getLsbD l = true → (old.th l).inh = true) →
    ∃ cr, exec (.trapTaken t c cls lanes tinfo) s = .next ((s.modCrew t c fun _ => cr).post (s.gridOf t).fe
        (trapRecord (old.th (lowestLane m)).pc tinfo (s.team t).index (s.gridOf t).handle m c cls.val { double := true })) ∧
      ChangedThreads old cr m (fun l th => th.reported (old.th l).pc (BitVec.ofNat 32 cls.val) tinfo)
        (old.bundle &&& ~~~m))

/-- R207, R234: rft in lanes inside the handler gives back the address and the loop stack and clears INH; the lanes leave the
bundle. Here the address stands inside a clause. -/
def Obligations.ReturnFromHandler : Prop :=
  ∀ (s : State) (g : Guard) (x : Issue), Runs s (.rft g) x →
    let old := s.crew x.t x.c
    (∀ l, l < 16 → x.act.getLsbD l = true →
      (old.th l).inh = true ∧ (s.image x.t).inside (old.th l).hpc = true ∧ l < old.threads.length) →
    old.hasLane x.act → old.JoinsWait →
    ∃ cr, exec (.rft g) s = .next (s.withCrew x cr) ∧
      ChangedThreads old cr x.act
        (fun _ th => { th with
          state := .active, pc := th.hpc, loops := th.hloops, loopSkip := th.hskip, inh := false, late := false })
        (old.bundle &&& ~~~x.act)

namespace Sys2Proof.Machine

/-! ## Barriers, cross-lane work, random numbers -/

/-- A thread held at a barrier. -/
def Thread.heldFor (th : Thread) (h : HoldAt) : Prop := th.state = .held ∧ th.holdAt = h

/-- The number of lanes of a mask. -/
def laneCount (m : Mask) : Nat := (lanesOf m).length

/-- Src(A, j, l) of R212. -/
def State.source (s : State) (x : Issue) (w : Bool) (a fill : Opnd) (j : Int) (l : Nat) : Nat :=
  if 0 ≤ j ∧ j < 16 ∧ ((s.crew x.t x.c).th j.toNat).state ≠ .exited then s.bits x.t x.c w a j.toNat
  else s.bits x.t x.c w fill l

/-- Values of A in the lanes of Active() that satisfy `p`, ascending. -/
def State.gathered (s : State) (x : Issue) (a : Opnd) (p : Nat → Bool) : List Nat :=
  ((lanesOf x.act).filter p).map fun l => s.rd32 x.t x.c a l

/-- The integer reduction of a non-empty list, as a 32-bit pattern (R220). -/
def reduceInt (op : ReduxOp) (vs : List Nat) (r : Nat) : Prop :=
  match op with
  | .add _ => r = vs.sum % 2 ^ 32
  | .min sg => r ∈ vs ∧ ∀ v ∈ vs, asInt sg false r ≤ asInt sg false v
  | .max sg => r ∈ vs ∧ ∀ v ∈ vs, asInt sg false v ≤ asInt sg false r
  | .andB => r < 2 ^ 32 ∧ ∀ i, i < 32 → (r.testBit i = true ↔ ∀ v ∈ vs, v.testBit i = true)
  | .orB => r < 2 ^ 32 ∧ ∀ i, i < 32 → (r.testBit i = true ↔ ∃ v ∈ vs, v.testBit i = true)
  | .xorB => r < 2 ^ 32 ∧ ∀ i, i < 32 → (r.testBit i = true ↔ (vs.countP fun v => v.testBit i) % 2 = 1)
  | .fadd => r = (sumGroup (vs.map FFmt.fp32.value)).code
  | .fmax => r = (foldMax vs).code

/-- The operation of redux that a scan takes over its prefix. -/
def ScanOp.redux : ScanOp → ReduxOp
  | .add sg => .add sg
  | .min sg => .min sg
  | .max sg => .max sg
  | .fadd => .fadd

/-- Result of a scan over an empty prefix (R221). -/
def ScanOp.start : ScanOp → Nat
  | .add _ => 0
  | .min sg => if sg then 0x7FFFFFFF else 0xFFFFFFFF
  | .max sg => if sg then 0x80000000 else 0
  | .fadd => 0x80000000

/-- What a crossbar instruction gives lane `l` (R214 to R222). -/
def crossSpec (s : State) (x : Issue) (l r : Nat) : Instr → Prop
  | .bfly _ w _ a b fill => r = s.source x w a fill (((BitVec.ofNat 4 l) ^^^ BitVec.ofNat 4 (s.rd32 x.t x.c b l)).toNat : Nat) l
  | .shfl _ w m _ a b fill => r = s.source x w a fill (match m with
    | .idx => (s.rd32 x.t x.c b l : Int)
    | .up => (l : Int) - s.rd32 x.t x.c b l
    | .down => (l : Int) + s.rd32 x.t x.c b l) l
  | .xbar _ _ a k fill =>
    r < 2 ^ 32 ∧ ∀ i, i < 4 →
      let e := ((nth (s.team x.t).stencils k.val).extractLsb' (32 * l + 8 * i) 8)
      let j := (e.extractLsb' 0 4).toNat
      r / 256 ^ i % 256 = if e.getLsbD 6 = true ∨ ((s.crew x.t x.c).th j).state = .exited
        then s.rd32 x.t x.c fill l / 256 ^ i % 256
        else s.rd32 x.t x.c a j / 256 ^ (e.extractLsb' 4 2).toNat % 256
  | .matchOp _ w _ a => r < 2 ^ 16 ∧ ∀ j, j < 16 → (r.testBit j = true ↔
      x.act.getLsbD j = true ∧ s.bits x.t x.c w a j = s.bits x.t x.c w a l)
  | .redux _ op _ a => reduceInt op (s.gathered x a fun _ => true) r
  | .scan _ op excl _ a =>
    let vs := s.gathered x a fun j => decide (j < l) || (!excl && j == l)
    if vs = [] then r = ScanOp.start op else reduceInt (ScanOp.redux op) vs r
  | _ => False

/-- Destination of a crossbar instruction, and whether it is a pair. -/
def crossDst : Instr → Option (Dst × Bool)
  | .bfly _ w d _ _ _ => some (.v d, w)
  | .shfl _ w _ d _ _ _ => some (.v d, w)
  | .xbar _ d _ _ _ => some (.v d, false)
  | .matchOp _ _ d _ => some (.v d, false)
  | .redux _ _ d _ => some (d, false)
  | .scan _ _ _ d _ => some (.v d, false)
  | _ => none

/-- Flags that a lane of redux or scan adds (R220, R221). -/
def crossFlags (s : State) (x : Issue) (l : Nat) : Instr → Flags5
  | .redux _ op _ a => (reduce op (s.gathered x a fun _ => true)).flags
  | .scan _ op excl _ a => (scanPrefix op (s.gathered x a fun j => decide (j < l) || (!excl && j == l))).flags
  | _ => 0

/-- Whether the instruction sums or compares floating-point numbers. -/
def crossFloat : Instr → Bool
  | .redux _ .fadd _ _ => true
  | .redux _ .fmax _ _ => true
  | .scan _ .fadd _ _ _ => true
  | _ => false

end Sys2Proof.Machine

open Sys2Proof Sys2Proof.Machine

/-- R192, R194, R195: at bar and cbar each lane of Active() is held at the barrier and leaves the bundle; the crew arrives once in a
phase, and the first arrival gives the target. Where the phase does not complete, the arrival stands; where this arrival is the
last and no guard touch is recorded, the next phase begins with no arrival. A crew's arrival is performed once its die's vector
covers its clock (R442). -/
def Obligations.BarrierArrival : Prop :=
  ∀ (s : State) (g : Guard) (x : Issue), x.act ≠ 0 → (s.crew x.t x.c).hasLane x.act → x.c < 64 →
    let bar (u : State) (n : Nat) : Barrier := nth (u.team x.t).bars n
    let live := setBit (s.team x.t).liveCrews x.c
    let arrives (u : State) (h : HoldAt) (n target : Nat) : Prop :=
      (bar u n).arrived = setBit (bar s n).arrived x.c ∧ (bar u n).tset = true ∧ (bar u n).phase = (bar s n).phase ∧
      ((bar s n).arrived.getLsbD x.c = false → (bar u n).target = target) ∧
      (u.crew x.t x.c).bundle = (s.crew x.t x.c).bundle &&& ~~~x.act ∧ u.mem = s.mem ∧
      ∀ l, l < (s.crew x.t x.c).threads.length →
        if x.act.getLsbD l then ((u.crew x.t x.c).th l).heldFor h ∧ ((u.crew x.t x.c).th l).pc = ((s.crew x.t x.c).th l).pc
        else (u.crew x.t x.c).th l = (s.crew x.t x.c).th l
    let completes (u : State) (n : Nat) : Prop :=
      (bar u n).phase = !(bar s n).phase ∧ (bar u n).arrived = 0 ∧ (bar u n).tset = false ∧ u.mem = s.mem
    let undisturbed : Prop := (s.team x.t).guard = none ∧ (s.gridOf x.t).record.disposition 10 ≠ 2 ∧
      (s.gridOf x.t).record.disposition 0 ≠ 2 ∧
      s.imageHere x.t = true ∧ ∀ c, c < (s.team x.t).crews.length → s.clocksHold x.t c = true
    (∀ (sl : Bool) (id : Fin 4) (b : Opnd), Runs s (.bar g sl id b) x →
      let B := s.rd32 x.t x.c b (lowestLane x.act)
      let br := bar s id.val
      let target := if B = 0 then BitVec.popcount live else B
      B ≤ (s.team x.t).crews.length → id.val < (s.team x.t).bars.length → (sl = false ∨ s.sealReady x.t x.c = true) →
      (br.arrived.getLsbD x.c = true ∧ br.tset = true ∧ br.target = B) ∨
        (br.arrived.getLsbD x.c = false ∧ (br.tset = true → br.target = B)) →
      (BitVec.popcount (setBit br.arrived x.c) < target → target ≤ BitVec.popcount (br.arrived ||| live) →
        ∃ u, exec (.bar g sl id b) s = .next u ∧ arrives u (.bar id) id.val B) ∧
      (target ≤ BitVec.popcount (setBit br.arrived x.c) → undisturbed →
        ∃ u, exec (.bar g sl id b) s = .next u ∧ completes u id.val)) ∧
    (Runs s (.cbar g) x → 4 < (s.team x.t).bars.length → (s.team x.t).status = .resident →
      ((bar s 4).arrived.getLsbD x.c = true → (bar s 4).tset = true) →
      ((bar s 4).tset = true → (bar s 4).target = 0) →
      (live &&& ~~~setBit (bar s 4).arrived x.c ≠ 0 →
        ∃ u, exec (.cbar g) s = .next u ∧ arrives u .cohort 4 0) ∧
      (live &&& ~~~setBit (bar s 4).arrived x.c = 0 → s.cohort x.t = [x.t] → undisturbed →
        ∃ u, exec (.cbar g) s = .next u ∧ completes u 4))

/-- R186: a lane of brx whose index is not below the table's count takes the jump-table-index trap with the index in %tinfo, here
under park-and-report, with every lane of the bundle in that case. R188: an ill-placed loop traps every lane of the bundle as an
illegal instruction (R67), here under park-and-report. R207: rft of a lane that runs no handler is an illegal instruction with
reason 4. R193: a B above the team's crew count is an illegal instruction in the active lanes; a target that differs from the
first arrival's is a convergence mismatch in them, and they are not held. Which lanes a trap takes is the model's reading (log
17), and so are the comparison of targets by their values (log 42) and the count of a table outside the image (log 50). -/
def Obligations.ControlTraps : Prop :=
  (∀ (s : State) (g : Guard) (a : Opnd) (off : BitVec 20) (x : Issue),
    Runs s (.brx g a off) x → x.act = x.lanes → x.lanes ≠ 0 → (s.crew x.t x.c).bundle = x.lanes →
    (∀ l, l < 16 → x.act.getLsbD l = true →
      (s.image x.t).tableCount (branchTarget x.header off) ≤ s.rd32 x.t x.c a l) →
    Parks s x 9 → (s.crew x.t x.c).JoinsWait →
    ∃ u, exec (.brx g a off) s = .next u ∧
      Reported s u x.t x.c x.act fun l th => th.reported x.pc 9 (BitVec.ofNat 32 (s.rd32 x.t x.c a l))) ∧
  (∀ (s : State) (g : Guard) (a : Opnd) (off : BitVec 20) (x : Issue), Runs s (.loop g a off) x →
    s.badLoop x (branchTarget x.header off) = true → x.lanes ≠ 0 → Parks s x 3 →
    ∃ u, exec (.loop g a off) s = .next u ∧ Reported s u x.t x.c x.lanes fun _ th => th.reported x.pc 3 0) ∧
  (∀ (s : State) (g : Guard) (x : Issue), Runs s (.rft g) x → x.act ≠ 0 →
    Parks s x 3 → (s.crew x.t x.c).JoinsWait →
    ∃ u, exec (.rft g) s = .next u ∧ Reported s u x.t x.c x.act fun _ th => th.reported x.pc 3 4) ∧
  (∀ (s : State) (g : Guard) (sl : Bool) (id : Fin 4) (b : Opnd) (x : Issue), Runs s (.bar g sl id b) x → x.act ≠ 0 →
    let B := s.rd32 x.t x.c b (lowestLane x.act)
    let br := nth (s.team x.t).bars id.val
    ((s.team x.t).crews.length < B → Parks s x 3 →
      ∃ u, exec (.bar g sl id b) s = .next u ∧ Reported s u x.t x.c x.act fun _ th => th.reported x.pc 3 0) ∧
    (B ≤ (s.team x.t).crews.length → sl = false → br.arrived.getLsbD x.c = false → br.tset = true → br.target ≠ B →
      Parks s x 10 →
      ∃ u, exec (.bar g sl id b) s = .next u ∧
        Reported s u x.t x.c x.act fun _ th => th.reported x.pc 10 (BitVec.ofNat 32 (id.val + 2 ^ 20))))

/-- R211, R212, R214 to R216, R220 to R222: bfly, shfl, xbar, match, redux and scan complete their issue where w4 stands below 63
and, for the floating-point forms of redux and scan, no lane enables a trap: they read their sources, raise w4, add their flags
in the lanes of Active(), and leave their results outstanding for these lanes, or once for a uniform destination. At w4 = 63
they stall, and with no active lane they have no effect. -/
def Obligations.CrossLaneIssue : Prop :=
  ∀ (s : State) (i : Instr) (x : Issue) (d : Dst) (w : Bool), Runs s i x → crossDst i = some (d, w) →
    (x.act = 0 → exec i s = .next s) ∧
    (x.act ≠ 0 → 63 ≤ (s.crew x.t x.c).counter 4 → exec i s = .next s.stall) ∧
    (x.act ≠ 0 → (s.crew x.t x.c).counter 4 < 63 →
      (crossFloat i = true → ∀ l, l < 16 → x.act.getLsbD l = true → ((s.crew x.t x.c).th l).fptrap = 0) →
      ∃ (f : Nat → Nat) (cr : Crew), (∀ l, l < 16 → x.act.getLsbD l = true → crossSpec s x l (f l) i) ∧
        exec i s = .next { s.withCrew x cr with
          nextId := s.nextId + 1
          cross := s.cross ++ [⟨s.nextId, x.t, x.c, d, w, match d with
            | .v _ => (lanesOf x.act).map fun l => (l, BitVec.ofNat 64 (f l))
            | .s _ => [(0, BitVec.ofNat 64 (f (lowestLane x.act)))]⟩] } ∧
        ChangedThreads { s.crew x.t x.c with
            counted := (s.crew x.t x.c).counted ++ [⟨s.nextId, 4, false⟩]
            outs := (s.crew x.t x.c).outs ++ [⟨s.nextId, d.regs (two w), none, 0⟩] } cr x.act
          (fun l th => { th with fpflags := th.fpflags ||| (crossFlags s x l i).setWidth 32 }) (s.crew x.t x.c).bundle)

/-- R211: when a result of the crossbar returns, every lane's value is written, the scoreboard lets its registers go and the
operation is done; the crew's threads keep their state, and its other registers their values. -/
def Obligations.CrossLaneResultWritten : Prop :=
  ∀ (s : State) (op : Nat) (k : CrossOp), s.cross.find? (fun j => j.id == op) = some k → s.hasCrew k.team k.crew →
    (k.vals.map Prod.fst).Nodup → (∀ p ∈ k.vals, p.1 < 16) →
    ∃ cr, exec (.crossLaneCompletion op) s = .next { s.modCrew k.team k.crew fun _ => cr with
        cross := s.cross.filter fun j => j.id != op } ∧
      cr.threads = (s.crew k.team k.crew).threads ∧ (∀ o ∈ cr.outs, o.id ≠ op) ∧
      cr.counted = ((s.crew k.team k.crew).lower op).counted ∧
      match k.d with
      | .v n => (∀ p ∈ k.vals, if k.pair then cr.v64 n.val p.1 = p.2 else cr.v n.val p.1 = p.2.setWidth 32) ∧
          ∀ j l, l < 16 → (j < n.val ∨ n.val + two k.pair ≤ j ∨ ∀ p ∈ k.vals, p.1 ≠ l) →
            cr.v j l = (s.crew k.team k.crew).v j l
      | .s n => (∀ v, k.vals = [(0, v)] → if k.pair then cr.s64 n.val = v else cr.s n.val = v.setWidth 32) ∧
          ∀ j, (j < n.val ∨ n.val + two k.pair ≤ j) → cr.s j = (s.crew k.team k.crew).s j

/-- R219: vote counts the active lanes whose predicate is 1.
R224, R225: rand and rand.next write word 0, or with .x4 words 0 to 3, of the block whose counter is the draw index or the
lane's draw counter, %tid, the team's linear index and the stream with bit 31 clear or set; rand.next then advances the
counters of the lanes of Active() by one, and nothing else touches them. -/
def Obligations.VotesAndRandomBlocks : Prop :=
  (∀ (s : State) (g : Guard) (p : Fin 16) (x : Issue),
      let old := s.crew x.t x.c
      let yes : Mask := x.act &&& old.p p.val
      (∀ d, Runs s (.vote g (.mask d) p) x → ∃ cr, exec (.vote g (.mask d) p) s = .next (s.withCrew x cr) ∧
        Wrote old cr d false x.act fun _ => yes.toNat) ∧
      (∀ d, Runs s (.vote g (.count d) p) x → ∃ cr, exec (.vote g (.count d) p) s = .next (s.withCrew x cr) ∧
        Wrote old cr d false x.act fun _ => laneCount yes) ∧
      (∀ d k, Runs s (.vote g (.quorum d k) p) x → s.rd32 x.t x.c k 0 ≤ 31 →
        let q := if s.rd32 x.t x.c k 0 ≤ 16 then s.rd32 x.t x.c k 0 else laneCount x.act
        ∃ cr, exec (.vote g (.quorum d k) p) s = .next (s.withCrew x cr) ∧
          WroteP old cr d x.act fun _ => decide (q ≤ laneCount yes)) ∧
      ∀ d, Runs s (.vote g (.agree d) p) x → ∃ cr, exec (.vote g (.agree d) p) s = .next (s.withCrew x cr) ∧
        WroteP old cr d x.act fun _ => decide (laneCount yes = 0 ∨ laneCount yes = laneCount x.act)) ∧
  ∀ (s : State) (g : Guard) (k23 x4 : Bool) (d : Fin 768) (b : Opnd) (x : Issue),
      let old := s.crew x.t x.c
      let keys := (s.gridOf x.t).record.keys
      let k := if k23 then 2 else 0
      let n := if x4 then 4 else 1
      let block (draw stream : Word32) (l : Nat) : List Word32 :=
        philox draw (BitVec.ofNat 32 (16 * x.c + l)) (BitVec.ofNat 32 (s.team x.t).index) stream (nth keys k) (nth keys (k + 1))
      let wrote (cr : Crew) (words : Nat → List Word32) : Prop :=
        (∀ l j, l < 16 → j < n → x.act.getLsbD l = true → cr.v (d.val + j) l = (words l).getD j 0) ∧
        ∀ r l, l < 16 → (x.act.getLsbD l = false ∨ r < d.val ∨ d.val + n ≤ r) → cr.v r l = old.v r l
      (∀ a, Runs s (.rand g k23 x4 d a b) x → ∃ cr, exec (.rand g k23 x4 d a b) s = .next (s.withCrew x cr) ∧
        wrote cr (fun l => block (BitVec.ofNat 32 (s.rd32 x.t x.c a l))
          (BitVec.ofNat 32 (s.rd32 x.t x.c b l % 2 ^ 31)) l) ∧ { cr with vregs := old.vregs } = old) ∧
      (Runs s (.randNext g k23 x4 d b) x → ∃ cr, exec (.randNext g k23 x4 d b) s = .next (s.withCrew x cr) ∧
        wrote cr (fun l => block (old.th l).draw (BitVec.ofNat 32 (s.rd32 x.t x.c b l % 2 ^ 31 + 2 ^ 31)) l) ∧
        ChangedThreads old { cr with vregs := old.vregs } x.act (fun _ th => { th with draw := th.draw + 1 }) old.bundle)

namespace Sys2Proof.Machine

/-! ## Memory instructions -/

/-- What a memory instruction asks for (R259 to R267, R197, R217): kind, aperture, bytes, the address that a lane forms, its
datum and second datum, and whether one access stands for all lanes. -/
structure MemAsk where
  kind : MemKind
  aper : Aper
  size : Nat
  addr : Nat → Nat
  data : Nat → Nat
  data2 : Nat → Nat
  once : Bool

def memAsk (s : State) (x : Issue) : Instr → Option MemAsk
  | .ld _ sz ap _ _ d m =>
    some ⟨.ld sz d, ap, MSize.bytes sz, fun l => s.formed x.t x.c ap m.base m.index (m.off.toInt * MSize.bytes sz) l,
      fun _ => 0, fun _ => 0, match d with
        | .s _ => true
        | .v _ => false⟩
  | .st _ sz ap _ _ d m =>
    some ⟨.st sz, ap, MSize.bytes sz, fun l => s.formed x.t x.c ap m.base m.index (m.off.toInt * MSize.bytes sz) l,
      fun l => s.stData x sz d l, fun _ => 0, false⟩
  | .atom _ op t ap _ _ d base b =>
    some ⟨.atom op t (.v d), ap, ATy.bytes t, fun l => s.formed x.t x.c ap base (.con 0) 0 l,
      fun l => (s.atomData x op t b l).1, fun l => (s.atomData x op t b l).2, false⟩
  | .red _ op t ap _ _ base b =>
    some ⟨.red op t, ap, ATy.bytes t, fun l => s.formed x.t x.c ap base (.con 0) 0 l,
      fun l => (s.atomData x op t b l).1, fun l => (s.atomData x op t b l).2, false⟩
  | .stload _ k a => some ⟨.stload k, .generic, 64, fun l => s.rd64 x.t x.c (.s a) l, fun _ => 0, fun _ => 0, true⟩
  | _ => none

/-- A gather or scatter (R264): its kind, aperture and bytes, and the address that element `j` of a lane forms. -/
def elemAsk (s : State) (x : Issue) : Instr → Option (MemKind × Aper × Nat × (Nat → Nat → Nat))
  | .ldx _ sz ap _ d base idx n =>
    some (.ldx sz (n.val + 1) d.val base idx ap, ap, MSize.bytes sz, fun l j => s.formed x.t x.c ap base (dstAt idx j) 0 l)
  | .stx _ sz ap _ d base idx n =>
    some (.stx sz (n.val + 1) d base idx ap, ap, MSize.bytes sz, fun l j => s.formed x.t x.c ap base (dstAt idx j) 0 l)
  | _ => none

/-- An entry of the operand log that an instruction has just taken (R312): its kind and instruction, and the accesses of its
lanes as (number, address, datum, second datum, element). -/
structure Logged (s u : State) (x : Issue) (kind : MemKind) (lanes : List (Nat × Word64 × Word64 × Word64 × Nat)) : Prop where
  entry : ∃ e, u.logEntry s.nextId = some e ∧ e.kind = kind ∧ e.team = x.t ∧ e.crew = x.c ∧ e.core = (s.team x.t).core ∧
    e.pc = x.pc ∧ e.active = x.act ∧ (e.lanes.map fun a => (a.lane, a.addr, a.data, a.data2, a.elem)) = lanes
  regs : (s.crew x.t x.c).vregs = (u.crew x.t x.c).vregs ∧ (s.crew x.t x.c).sregs = (u.crew x.t x.c).sregs ∧
    (s.crew x.t x.c).preds = (u.crew x.t x.c).preds
  mem : u.mem = s.mem
  pads : ∀ t, (u.team t).spad = (s.team t).spad

/-- Lanes that perform an access: the lowest lane of Active() for an instruction performed once (R263). -/
def MemAsk.lanes (r : MemAsk) (x : Issue) : List Nat := if r.once then (lanesOf x.act).take 1 else lanesOf x.act

/-- The registers of a crew are unchanged. -/
def SameRegs (a b : Crew) : Prop := b.vregs = a.vregs ∧ b.sregs = a.sregs ∧ b.preds = a.preds

/-- A fence of order `p` in the log (R269): one access for each lane of Active(), after what the order names of the lane's
accesses, and before what the thread issues later, or for .rel before its later writes. -/
structure FenceEntry (s u : State) (x : Issue) (p : Order) (sc : Scope) (e : LogEntry) : Prop where
  kind : e.kind = .fence
  lanes : e.lanes.map LaneAcc.lane = lanesOf x.act
  order : ∀ a ∈ e.lanes, a.order = p ∧ a.scope = sc
  after : ∀ a ∈ e.lanes, ∀ k ∈ s.log, k.team = x.t → k.crew = x.c → k.posted = false →
    (p ≠ .rel → k.loadOrAtomic = true) → ∀ b ∈ k.lanes,
    k.lanesFor b.lane &&& laneBit a.lane ≠ 0 → b.status.pends = true → b.acc ∈ a.after
  before : ∀ a ∈ e.lanes, a.lane < (s.crew x.t x.c).threads.length →
    if p = .rel then a.acc ∈ ((u.crew x.t x.c).th a.lane).beforeWrites else a.acc ∈ ((u.crew x.t x.c).th a.lane).beforeAll

/-- An access of `e` in lane `a` stands at `p` and nothing holds it back: it is ready, everything that orders it is done
(R280, R283), its release waits for nothing (R442, R467), no ordered grid's map applies (R292) and no staged write of its
thread to its bytes is left (R291). -/
structure MayPerform (s : State) (id lane : Nat) (e : LogEntry) (a : LaneAcc) (p : Place) : Prop where
  entry : s.logEntry id = some e
  acc : e.acc lane = some a
  ready : a.status = .ready p
  free : s.canPerform e a = true
  noWait : s.releaseWait e a p = none
  unmapped : s.mapped e a p = false
  ahead : s.stagedAhead e a p = false
  going : a.parked = false
  here : match p with
    | .phys pa => s.redirect (s.feOf e.team) pa = pa ∧ isPeer pa = false ∧ homeDie pa = e.core / 64
    | .spad t _ => t < s.teams.length
    | .guard _ _ _ => False

/-- Byte `q` of memory, and of a team's scratchpad. -/
def State.byte (s : State) (q : Nat) : Byte := Sparse.get s.mem q

def State.padAt (s : State) (t q : Nat) : Byte := Sparse.get (s.team t).spad q

/-- Every byte of memory and of every scratchpad keeps its value, but `n` bytes at `p` become those of `v` (R4). -/
def Stored (s u : State) (p : Place) (n v : Nat) : Prop :=
  (∀ q, u.byte q = match p with
    | .phys pa => if pa ≤ q ∧ q < pa + n then BitVec.ofNat 8 (v / 256 ^ (q - pa)) else s.byte q
    | _ => s.byte q) ∧
  ∀ t q, u.padAt t q = match p with
    | .spad k o => if t = k ∧ o ≤ q ∧ q < o + n then BitVec.ofNat 8 (v / 256 ^ (q - o)) else s.padAt t q
    | _ => s.padAt t q

/-- The number whose bytes stand at `p`. -/
def State.numberAt (s : State) (p : Place) (n : Nat) : Nat :=
  match p with
  | .phys pa => ofBytes (Sparse.getList s.mem pa n)
  | .spad k o => ofBytes (Sparse.getList (s.team k).spad o n)
  | .guard _ _ _ => 0

/-- The value that an integer atomic leaves (R267), on `8 * n` bits. -/
def atomicResult (op : AOp) (sg : Bool) (n old b c : Nat) : Nat :=
  let read (v : Nat) : Int := if sg then (BitVec.ofNat 32 v).toInt else (v : Int)
  match op with
  | .add => (old + b) % 256 ^ n
  | .min => if read b < read old then b else old
  | .max => if read old < read b then b else old
  | .andB => old &&& b
  | .orB => old ||| b
  | .xorB => old ^^^ b
  | .exch => b
  | .cas => if old = b then c else old
  | .fmaxAbs => if 0x7F800000 < old % 2 ^ 31 ∨ 0x7F800000 < b % 2 ^ 31 then 0x7FC00000 else max (old % 2 ^ 31) (b % 2 ^ 31)
  | .fadd => 0

end Sys2Proof.Machine

open Sys2Proof Sys2Proof.Machine

/-- R260 to R268, R217: a load, store, atomic, reduction or stload whose lanes pass the checks of R260 takes one entry of the
operand log that holds its address and data of each lane, and raises its counter; memory and registers keep their values until
the accesses are performed. A gather or scatter whose every element passes them takes one entry for all its elements, of which
each lane has begun the first. That a lane's access is one step of its own is the model's grain (log 21). -/
def Obligations.MemoryInstructionsIssue : Prop :=
  (∀ (s : State) (i : Instr) (x : Issue) (r : MemAsk) (addr : Nat → Word64) (ctr : Nat),
    Runs s i x → memAsk s x i = some r → x.act ≠ 0 → r.kind.counter = some ctr →
    (∀ l ∈ r.lanes x, s.checkAddr x.t x.c r.aper r.size (r.addr l) l = .ok (addr l)) →
    s.logUsed (s.team x.t).core < 64 → (s.crew x.t x.c).counter ctr < 63 → (∀ e ∈ s.log, e.id < s.nextId) →
    (s.crew x.t x.c).long = none →
    ∃ u, exec i s = .next u ∧ (u.crew x.t x.c).counter ctr = (s.crew x.t x.c).counter ctr + 1 ∧
      Logged s u x r.kind ((r.lanes x).map fun l =>
        (l, addr l, BitVec.ofNat 64 (r.data l), BitVec.ofNat 64 (r.data2 l), 0))) ∧
  ∀ (s : State) (i : Instr) (x : Issue) (k : MemKind) (ap : Aper) (n ctr : Nat) (form : Nat → Nat → Nat)
    (addr : Nat → Nat → Word64),
    Runs s i x → elemAsk s x i = some (k, ap, n, form) → x.act ≠ 0 → k.counter = some ctr →
    (∀ l ∈ lanesOf x.act, ∀ j, j < k.count → s.checkAddr x.t x.c ap n (form l j) l = .ok (addr l j)) →
    (∀ l ∈ lanesOf x.act, ((s.crew x.t x.c).th l).pix = 0) → (s.crew x.t x.c).long = none →
    s.logUsed (s.team x.t).core < 64 → (s.crew x.t x.c).counter ctr < 63 → (∀ e ∈ s.log, e.id < s.nextId) →
    ∃ u, exec i s = .next u ∧ (u.crew x.t x.c).counter ctr = (s.crew x.t x.c).counter ctr + 1 ∧
      Logged s u x k ((lanesOf x.act).flatMap fun l =>
        (List.range k.count).map fun j => (16 * j + l, addr l j, 0, 0, j))

/-- R260: in a load, store, atomic or reduction a misaligned address raises the misalignment trap in its lane before any access,
here with every lane misaligned and under park-and-report, with the low 16 address bits in %tinfo (R227). -/
def Obligations.MisalignedAccessTraps : Prop :=
  ∀ (s : State) (i : Instr) (x : Issue) (r : MemAsk), Runs s i x → memAsk s x i = some r → r.once = false → x.act ≠ 0 →
    (∀ l, l < 16 → x.act.getLsbD l = true → r.addr l % r.size ≠ 0) → Parks s x 5 →
    (s.crew x.t x.c).long = none → (∀ e ∈ s.log, e.id < s.nextId) →
    ∃ u, exec i s = .next u ∧
      Reported s u x.t x.c x.act fun l th => th.reported x.pc 5 (BitVec.ofNat 32 (r.addr l % 65536))

/-- R263: a load from a scratchpad gives each lane its bytes, extended by SIZE; memory, every scratchpad and every other register
keep their values. R255, R278: a load of a line of its own die that the core's read cache does not hold gives what memory holds.
That an access is performed whole is the model's grain (log 21). -/
def Obligations.LoadPerformed : Prop :=
  (∀ (s : State) (id lane : Nat) (e : LogEntry) (a : LaneAcc) (t o : Nat) (sz : MSize) (d : Fin 768),
    MayPerform s id lane e a (.spad t o) → e.kind = .ld sz (.v d) → s.hasCrew e.team e.crew → lane < 16 →
    let n := s.numberAt (.spad t o) (MSize.bytes sz)
    ∃ u, exec (.memoryAccessComplete id lane) s = .next u ∧
      (match sz with
       | .b8 | .b16 | .b32 => ((u.crew e.team e.crew).v d.val lane).toNat = n
       | .s8 => (u.crew e.team e.crew).v d.val lane = (BitVec.ofNat 8 n).signExtend 32
       | .s16 => (u.crew e.team e.crew).v d.val lane = (BitVec.ofNat 16 n).signExtend 32
       | .b64 => ((u.crew e.team e.crew).v64 d.val lane).toNat = n) ∧
      (∀ k l, l < 16 → (l ≠ lane ∨ k < d.val ∨ d.val + two sz.wide ≤ k) →
        (u.crew e.team e.crew).v k l = (s.crew e.team e.crew).v k l) ∧
      (u.crew e.team e.crew).sregs = (s.crew e.team e.crew).sregs ∧
      (u.crew e.team e.crew).preds = (s.crew e.team e.crew).preds ∧ Stored s u (.spad t o) 0 0) ∧
  (∀ (s : State) (id lane : Nat) (e : LogEntry) (a : LaneAcc) (pa : Nat) (d : Fin 768),
    MayPerform s id lane e a (.phys pa) → e.kind = .ld .b32 (.v d) → s.hasCrew e.team e.crew → lane < 16 →
    (∀ r ∈ (s.core e.core).rcache, r.line ∉ linesAt pa 4) →
    ∃ u, exec (.memoryAccessComplete id lane) s = .next u ∧
      ((u.crew e.team e.crew).v d.val lane).toNat = s.numberAt (.phys pa) 4 ∧
      (∀ k l, l < 16 → (l ≠ lane ∨ k ≠ d.val) → (u.crew e.team e.crew).v k l = (s.crew e.team e.crew).v k l) ∧
      Stored s u (.phys pa) 0 0)

/-- R263, R280: when a store is performed, its bytes take the datum in ascending order of significance; every other byte of memory
and of every scratchpad, and every register of its crew, keeps its value.
R267: an integer atomic leaves its result at its address and gives the old value to its lane; a reduction gives nothing. Every
other byte keeps its value. That an access is performed whole, at one event, is the model's grain (log 21). -/
def Obligations.StoreAndAtomicPerformed : Prop :=
  (∀ (s : State) (id lane : Nat) (e : LogEntry) (a : LaneAcc) (p : Place) (sz : MSize),
    MayPerform s id lane e a p → e.kind = .st sz →
    ∃ u, exec (.memoryAccessComplete id lane) s = .next u ∧ Stored s u p (MSize.bytes sz) a.data.toNat ∧
      SameRegs (s.crew e.team e.crew) (u.crew e.team e.crew)) ∧
  (∀ (s : State) (id lane : Nat) (e : LogEntry) (a : LaneAcc) (p : Place) (op : AOp) (t : ATy) (d : Fin 768),
    MayPerform s id lane e a p → (e.kind = .atom op t (.v d) ∨ e.kind = .red op t) → s.hasCrew e.team e.crew →
    lane < 16 → op ≠ .fadd → atomTypes op t = true → a.data.toNat < 256 ^ ATy.bytes t →
    a.data2.toNat < 256 ^ ATy.bytes t →
    let old := s.numberAt p (ATy.bytes t)
    ∃ u, exec (.memoryAccessComplete id lane) s = .next u ∧
      Stored s u p (ATy.bytes t) (atomicResult op (t == .s32) (ATy.bytes t) old a.data.toNat a.data2.toNat) ∧
      (e.kind = .atom op t (.v d) →
        if t.wide then ((u.crew e.team e.crew).v64 d.val lane).toNat = old
        else ((u.crew e.team e.crew).v d.val lane).toNat = old) ∧
      (e.kind = .red op t → SameRegs (s.crew e.team e.crew) (u.crew e.team e.crew)))

/-- R269: a fence with active lanes is logged for each of them, after the accesses of its lane that its order names, and what it
orders comes after it; .ar is .acq and .rel, and .sc is .rel and a part of its own that waits for the loads and holds all that
follows (log 69). Without active lanes it has no effect. R270: a seal is ready when the crew's register
writes have returned and its scratchpad accesses have been performed; it then orders the crew's accesses before later copies and
shows its stores to the engine, and changes nothing else; until then it stalls. That a fence is an entry of each lane in the log
is the model's form (logs 5 and 21). -/
def Obligations.FencesAndSeals : Prop :=
  (∀ (s : State) (g : Guard) (o : Order) (sc : Scope) (x : Issue), Runs s (.fence g o sc) x →
    (x.act = 0 → exec (.fence g o sc) s = .next s) ∧
    (x.act ≠ 0 → ∃ u es, exec (.fence g o sc) s = .next u ∧ u.log = s.log ++ es ∧ u.mem = s.mem ∧
      SameRegs (s.crew x.t x.c) (u.crew x.t x.c) ∧
      List.Forall₂ (fun p e => FenceEntry s u x p (if sc = .none then .dev else sc) e)
        (match o with
          | .ar => [.acq, .rel]
          | .sc => [.rel, .sc]
          | o => [o]) es)) ∧
  ∀ (s : State) (g : Guard) (team : Bool) (x : Issue), Runs s (.sealOp g team) x →
    (x.act = 0 → exec (.sealOp g team) s = .next s) ∧
    (x.act ≠ 0 → s.sealReady x.t x.c = false → exec (.sealOp g team) s = .next s.stall) ∧
    (x.act ≠ 0 → s.sealReady x.t x.c = true → ∃ u after, exec (.sealOp g team) s = .next u ∧
      u.crew x.t x.c = { s.crew x.t x.c with copyAfter := after, stale := [] } ∧
      (∀ n ∈ s.pendingAccs x.t x.c (BitVec.allOnes 16), n ∈ after) ∧
      (∀ k, ∀ w ∈ (u.team k).unsealed, w.team = x.t → w.crew = x.c → w.own = true ∧ (team = true → w.all = true)) ∧
      (∀ t c, (t ≠ x.t ∨ c ≠ x.c) → u.crew t c = s.crew t c) ∧
      (∀ k, { u.team k with crews := (s.team k).crews, unsealed := (s.team k).unsealed } = s.team k) ∧
      { u with teams := s.teams } = s)

/-- R271 to R273: prefetch changes no memory, register, counter or log entry; cinv.all takes one log entry, counted by w1, and
when it is performed the core's read cache is empty; cinv of a line and cwb are logged for the lanes whose address is global; own
has no effect in free mode, and in an ordered grid gives each unclaimed line to the team, or with .shr makes it shared. -/
def Obligations.CacheAndOwnership : Prop :=
  (∀ (s : State) (g : Guard) (near : Bool) (m : MemOp) (x : Issue), Runs s (.prefetch g near m) x →
    ∃ u, exec (.prefetch g near m) s = .next u ∧ u.mem = s.mem ∧ u.teams = s.teams ∧ u.log = s.log ∧ u.grids = s.grids ∧
      u.fes = s.fes) ∧
  (∀ (s : State) (g : Guard) (x : Issue), Runs s (.cinv g none) x →
    (x.act = 0 → exec (.cinv g none) s = .next s) ∧
    (x.act ≠ 0 → (s.crew x.t x.c).counter 1 < 63 → (∀ e ∈ s.log, e.id < s.nextId) →
      ∃ u e, exec (.cinv g none) s = .next u ∧ u.logEntry s.nextId = some e ∧ e.kind = .cinv ∧
        e.lanes.map LaneAcc.lane = [lowestLane x.act] ∧ e.lanes.map LaneAcc.status = [.ready (.guard 0 false 0)] ∧
        (u.crew x.t x.c).counter 1 = (s.crew x.t x.c).counter 1 + 1 ∧ u.mem = s.mem)) ∧
  (∀ (s : State) (id lane : Nat) (e : LogEntry) (a : LaneAcc), s.logEntry id = some e → e.acc lane = some a →
    e.kind = .cinv → a.parked = false → a.status = .ready (.guard 0 false 0) → s.canPerform e a = true →
    ∃ u, exec (.memoryAccessComplete id lane) s = .next u ∧ (u.core e.core).rcache = [] ∧ u.mem = s.mem) ∧
  (∀ (s : State) (g : Guard) (m : MemOp) (x : Issue), let a (l : Nat) := s.formed x.t x.c .generic m.base m.index m.off.toInt l
    x.act ≠ 0 → (∀ l, l < 16 → x.act.getLsbD l = true → globalAddr (a l) = true ∧ a l < 2 ^ 56) →
    (s.crew x.t x.c).counter 1 < 63 → (∀ e ∈ s.log, e.id < s.nextId) →
    (Runs s (.cinv g (some m)) x → ∃ u e, exec (.cinv g (some m)) s = .next u ∧ u.logEntry s.nextId = some e ∧
      e.kind = .cinv ∧ (e.lanes.map fun k => (k.lane, k.addr.toNat)) = (lanesOf x.act).map (fun l => (l, a l)) ∧
      u.mem = s.mem) ∧
    (Runs s (.cwb g m) x → ∃ u e, exec (.cwb g m) s = .next u ∧ u.logEntry s.nextId = some e ∧
      e.kind = .cwb ∧ (e.lanes.map fun k => (k.lane, k.addr.toNat)) = (lanesOf x.act).map (fun l => (l, a l)) ∧
      u.mem = s.mem)) ∧
  ∀ (s : State) (g : Guard) (shr : Bool) (a : Fin 128) (b : Opnd) (x : Issue), Runs s (.own g shr a b) x →
    s.rd32 x.t x.c b 0 ≤ 65536 → windowInfo (s.rd64 x.t x.c (.s a) 0) = none →
    ((s.gridOf x.t).record.ord = false → exec (.own g shr a b) s = .next s) ∧
    ((s.gridOf x.t).record.ord = true → s.mapPending x.t s.nextAcc = false → x.act ≠ 0 → (s.team x.t).grid < s.grids.length →
      ∃ u, exec (.own g shr a b) s = .next u ∧ u.mem = s.mem ∧ u.teams = s.teams ∧
        ∀ k, k < s.rd32 x.t x.c b 0 →
          lineOwner (s.gridOf x.t).owners (s.rd64 x.t x.c (.s a) 0 / 128 + k) = none →
          lineOwner (u.gridOf x.t).owners (s.rd64 x.t x.c (.s a) 0 / 128 + k) =
            some (if shr then .shared else .team (s.team x.t).index))

namespace Sys2Proof.Machine

/-! ## System instructions, launches and the events of the memory engine -/

/-- The privileged instructions (R62). -/
def isPrivileged : Instr → Bool
  | .ctxsave _ _ _ | .ctxload _ _ _ | .accsw _ | .hlt _ => true
  | _ => false

/-- A lane's access in the operand log. -/
def State.accOf (s : State) (id lane : Nat) : Option LaneAcc := (s.logEntry id).bind fun e => e.acc lane

/-- An entry and its lane's access with a status, the lane not parked. -/
structure Waits (s : State) (id lane : Nat) (e : LogEntry) (a : LaneAcc) : Prop where
  entry : s.logEntry id = some e
  acc : e.acc lane = some a
  going : a.parked = false
  known : s.hasCrew e.team e.crew

/-- A device-physical address that stands in memory of the die that a core belongs to. -/
def State.ownDie (s : State) (e : LogEntry) (pa : Nat) : Prop :=
  s.redirect (s.feOf e.team) pa = pa ∧ isPeer pa = false ∧ homeDie pa = e.core / 64

/-- The lanes of the bundle stand at `x.pc`, and the next word lies in the same clause. -/
structure NextWord (s : State) (x : Issue) : Prop where
  at_ : ∀ l, l < 16 → x.lanes.getLsbD l = true → ((s.crew x.t x.c).th l).pc = x.pc
  within : x.pc + 8 ≠ (s.image x.t).nextClause ((s.image x.t).headerOf x.pc)
  plain : (s.image x.t).marked (x.pc + 8) = false
  joins : (s.crew x.t x.c).JoinsWait
  lanes : (s.crew x.t x.c).hasLane x.lanes

/-- The crew's issue is released (R77): every lane of the bundle goes on at the next word, those of Active() with a wait. -/
def ReleasedWith (s : State) (x : Issue) (sw : Bool) (cr : Crew) (w : Thread → RunWait) : Prop :=
  ChangedThreads (s.crew x.t x.c) cr x.lanes (fun l th => { th with
    runWait := if x.act.getLsbD l then some (w th) else th.runWait
    awaits := if sw then (s.crew x.t x.c).outs.map Outstanding.id else th.awaits
    state := .active
    pc := x.pc + 8 }) 0

/-- The same with one wait for all. -/
def Released (s : State) (x : Issue) (sw : Bool) (cr : Crew) (w : RunWait) : Prop := ReleasedWith s x sw cr fun _ => w

end Sys2Proof.Machine

open Sys2Proof Sys2Proof.Machine

/-- R62, R208: outside firmware kernels the privileged instructions take the privilege trap, here under park-and-report; in
firmware hlt stops the core's issue, accsw flips the bank selector, ctxload brings a saved team to the core and ctxsave saves
another team and writes the issuing team's own context, which goes on. How a firmware grid is known, and what the operands of
ctxload and ctxsave name, are the model's readings (logs 39 and 26). -/
def Obligations.PrivilegedInstructions : Prop :=
  (∀ (s : State) (i : Instr) (x : Issue), Runs s i x → isPrivileged i = true → x.act ≠ 0 →
    (s.gridOf x.t).origin ≠ .firmware → Parks s x 4 →
    ∃ u, exec i s = .next u ∧ Reported s u x.t x.c x.act fun _ th => th.reported x.pc 4 0x7E) ∧
  ∀ (s : State) (x : Issue), x.act ≠ 0 → (s.gridOf x.t).origin = .firmware →
    (∀ g, Runs s (.hlt g) x →
      exec (.hlt g) s = .next (s.modCore (s.team x.t).core fun c => { c with halted := true })) ∧
    (∀ g, Runs s (.accsw g) x →
      exec (.accsw g) s = .next (s.modCore (s.team x.t).core fun c => { c with bank := 1 - c.bank })) ∧
    (∀ g a b, Runs s (.ctxload g a b) x →
      let t := s.rd32 x.t x.c b (lowestLane x.act)
      let core := (s.team x.t).core
      ∀ w, t < s.teams.length → t ≠ x.t → (s.team t).status = .saved → (s.gridOf t).record.coop = false →
      s.backUnitOf t = some w → w.members = [(t, (s.team t).index)] → (s.placeUnit w core).isSome = true →
      ∃ u, exec (.ctxload g a b) s = .next u ∧ (u.team t).status = .resident ∧ (u.team t).core = core ∧
        ∀ k, k ≠ t → (u.team k).status = (s.team k).status) ∧
    (∀ g a b, Runs s (.ctxsave g a b) x → s.rd32 x.t x.c b (lowestLane x.act) = x.t →
      ∃ u, exec (.ctxsave g a b) s = .next u ∧ u.teams = s.teams) ∧
    (∀ g a b, Runs s (.ctxsave g a b) x →
      let t := s.rd32 x.t x.c b (lowestLane x.act)
      let at_ := s.rd64 x.t x.c (dstOpnd a) (lowestLane x.act)
      t < s.teams.length → t ≠ x.t → (s.team t).status = .resident →
      (∀ k, k < s.teams.length → k ≠ t → s.takesAlong t k = false) →
      (s.modTeam t fun tm => { tm with saveAt := at_, saving := true }).saveReady t = true →
      (∀ e ∈ s.log, e.team ≠ t) → (∀ k ∈ s.copies, k.team ≠ t) → (∀ m ∈ s.mops, m.team ≠ t) →
      (∀ k ∈ s.tasks, k.team ≠ t) → (∀ c, (s.crew t c).long = none) →
      ∃ u, exec (.ctxsave g a b) s = .next u ∧ (u.team t).status = .saved ∧ (u.team t).saveAt = at_ ∧
        ∀ k, k ≠ t → u.team k = s.team k)

/-- R71, R197: a launch whose lanes have readable addresses takes one log entry with each lane's and raises w5 once a lane, and its
bundle goes on; at depth 9 it raises nothing, its bundle waits at it, and each lane takes the nesting-depth trap once its record
has been read. A record that stands becomes a child grid whose handle goes to D, a record that does not gives 0 and no grid. The
handle is a free value (log 8). -/
def Obligations.LaunchIssueAndAnswer : Prop :=
  (∀ (s : State) (g : Guard) (d a : Dst) (x : Issue) (addr : Nat → Word64), Runs s (.launch g d a) x → x.act ≠ 0 →
    (∀ l ∈ lanesOf x.act, s.checkAddr x.t x.c .generic 256 (s.rd64 x.t x.c (dstOpnd a) l) l = .ok (addr l)) →
    (s.crew x.t x.c).long = none → s.logUsed (s.team x.t).core < 64 → (∀ e ∈ s.log, e.id < s.nextId) →
    let depth := (s.gridOf x.t).record.depth
    (s.crew x.t x.c).counter 5 + (lanesOf x.act).length ≤ 63 →
    ∃ u e, exec (.launch g d a) s = .next u ∧ u.logEntry s.nextId = some e ∧ e.kind = .launch d ∧
      (e.lanes.map fun k => (k.lane, k.addr)) = ((lanesOf x.act).map fun l => (l, addr l)) ∧
      (u.crew x.t x.c).counter 5 = (s.crew x.t x.c).counter 5 + (if depth = 9 then 0 else (lanesOf x.act).length) ∧
      (depth = 9 → (u.crew x.t x.c).bundle &&& x.act ≠ 0 →
        (u.crew x.t x.c).long = some s.nextId ∧ u.cur = s.stall.cur) ∧
      SameRegs (s.crew x.t x.c) (u.crew x.t x.c) ∧ u.mem = s.mem ∧ u.grids = s.grids) ∧
  ∀ (s : State) (id lane : Nat) (e : LogEntry) (a : LaneAcc) (p : Place),
    Waits s id lane e a → a.status = .ready p → s.launchReady e a = true → s.releaseWait e a p = none → lane < 16 →
    s.recordShared e a p = (false, s) → s.hasCrew e.team e.crew →
    (s.team e.team).status = .resident →
    (match p with
     | .phys pa => s.ownDie e pa
     | _ => True) →
    ((s.gridOf e.team).record.depth = 9 → e.uniform = false → (s.gridOf e.team).record.disposition 8 = 0 →
      (s.crew e.team e.crew).inState Thread.inh = 0 → lane < (s.crew e.team e.crew).threads.length →
      ((s.crew e.team e.crew).th lane).state ≠ .exited → s.earlierDone e a = true →
      (∀ b ∈ e.lanes, b = a ∨ (b.lane ≠ lane ∧ b.status = .done)) →
      ∃ u, exec (.launchStatusReturn id lane) s = .next u ∧ u.grids = s.grids ∧ u.mem = s.mem ∧
        (u.crew e.team e.crew).th lane = ((s.crew e.team e.crew).th lane).reported e.pc 8 9) ∧
    ∀ d : Fin 768, e.kind = .launch (.v d) → (s.gridOf e.team).record.ord = false → (s.gridOf e.team).record.depth ≠ 9 →
      (s.team e.team).grid < s.grids.length →
      let read := (s.orderAt e a).readRecord e a p
      let r := read.2.childRecord e.team read.1
      let answer := read.2.validate (s.feOf e.team) .frontEnd r false (s.gridOf e.team).curves.length
        (s.gridOf e.team).bmaps.length
      (∀ n, answer = .fine n →
        ∃ u, exec (.launchStatusReturn id lane) s = .next u ∧ u.grids.length = s.grids.length + 1 ∧
          (u.grid s.grids.length).record = r.cap (s.gridOf e.team).record.prio ∧ (u.grid s.grids.length).needs = n ∧
          (u.grid s.grids.length).origin = .child e.team e.crew a.data2.toNat ∧
          (u.gridOf e.team).children = (s.gridOf e.team).children + 1 ∧ (u.team e.team).escaped = true ∧
          (u.crew e.team e.crew).v d.val lane = (u.grid s.grids.length).handle) ∧
      (∀ c, answer = .malformed c →
        ∃ u, exec (.launchStatusReturn id lane) s = .next u ∧ u.grids = s.grids ∧
          (u.crew e.team e.crew).v d.val lane = 0)

/-- R16, R250, R295, R298, R297, R442, R467: what ends the wait of an access: the presence bit of its line, the vector that covers
the crew's clock, the reads on the crew's ports, a free place of the ordered-atomic buffer, the turn of a load of a shared line;
and the release of the head team's oldest entry, which is performed at its own die or exported to its home. The waits at issue and
in the log are the model's form (logs 3 and 20). R439, R440: a home performs a die's oldest export, and P covers every export
before the oldest outstanding one; an announcement carries P to the other dies and is taken when it lowers nothing and does not
pass the sender's P. -/
def Obligations.WaitsExportsClocks : Prop :=
  ((∀ (s : State) (team line : Nat), (s.team team).absent.contains line = false →
    ∃ u, exec (.presenceRelease team line) s = .next u ∧ { u with log := s.log } = s ∧
      ∀ id lane e a o, s.logEntry id = some e → e.acc lane = some a → a.status = .presence team o →
        line ∈ linesAt o e.kind.bytes → (∀ k ∈ linesAt o e.kind.bytes, k ∉ (s.team team).absent) →
        u.accOf id lane = some { a with status := .ready (.spad team o) }) ∧
  (∀ (s : State) (id lane : Nat) (e : LogEntry) (a : LaneAcc) (p : Place), Waits s id lane e a →
    (a.status = .clock p →
      (s.clocksHold e.team e.crew = true → ∃ u, exec (.releaseClockWaitEnd id lane) s = .next u ∧
        u.accOf id lane = some { a with status := .ready p } ∧ u.teams = s.teams ∧ u.mem = s.mem) ∧
      (s.clocksHold e.team e.crew = false → exec (.releaseClockWaitEnd id lane) s = .next s)) ∧
    (a.status = .hostRead p → ∃ u, exec (.zeroLengthReadCompletion id lane) s = .next u ∧
      u.accOf id lane = some { a with status := .ready p } ∧ (u.crew e.team e.crew).ports = [] ∧ u.mem = s.mem) ∧
    (∀ n sz, a.status = .stageWait n p → e.kind = .st sz → (s.team e.team).status = .resident → lane < 16 →
      s.entryTaken e.core e.team n = false → s.bufferFull e.core e.team n = false →
      ∃ u k, exec (.stageEntryWaitEnd id lane) s = .next u ∧ (u.team e.team).staged = (s.team e.team).staged ++ [k] ∧
        k.kind = .store ∧ k.addr = a.addr ∧ k.data = a.data ∧ k.lane = a.lane ∧ k.seq = (s.team e.team).seqNext ∧
        u.mem = s.mem) ∧
    (∀ pa d, a.status = .ordered (.phys pa) → e.kind = .ld .b32 (.v d) → s.loadReady e a = true → s.ownDie e pa →
      s.onShared e a (.phys pa) = true → lane < 16 →
      ∃ u, exec (.stagedLoadComplete id lane) s = .next u ∧
        ((u.crew e.team e.crew).v d.val lane).toNat = s.numberAt (.phys pa) 4 ∧ u.mem = s.mem)) ∧
  ∀ (s : State) (g t pa : Nat) (k : Staged) (r : List Staged), s.headTeam g = some t → s.releaseDue t = true →
    (s.team t).staged = k :: r → k.kind = .store →
    s.walkRefused (s.dieOf t) (s.feOf t) (s.team t).core k.addr.toNat true (.plumb t) = false →
    (s.walk (s.dieOf t) (s.feOf t) (s.team t).core k.addr.toNat true (.plumb t)).1 = some pa →
    s.redirect (s.feOf t) pa = pa → isPeer pa = false → (k.sys = false ∨ (s.crew t k.crew).ports = []) →
    (∀ e ∈ s.log, e.id < s.nextId) →
    ∃ u, exec (.plumbRelease g) s = .next u ∧ (u.team t).staged = r ∧
      (homeDie pa = (s.team t).core / 64 → Stored s u (.phys pa) (MSize.bytes k.size) k.data.toNat) ∧
      (homeDie pa ≠ (s.team t).core / 64 → u.mem = s.mem ∧ ∃ e ∈ u.log, e.id = s.nextId ∧ e.kind = .st k.size ∧
        e.lanes.map (fun a => (a.data, a.status)) =
          [(k.data, .exported ((s.die ((s.team t).core / 64)).exports + 1).toNat (homeDie pa) (.phys pa))])) ∧
  ((∀ (s : State) (die home : Nat) (e : LogEntry) (a : LaneAcc) (pa : Nat) (sz : MSize),
    s.oldestExport die home = some (e, a, .phys pa) → Waits s e.id a.lane e a → e.kind = .st sz → die < s.dies.length →
    die < (s.die die).vector.length →
    ∃ u, exec (.exportPerformed die home) s = .next u ∧ Stored s u (.phys pa) (MSize.bytes sz) a.data.toNat ∧
      nth (u.die die).vector die = (u.die die).performed ∧
      (u.exportsOut die = [] → (u.die die).performed = (u.die die).exports) ∧
      ∀ n ∈ u.exportsOut die, 0 < n → (u.die die).performed.toNat < n) ∧
  (∀ (s : State) (die : Nat), ∃ u, exec (.clockAnnouncement die) s = .next u ∧ { u with agenda := s.agenda } = s ∧
    ∀ j, j < 4 → j ≠ die → Instr.announcementReceived j die (s.die die).performed ∈ u.agenda) ∧
  ∀ (s : State) (die src : Nat) (value : Word64),
    ((nth (s.die die).vector src).toNat ≤ value.toNat → value.toNat ≤ (s.die src).performed.toNat →
      die < s.dies.length → src < (s.die die).vector.length →
      ∃ u, exec (.announcementReceived die src value) s = .next u ∧ nth (u.die die).vector src = value ∧
        (∀ j, j ≠ src → nth (u.die die).vector j = nth (s.die die).vector j) ∧ ∀ d, d ≠ die → u.die d = s.die d) ∧
    ((value.toNat < (nth (s.die die).vector src).toNat ∨ (s.die src).performed.toNat < value.toNat) →
      exec (.announcementReceived die src value) s = .next s))

/-- R326, R327: tdset, tdmov, tdmov.base and tdmov.add write one tile register of the team and nothing else, tdmov.get eight
uniform registers.
R328 to R330: ringadv.init makes a ring of N stages, ringadv claims the producer's stage and toggles its phase,
ringadv.cons frees the consumer's stage, ringwait releases the crew's issue until the stage shows the phase; N outside 2 to
16 is an illegal instruction. -/
def Obligations.DescriptorsAndRings : Prop :=
  (∀ (s : State) (g : Guard) (x : Issue), x.act ≠ 0 →
    let put (d : Fin 16) (w : BitVec 256) : State :=
      s.modTeam x.t fun tm => { tm with tregs := upd tm.tregs d.val fun _ => w }
    (∀ d a, Runs s (.tdset g d a) x → s.sealHit x [.tile d.val] = none → ∀ w : BitVec 256,
      (∀ i, i < 8 → w.extractLsb' (32 * i) 32 = (s.crew x.t x.c).s (a.val + i)) →
      (Desc.of w).reserved = false → (Desc.of w).sparse < 2 → (Desc.of w).rows ≠ 0 → (Desc.of w).cols ≠ 0 →
      exec (.tdset g d a) s = .next (put d w)) ∧
    (∀ d a, Runs s (.tdmov g d a) x → s.sealHit x [.tile d.val] = none →
      exec (.tdmov g d a) s = .next (put d (s.tile x.t a.val))) ∧
    (∀ d a, Runs s (.tdmovGet g d a) x →
      ∃ cr, exec (.tdmovGet g d a) s = .next (s.withCrew x cr) ∧
        (∀ i, i < 8 → cr.s (d.val + i) = (s.tile x.t a.val).extractLsb' (32 * i) 32) ∧
        (∀ k, k < d.val ∨ d.val + 8 ≤ k → cr.s k = (s.crew x.t x.c).s k) ∧
        { cr with sregs := (s.crew x.t x.c).sregs } = s.crew x.t x.c) ∧
    (∀ d a, Runs s (.tdmovBase g d a) x → s.sealHit x [.tile d.val] = none → s.rd64 x.t x.c (.s a) 0 < 2 ^ 56 →
      ∃ w, exec (.tdmovBase g d a) s = .next (put d w) ∧ (w.extractLsb' 0 56).toNat = s.rd64 x.t x.c (.s a) 0 ∧
        w.extractLsb' 56 200 = (s.tile x.t d.val).extractLsb' 56 200) ∧
    (∀ d a, Runs s (.tdmovAdd g d a) x → s.sealHit x [.tile d.val] = none →
      ∃ w, exec (.tdmovAdd g d a) s = .next (put d w) ∧
        w.extractLsb' 0 56 = (s.tile x.t d.val).extractLsb' 0 56 + (BitVec.ofNat 32 (s.rd32 x.t x.c a 0)).signExtend 56 ∧
        w.extractLsb' 56 200 = (s.tile x.t d.val).extractLsb' 56 200)) ∧
  (∀ (s : State) (g : Guard) (r : Fin 16) (x : Issue), x.act ≠ 0 →
    let k := nth (s.team x.t).rings r.val
    let put (s : State) (q : Ring) : State := s.modTeam x.t fun tm => { tm with rings := upd tm.rings r.val fun _ => q }
    (∀ a, Runs s (.ringadvInit g r a) x →
      let n := s.rd32 x.t x.c a 0
      (2 ≤ n → n ≤ 16 → (k.stages = 0 ∨ k.stages + 1 ≤ k.free) →
        exec (.ringadvInit g r a) s = .next (put s { ph := 0, cons := 0, prod := 0, free := n, stages := n - 1 })) ∧
      ((n < 2 ∨ 16 < n) → Parks s x 3 →
        ∃ u, exec (.ringadvInit g r a) s = .next u ∧ Reported s u x.t x.c x.lanes fun _ th => th.reported x.pc 3 0)) ∧
    (Runs s (.ringadv g r) x → k.stages ≠ 0 → k.free ≠ 0 → s.sealReady x.t x.c = true →
      r.val < (s.team x.t).rings.length →
      ∃ u, exec (.ringadv g r) s = .next u ∧ u.mem = s.mem ∧ SameRegs (s.crew x.t x.c) (u.crew x.t x.c) ∧
        nth (u.team x.t).rings r.val = { k with
          prod := (k.prod + 1) % (k.stages + 1), free := k.free - 1, ph := k.ph ^^^ ((1 : BitVec 16) <<< k.prod) } ∧
        ∀ j, j ≠ r.val → nth (u.team x.t).rings j = nth (s.team x.t).rings j) ∧
    (Runs s (.ringadvCons g r) x → k.stages ≠ 0 → k.free ≠ k.stages + 1 → s.consReady x.t x.c r = true →
      ∃ notes, exec (.ringadvCons g r) s = .next
        ((put s { k with cons := (k.cons + 1) % (k.stages + 1), free := k.free + 1 }).modTeam x.t fun tm =>
          { tm with notes := notes })) ∧
    (∀ ph, Runs s (.ringwait g r ph) x → k.stages ≠ 0 → NextWord s x →
      ∃ cr, exec (.ringwait g r ph) s = .next (s.withCrew x cr) ∧ Released s x g.sw cr (.ring r ph)))

namespace Sys2Proof.Machine

/-! ## Copies and matrix operations -/

/-- A copy of a number. -/
def State.copyOf (s : State) (id : Nat) : Option Copy := s.copies.find? fun c => c.id == id

/-- A team is killed (R235): it waits to be placed again or is dead, and nothing of it is left in the matrix engine. -/
def Killed (s u : State) (t : Nat) : Prop :=
  ((u.team t).status = .waiting ∨ (u.team t).status = .dead) ∧ (u.team t).kills = (s.team t).kills + 1 ∧
    (∀ m ∈ u.mops, m.team ≠ t) ∧ ∀ e ∈ u.log, e.team = t → e.posted = true

/-- What an instruction of R367 to R371, R388 or R391 arms, and the conditions that its own rules set. -/
def armSpec (s : State) (x : Issue) : Instr → Option (Fin 8 × MKind × Prop)
  | .mma _ f32 fa fb d a b sct cv =>
    let wa := s.slot x.t fa
    let wb := s.slot x.t fb
    some (cv, .mma false f32 d.val a.val b.val fa fb sct.val,
      mmaSlots false f32 (slotScaled wa) (slotScaled wb) (slotElem wa) (slotElem wb) = true ∧
        (if slotScaled wa then sct.val ≤ 14 else sct.val = 0) ∧ s.fp32Tiles x.t d.val 4 = true)
  | .mmaSp _ f32 fa fb d a b sct cv =>
    let wa := s.slot x.t fa
    let wb := s.slot x.t fb
    some (cv, .mma true f32 d.val a.val b.val fa fb sct.val,
      mmaSlots true f32 (slotScaled wa) (slotScaled wb) (slotElem wa) (slotElem wb) = true ∧
        (if slotScaled wa then sct.val ≤ 14 else sct.val = 0) ∧ s.fp32Tiles x.t d.val 4 = true)
  | .mmaw _ slot d a b m cv =>
    some (cv, .mmaw d.val a.val b.val slot m.val,
      slotElem (s.slot x.t slot) = .slice7 ∧ 2 ≤ m.val ∧ m.val ≤ slotSlices (s.slot x.t slot) + 1 ∧ d.val % 16 = 0 ∧
        d.val + 16 ≤ 4 * (s.gridOf x.t).needs.wblocks)
  | .mmaDn _ fin slot d a b sct cv =>
    some (cv, .dn d.val a.val b.val slot sct.val fin,
      s.dnReady x.t slot = true ∧ (if slotScaled (s.slot x.t slot) then sct.val ≤ 14 else sct.val = 0) ∧
        s.fp32Tiles x.t d.val (4 + 4 * (nth (s.team x.t).dnslots slot.val).nb) = true)
  | .mmaDnb _ db slot d frag t sct cv =>
    let n := 4 + 4 * (nth (s.team x.t).dnslots slot.val).nb
    some (cv, .dnb db d.val frag.val t.val slot sct.val,
      s.dnReady x.t slot = true ∧ (if slotScaled (s.slot x.t slot) then sct.val ≤ 14 else sct.val = 0) ∧
        s.fp32Tiles x.t d.val 4 = true ∧ s.fp32Tiles x.t t.val n = true ∧ (t.val + n ≤ d.val ∨ d.val + 4 ≤ t.val))
  | _ => none

/-- What a direct operation hands to the engine, the tiles that it reads, and the conditions that its own rules set (R372
to R377, R385, R392). -/
def directSpec (s : State) (x : Issue) : Instr → Option (MKind × List Nat × Prop)
  | .acclr _ d a =>
    let n := s.rd32 x.t x.c a (lowestLane x.act)
    some (.acclr d.val n, [],
      0 < n ∧ d.val + n ≤ (s.gridOf x.t).needs.atiles ∧ n ≤ 256 ∧ splitsWide (s.gridOf x.t).needs.wblocks d.val n = false)
  | .accld _ d t =>
    some (.accld d.val (s.tile x.t t.val), [],
      s.fp32Tiles x.t d.val 1 = true ∧ (Desc.of (s.tile x.t t.val)).sparse = 0 ∧ (Desc.of (s.tile x.t t.val)).rows = 32 ∧
        (Desc.of (s.tile x.t t.val)).cols = 32 ∧ s.descElem x.t (Desc.of (s.tile x.t t.val)) = .fp32 ∧
        (Desc.of (s.tile x.t t.val)).shapeOk .fp32 = true ∧ s.tensorTrap t.val x = none)
  | .accst _ t a =>
    some (.accst (s.tile x.t t.val) a.val, [a.val],
      s.fp32Tiles x.t a.val 1 = true ∧ (Desc.of (s.tile x.t t.val)).sparse = 0 ∧ (Desc.of (s.tile x.t t.val)).rows = 32 ∧
        (Desc.of (s.tile x.t t.val)).cols = 32 ∧ s.descElem x.t (Desc.of (s.tile x.t t.val)) = .fp32 ∧
        (Desc.of (s.tile x.t t.val)).shapeOk .fp32 = true ∧ s.tensorTrap t.val x = none)
  | .accrd _ d a h => some (.accrd d.val a.val (if h then 1 else 0), [a.val], s.fp32Tiles x.t a.val 1 = true)
  | .acccvt _ f64 slot d a e h =>
    some (.acccvt f64 d.val a.val (if h then 1 else 0) slot (s.exponents x e.val)
        (s.exponents x (e.val + 2)), [a.val, a.val + 1, a.val + 2, a.val + 3],
      slotElem (s.slot x.t slot) = .slice7 ∧ a.val % 4 = 0 ∧ a.val < 4 * (s.gridOf x.t).needs.wblocks)
  | .dntap _ m slot d t h b =>
    some (.dntap m d.val t.val (if h then 1 else 0) b.val slot, [t.val],
      s.dnReady x.t slot = true ∧ b.val < (nth (s.team x.t).dnslots slot.val).nb ∧ s.fp32Tiles x.t t.val 1 = true)
  | .dnload _ slot => some (.dnload slot, [], dnSlotOk (s.slot x.t slot) = true)
  | _ => none

/-- Whether every thread of the set that goes on has signed (R350). -/
def State.allSigned (s : State) (t base cnt : Nat) (arrived : BitVec 64) : Prop :=
  ∀ j l, j < 2 ^ cnt → l < 16 → l < (s.crew t (base + j)).threads.length → ((s.crew t (base + j)).th l).state ≠ .exited →
    arrived.getLsbD (16 * j + l) = true

/-- INT8 element `k` of a row of a fragment (R124). -/
def int8At (row : List Word32) (k : Nat) : Int := ((nth row (k / 4)).extractLsb' (8 * (k % 4)) 8).toInt

end Sys2Proof.Machine

open Sys2Proof Sys2Proof.Machine

/-- R322, R332, R339: a cp whose tensors suit it takes a place in the engine, raises w2, seals its descriptors, claims the
producer's stage of its ring and clears the presence bits of the lines that it writes; memory and registers keep their values. A
place that is free goes to the crew that has stalled longest of those that still stand at their cp. The order of the checks is the
model's reading (log 38). -/
def Obligations.CopyIssue : Prop :=
  (∀ (s : State) (g : Guard) (dir : CpDir) (xf : CpXform) (d a : Fin 16) (r : Option (Fin 16)) (b : Option Opnd) (x : Issue),
    Runs s (.cp g dir xf d a r b) x → x.act ≠ 0 →
    let src := Desc.of (s.tile x.t a.val)
    let dst := Desc.of (s.tile x.t d.val)
    b.isSome = s.perTensor x.t xf dst → (∀ q, r = some q → (s.ring x.t q).free ≠ 0) →
    s.copyOk x.t dir xf src dst = true → s.copyTrap x.t dir xf src dst = none → (s.crew x.t x.c).counter 2 < 63 →
    (s.team x.t).claimAt x.c x.pc = none → s.engineTakes (s.team x.t).core x.t x.c = true →
    ∃ u c, exec (.cp g dir xf d a r b) s = .next u ∧ u.copies = s.copies ++ [c] ∧ c.id = s.nextId ∧ c.team = x.t ∧
      c.crew = x.c ∧ c.lanes = x.act ∧ c.dir = dir ∧ c.xform = xf ∧ c.src = s.tile x.t a.val ∧ c.dst = s.tile x.t d.val ∧
      c.units = unitsOf xf src ∧ c.unit = c.first ∧ c.lines = s.copyLines x.t dir (s.dstSpans x.t xf dst) ∧
      (totalBytes (s.dstSpans x.t xf dst) ≤ 65536 → c.first = 0 ∧ c.long = false) ∧
      (u.crew x.t x.c).counter 2 = (s.crew x.t x.c).counter 2 + 1 ∧ (u.crew x.t x.c).isSealed (.tile d.val) = true ∧
      (u.crew x.t x.c).isSealed (.tile a.val) = true ∧ SameRegs (s.crew x.t x.c) (u.crew x.t x.c) ∧ u.mem = s.mem ∧
      (∀ k ∈ c.lines, k.1 < s.teams.length → (u.team k.1).absent.contains k.2 = true) ∧
      ∀ q, r = some q → q.val < (s.team x.t).rings.length → c.stage = (s.ring x.t q).prod ∧
        u.ring x.t q = { s.ring x.t q with
          prod := ((s.ring x.t q).prod + 1) % ((s.ring x.t q).stages + 1), free := (s.ring x.t q).free - 1 }) ∧
  ∀ (s : State) (core : Nat) (q : Nat × Nat) (r : List (Nat × Nat)), core < s.cores.length → s.copiesOn core < 8 →
    s.granted core = none → (s.core core).cpQueue.filter s.standsAtCp = q :: r →
    ∃ u, exec (.copyEnterEngine core) s = .next u ∧ (u.core core).cpGrant = some q ∧ (u.core core).cpQueue = r ∧
      { u with cores := s.cores } = s

/-- R334, R332, R329: the next row of a dense plain copy between places of the team's own scratchpad: its bytes are moved and no
other byte of the device changes, where a seal covers every store that the scratchpad holds (R270). A copy that has written every
unit leaves the engine, w2 falls by the order of R13, and the stage that it claimed toggles. R344: a page fault holds it; a
refused page ends it and kills its team, or ends it alone where it has outlived its team. That one event moves one unit is the
model's grain (log 22). -/
def Obligations.CopyCarriedOut : Prop :=
  (∀ (s : State) (id a b o p n m : Nat) (c : Copy), s.copyOf id = some c → s.unitFree c = true → c.xform = .plain →
    c.dir ≠ .mc → c.long = false → c.srcD.sparse = 0 → s.readSpans c c.unit = [(a, n)] → s.writeSpans c c.unit = [(b, m)] →
    decodeAddr a = .ok (.own o) → decodeAddr b = .ok (.own p) → globalAddr a = false → globalAddr b = false →
    o + n ≤ (s.gridOf c.team).needs.spadb → p + n ≤ (s.gridOf c.team).needs.spadb → c.team < s.teams.length →
    (s.team c.team).unsealed = [] → c.orphan = none →
    ∃ u, exec (.copyLineLanded id) s = .next u ∧ u.mem = s.mem ∧ (u.copyOf id).map Copy.unit = some (c.unit + 1) ∧
      (∀ q, u.padAt c.team q = if p ≤ q ∧ q < p + n then s.padAt c.team (o + (q - p)) else s.padAt c.team q) ∧
      ∀ t, t ≠ c.team → (u.team t).spad = (s.team t).spad) ∧
  (∀ (s : State) (id : Nat) (c : Copy), s.copyOf id = some c → c.units ≤ c.unit → c.xform = .plain → c.orphan = none →
    s.hasCrew c.team c.crew → (∀ l, ((s.crew c.team c.crew).th l).runWait ≠ some (.copy id)) →
    ∃ u, exec (.copyComplete id) s = .next u ∧ u.copies = s.copies.filter (fun k => k.id != id) ∧ u.mem = s.mem ∧
      u.crew c.team c.crew = (s.crew c.team c.crew).lower id ∧
      ∀ q, c.ring = some q → q.val < (s.team c.team).rings.length →
        u.ring c.team q = { s.ring c.team q with ph := (s.ring c.team q).ph ^^^ ((1 : BitVec 16) <<< c.stage) }) ∧
  ∀ (s : State) (id : Nat) (c : Copy), s.copyOf id = some c →
    let refused := (s.copyNeeds c).any fun p => (s.spanRefused c.engine p.1 p.2).isSome
    (refused = false → (s.copyNeeds c).any (fun p => (s.spanFaulted c.engine p.1 p.2).isSome) = true →
      ∃ u, exec (.copyPageFault id) s = .next u ∧ (u.copyOf id).map Copy.held = some true ∧
        { u with copies := s.copies } = s) ∧
    (refused = true → c.orphan = none → c.team < s.teams.length → (s.team c.team).status = .resident →
      ∃ u, exec (.copyPageFault id) s = .next u ∧ Killed s u c.team) ∧
    (refused = true → c.orphan ≠ none →
      ∃ u, exec (.copyPageFault id) s = .next u ∧ u.copies = s.copies.filter (fun k => k.id != id) ∧
        ∀ t, (u.team t).status = (s.team t).status)

/-- R349, R350, R354, R366 to R371, R388, R391: an arming instruction whose conditions hold arms its register, raises w3 and seals
its tiles; on an armed register it takes the convergence mismatch in its lowest lane. sign adds the bits of its lanes; the
operation starts when every thread of the set that goes on has signed. R372 to R378, R385, R392: a direct operation whose
conditions hold is handed to the engine once for the lanes of Active() and raises w3; its results stay outstanding. mwait releases
the crew's issue until w3 has fallen to the bound. The order of starts and commits is the model's reading (log 22). -/
def Obligations.MatrixInstructionsIssue : Prop :=
  ((∀ (s : State) (i : Instr) (x : Issue) (cv : Fin 8) (kind : MKind) (ok : Prop), Runs s i x → x.act ≠ 0 →
    armSpec s x i = some (cv, kind, ok) → ok → cv.val < (s.team x.t).conv.length →
    ((nth (s.team x.t).conv cv.val).state = .idle → (s.crew x.t x.c).counter 3 < 63 →
      ∃ u m, exec i s = .next u ∧ u.mops = s.mops ++ [m] ∧ m.team = x.t ∧ m.crew = x.c ∧ m.cv = some cv ∧
        m.kind = kind ∧ m.stage = .armed ∧ (nth (u.team x.t).conv cv.val).state = .armed ∧
        (nth (u.team x.t).conv cv.val).armcrew = x.c ∧
        (u.crew x.t x.c).counter 3 = (s.crew x.t x.c).counter 3 + 1 ∧
        (∀ n ∈ (s.team x.t).tilesOf kind, (u.crew x.t x.c).isSealed (.acc n) = true) ∧
        SameRegs (s.crew x.t x.c) (u.crew x.t x.c) ∧ (u.team x.t).accs = (s.team x.t).accs ∧ u.mem = s.mem) ∧
    ((nth (s.team x.t).conv cv.val).state = .armed → Parks s x 10 →
      ∃ u, exec i s = .next u ∧ Reported s u x.t x.c (laneBit (lowestLane x.act)) fun _ th =>
        th.reported x.pc 10 (convInfo cv 0))) ∧
  ∀ (s : State) (g : Guard) (cv : Fin 8) (a : Opnd) (x : Issue) (m : MatrixOp), Runs s (.sign g cv a) x → x.act ≠ 0 →
    let v := s.rd32 x.t x.c a (lowestLane x.act)
    let base := v % 64
    let cnt := v / 64 % 4
    let k := nth (s.team x.t).conv cv.val
    badSet (s.team x.t).crews.length v = false → cv.val < (s.team x.t).conv.length → k.state = .armed →
    s.armedOn x.t cv = some m → base ≤ x.c → x.c < base + 2 ^ cnt →
    (k.arrived = 0 ∨ k.setbase = base ∧ k.setcnt = cnt) →
    (∀ l, l < 16 → x.act.getLsbD l = true → k.arrived.getLsbD (16 * (x.c - base) + l) = false) →
    badRanges (s.gridOf x.t).needs.vregs (MKind.ranges (s.slotElemOf x.t) m.kind (2 ^ cnt)) = false →
    (s.crew x.t x.c).counter 3 < 63 →
    ∃ u, exec (.sign g cv a) s = .next u ∧
      (nth (u.team x.t).conv cv.val).arrived = k.arrived ||| (x.act.setWidth 64 <<< (16 * (x.c - base))) ∧
      (nth (u.team x.t).conv cv.val).setbase = base ∧ (nth (u.team x.t).conv cv.val).setcnt = cnt ∧
      ((nth (u.team x.t).conv cv.val).state = .started ↔
        s.allSigned x.t base cnt (nth (u.team x.t).conv cv.val).arrived) ∧
      (u.crew x.t x.c).counter 3 = (s.crew x.t x.c).counter 3 + 1 ∧ SameRegs (s.crew x.t x.c) (u.crew x.t x.c) ∧
      (∀ n ∈ (s.team x.t).tilesOf m.kind, (u.crew x.t x.c).isSealed (.acc n) = true) ∧ u.mem = s.mem) ∧
  ((∀ (s : State) (i : Instr) (x : Issue) (kind : MKind) (tiles : List Nat) (ok : Prop), Runs s i x → x.act ≠ 0 →
    directSpec s x i = some (kind, tiles, ok) → ok → s.sealHit x (tiles.map Res.acc) = none →
    (s.crew x.t x.c).counter 3 < 63 →
    ∃ u m, exec i s = .next u ∧ u.mops = s.mops ++ [m] ∧ m.team = x.t ∧ m.crew = x.c ∧ m.lanes = x.act ∧ m.cv = none ∧
      m.kind = kind ∧ m.stage = .issued ∧ m.counts = [(x.c, m.id)] ∧
      (u.crew x.t x.c).counter 3 = (s.crew x.t x.c).counter 3 + 1 ∧
      (∀ q ∈ x.inf.dsts, (u.crew x.t x.c).held [q] = true) ∧ SameRegs (s.crew x.t x.c) (u.crew x.t x.c) ∧
      (u.team x.t).accs = (s.team x.t).accs ∧ u.mem = s.mem) ∧
  ∀ (s : State) (g : Guard) (a : Opnd) (x : Issue), Runs s (.mwait g a) x → x.act ≠ 0 → a.uniformSrc = true →
    s.rd32 x.t x.c a 0 ≤ 63 → NextWord s x →
    ∃ cr, exec (.mwait g a) s = .next (s.withCrew x cr) ∧ ReleasedWith s x g.sw cr fun th =>
      .matrix (s.rd32 x.t x.c a 0) x.pc th.loops th.loopSkip)

/-- R351, R353, R373, R375, R359, R360, R361, R390: what the engine does with an operation: it captures the fragments of an mmaw
when it starts, of registers that hold no word overwritten since a seal (R270); acclr leaves zeros or cleared wide blocks; accrd
gives the lanes elements of the tile; an attempt in error is repeated, and after the third the core is taken out of placement and
its teams are saved; the curve pass ends of the operation that started first; a fault of a fetch kills the team. The grain of the
engine's events is the model's (log 22). -/
def Obligations.MatrixEngineSteps : Prop :=
  (∀ (s : State) (op : Nat) (m : MatrixOp) (cv : Fin 8) (d a b n : Nat) (slot : Fin 8), s.mop op = some m →
    s.canStart m = true → m.cv = some cv → m.kind = .mmaw d a b slot n →
    let k := nth (s.team m.team).conv cv.val
    let q := 2 ^ k.setcnt
    (∀ j, j < q → (s.crew m.team (k.setbase + j)).stale = []) →
    let word (base i w : Nat) : Word32 :=
      if k.arrived.getLsbD (16 * (i / 16 % q) + i % 16) then
        (s.crew m.team (k.setbase + i / 16 % q)).v (base + i / 16 / q * 8 + w) (i % 16) else 0
    ∃ u r, exec (.matrixOpStart op) s = .next u ∧ u.mop op = some r ∧ r.stage = .started ∧
      { r with
        stage := m.stage, began := m.began, fragA := m.fragA, fragB := m.fragB, scales := m.scales, tables := m.tables } = m ∧
      (∀ i w, i < 64 → w < 8 → nth (nth r.fragA i) w = word a i w ∧ nth (nth r.fragB i) w = word b i w) ∧
      r.began = s.nextId ∧ { u with mops := s.mops, nextId := s.nextId, freeCtr := s.freeCtr } = s) ∧
  (∀ (s : State) (op : Nat) (m : MatrixOp), s.mop op = some m → s.canCommit m = true → m.team < s.teams.length →
    (∀ d n, m.kind = .acclr d n → splitsWide (s.gridOf m.team).needs.wblocks d n = false →
      ∃ u, exec (.matrixCommit op) s = .next u ∧ u.mop op = none ∧ u.mem = s.mem ∧
        (∀ k r c, d ≤ k → k < d + n → 4 * (s.gridOf m.team).needs.wblocks ≤ k → r < 32 → c < 32 →
          (u.team m.team).acc k r c = 0) ∧
        (∀ k, d ≤ k → k < d + n → k < 4 * (s.gridOf m.team).needs.wblocks → k % 4 = 0 →
          (u.team m.team).wide k = { e := -32768, m := List.replicate 1024 0, poison := false }) ∧
        ∀ k r c, (k < d ∨ d + n ≤ k) → r < 32 → c < 32 → (u.team m.team).acc k r c = (s.team m.team).acc k r c) ∧
    (∀ v a h, m.kind = .accrd v a h → m.crew < (s.team m.team).crews.length →
      ∃ u, exec (.matrixCommit op) s = .next u ∧ u.mop op = none ∧ u.mem = s.mem ∧
        (u.team m.team).accs = (s.team m.team).accs ∧
        (∀ i c, i < 16 → c < 32 → m.lanes.getLsbD (c % 16) = true →
          (u.crew m.team m.crew).v (v + 2 * i + c / 16) (c % 16) = (s.team m.team).acc a (16 * h + i) c) ∧
        ∀ k l, l < 16 → (m.lanes.getLsbD l = false ∨ k < v ∨ v + 32 ≤ k) →
          (u.crew m.team m.crew).v k l = (s.crew m.team m.crew).v k l)) ∧
  (∀ (s : State) (op : Nat) (m : MatrixOp), s.mop op = some m → (m.stage = .started ∨ m.stage = .pass) →
    (m.tries < 2 → ∃ u, exec (.residueRetry op) s = .next u ∧ u.mop op = some { m with tries := m.tries + 1 } ∧
      { u with mops := s.mops } = s) ∧
    (2 ≤ m.tries → m.core < s.cores.length → m.core / 64 < s.dies.length →
      ∃ u, exec (.residueFallback op) s = .next u ∧ (u.core m.core).failed = true ∧
        (u.die (m.core / 64)).dieFail.getLsbD (m.core % 64) = true ∧
        ∀ t ∈ s.teamsOn m.core, (u.team t).saving = true) ∧
    (m.stage = .started → (∃ d a b slot sct, m.kind = .dn d a b slot sct true) →
      (∀ k ∈ s.mops, k.core = m.core → k.kind.needsPass = true → k.stage = .started → m.began ≤ k.began) →
      (∀ k ∈ s.mops, k.core = m.core → k.stage ≠ .pass) → s.commitBehind m = false →
      ∃ u, exec (.curvePassEnd op) s = .next u ∧ u.mop op = some { m with stage := .pass } ∧
        { u with mops := s.mops } = s)) ∧
  ∀ (s : State) (op : Nat) (m : MatrixOp) (kind : Fin 3) (hard content : Bool) (addr : Word64) (w : Option (Nat × Nat)),
    s.mop op = some m → s.fetchFault m = some (kind, hard, content, addr.toNat, w) → m.team < s.teams.length →
    (s.team m.team).status = .resident →
    ∃ u, exec (.matrixFetchFault op kind hard content addr) s = .next u ∧ Killed s u m.team

/-- R366, R368: an mma on INT8 slots adds to each element of its block the sum of 32 products, modulo 2^32; no other tile
changes. -/
def Obligations.MatrixMultiplyInteger : Prop :=
  ∀ (s : State) (op : Nat) (m : MatrixOp) (d a b : Nat) (fa fb : Fin 8), s.mop op = some m → s.canCommit m = true →
    m.kind = .mma false false d a b fa fb 0 → m.team < s.teams.length →
    slotElem (s.slot m.team fa) = .int8 → slotElem (s.slot m.team fb) = .int8 →
    slotScaled (s.slot m.team fa) = false → m.scales = [] →
    ∃ u, exec (.matrixCommit op) s = .next u ∧ u.mem = s.mem ∧
      (∀ i j, i < 64 → j < 64 → (u.team m.team).blockAt d i j = (s.team m.team).blockAt d i j +
        BitVec.ofInt 32 (((List.range 32).map fun k => int8At (nth m.fragA i) k * int8At (nth m.fragB j) k).sum)) ∧
      ∀ n r c, (n < d ∨ d + 4 ≤ n) → r < 32 → c < 32 → (u.team m.team).acc n r c = (s.team m.team).acc n r c

namespace Sys2Proof.Machine

/-! ## Task instructions, scheduling, retirement, placement -/

/-- A task instruction's destination, what it asks, and the condition on its grid (R426, R428, R430 to R432). -/
def taskSpec (s : State) (x : Issue) : Instr → Option (Fin 128 × TaskKind × Prop)
  | .tkissue _ d a =>
    let c := s.rd32 x.t x.c a (lowestLane x.act)
    some (d, .issue (BitVec.ofNat 32 c),
      (s.gridOf x.t).record.tkTable ≠ 0 ∧ (s.gridOf x.t).record.ord = true ∧ c ≤ 65535)
  | .tkredeem _ d a b =>
    some (d, .redeem ((s.crew x.t x.c).s64 a.val) ((s.crew x.t x.c).s64 b.val), (s.gridOf x.t).record.tkTable ≠ 0)
  | .tkstateGet _ d a => some (d, .stateGet ((s.crew x.t x.c).s64 a.val), (s.gridOf x.t).record.tkTable ≠ 0)
  | .tkstateVoid _ d a => some (d, .stateVoid ((s.crew x.t x.c).s64 a.val), (s.gridOf x.t).record.tkTable ≠ 0)
  | .tkstateFree _ d a => some (d, .stateFree ((s.crew x.t x.c).s64 a.val), (s.gridOf x.t).record.tkTable ≠ 0)
  | .wvcommitOpen _ d => some (d, .wvOpen, (s.gridOf x.t).record.vregion ≠ 0)
  | .wvcommitCow _ d a =>
    some (d, .wvCow (BitVec.ofNat 32 (s.rd32 x.t x.c a (lowestLane x.act))), (s.gridOf x.t).record.vregion ≠ 0)
  | .wvcommitFin _ d => some (d, .wvFin, (s.gridOf x.t).record.vregion ≠ 0)
  | .wvcommitDrop _ d => some (d, .wvDrop, (s.gridOf x.t).record.vregion ≠ 0)
  | _ => none

/-- The action of a task instruction answers `w` and changes nothing. -/
def Answers (s v : State) (x : TaskOp) (w : Nat) : Prop := s.taskAction x = .ok (.value w, v)

/-- No barrier of any team has an arrival in its present phase. -/
def State.noBarriers (s : State) : Prop := ∀ t b, (nth (s.team t).bars b).tset = false

end Sys2Proof.Machine

open Sys2Proof Sys2Proof.Machine

/-- R426: a task instruction of a grid with a table, or a region, is handed once to the engine, and its bundle waits for the
result; where it stages, a place of the buffer is free. When it has acted, its answer goes to D and nothing else of the crew's
registers changes; a retired version ends it in the trap of that name. The waits of the bundle are the model's reading (log 20),
the status without a binary too (log 15).
R421, R430 to R432: the statuses of the task instructions that end without an effect, and the state that tkstate.get gives. -/
def Obligations.TaskInstructions : Prop :=
  ((∀ (s : State) (i : Instr) (x : Issue) (d : Fin 128) (kind : TaskKind) (ok : Prop), Runs s i x → x.act ≠ 0 →
    taskSpec s x i = some (d, kind, ok) → ok →
    (kind.staged = true → (s.gridOf x.t).record.ord = true → s.entryTaken (s.team x.t).core x.t s.nextId = false ∧
      s.bufferFull (s.team x.t).core x.t s.nextId = false) →
    ∃ u, exec i s = .next u ∧
      u.tasks = s.tasks ++ [⟨s.nextId, x.t, x.c, x.pc, x.act, .s d, kind,
        if kind.staged && (s.gridOf x.t).record.ord then some (s.team x.t).seqNext else none, false⟩] ∧
      SameRegs (s.crew x.t x.c) (u.crew x.t x.c) ∧ (u.crew x.t x.c).bundle = (s.crew x.t x.c).bundle ∧
      (∀ l, l < (s.crew x.t x.c).threads.length → x.lanes.getLsbD l = true →
        ((u.crew x.t x.c).th l).awaits = [s.nextId]) ∧
      u.mem = s.mem) ∧
  (∀ (s v : State) (x : TaskOp) (w : Nat) (d : Fin 128), s.taskOf x.id = some x → s.taskReady x = true → x.d = .s d →
    s.taskAction x = .ok (.value w, v) → v.hasCrew x.team x.crew → (v.team x.team).status = .resident →
    ((v.image x.team).after x.pc).2 = false → wordSw (((v.image x.team).word x.pc).getD 0) = false →
    ∃ u, exec (.taskResultReturn x.id) s = .next u ∧ u.mem = v.mem ∧
      (if x.kind.pair then (u.crew x.team x.crew).s64 d.val = BitVec.ofNat 64 w
        else (u.crew x.team x.crew).s d.val = BitVec.ofNat 32 w) ∧
      (∀ k, k < d.val ∨ d.val + two x.kind.pair ≤ k → (u.crew x.team x.crew).s k = (v.crew x.team x.crew).s k) ∧
      (u.crew x.team x.crew).vregs = (v.crew x.team x.crew).vregs ∧ ∀ k ∈ u.tasks, k.id ≠ x.id) ∧
  ∀ (s v : State) (x : TaskOp) (n : Nat), s.taskOf x.id = some x → s.taskReady x = true →
    s.taskAction x = .ok (.retired n, v) → s.hasCrew x.team x.crew → (s.team x.team).status = .resident → x.lanes ≠ 0 →
    (s.crew x.team x.crew).bundle = x.lanes → (s.gridOf x.team).record.disposition 13 = 0 →
    (s.crew x.team x.crew).inState Thread.inh = 0 → x.lanes &&& (s.crew x.team x.crew).exited = 0 →
    s.crossDone x.team x.crew x.lanes = true → s.readsDone x.team x.crew x.lanes = true →
    ∃ u, exec (.taskResultReturn x.id) s = .next u ∧
      ∀ l, l < 16 → l < (s.crew x.team x.crew).threads.length → x.lanes.getLsbD l = true →
        ((u.crew x.team x.crew).th l).state = .parked ∧ ((u.crew x.team x.crew).th l).tcause = 13 ∧
        ((u.crew x.team x.crew).th l).tinfo = BitVec.ofNat 32 n ∧ ((u.crew x.team x.crew).th l).pc = x.pc) ∧
  ((∀ (s r v : State) (x : TaskOp) (id : Word64) (h k : Nat),
    let die := s.dieOf x.team
    let fe := s.feOf x.team
    let table := (s.gridOf x.team).record.tkTable.toNat
    s.getNat die fe (.op x.id) table 64 = .ok (h, r) →
    r.getNat die fe (.op x.id) (ticketAt table h id.toNat) 64 = .ok (k, v) →
    (ticketValid k id.toNat = false →
      (x.kind = .stateGet id ∨ x.kind = .stateVoid id ∨ x.kind = .stateFree id ∨ ∃ fb, x.kind = .redeem id fb) →
      Answers s v x 4) ∧
    (ticketValid k id.toNat = true →
      (x.kind = .stateGet id → Answers s v x (k % 8 * 256 + k / 16 % 2 * 2048)) ∧
      (x.kind = .stateVoid id → k % 8 ≠ 1 → Answers s v x 1) ∧
      (x.kind = .stateFree id → k % 8 < 3 → Answers s v x 1) ∧
      (∀ fb, x.kind = .redeem id fb → k % 8 ≠ 1 → Answers s v x 1) ∧
      (∀ fb, x.kind = .redeem id fb → k % 8 = 1 → v.lastBinary fe (k / 2 ^ 192 % 2 ^ 32) = none → Answers s v x 7))) ∧
  ∀ (s v : State) (x : TaskOp) (h : Nat),
    let vr := (s.gridOf x.team).record.vregion.toNat
    let cur := h % 2 ^ 32
    let draft := h / 2 ^ 32 % 2 ^ 32
    let oldest := h / 2 ^ 64 % 2 ^ 32
    let granules := h / 2 ^ 96 % 2 ^ 24
    let pins := h / 2 ^ (256 + 16 * (oldest % 9)) % 2 ^ 16
    s.getNat (s.dieOf x.team) (s.feOf x.team) (.op x.id) vr 64 = .ok (h, v) →
    (x.kind = .wvOpen → (draft ≠ 0 → Answers s v x 2) ∧ (draft = 0 → cur = 2 ^ 32 - 1 → Answers s v x 3)) ∧
    (∀ g, x.kind = .wvCow g → (draft = 0 → Answers s v x 1) ∧ (draft ≠ 0 → granules ≤ g.toNat → Answers s v x 4)) ∧
    (x.kind = .wvFin → (draft = 0 → Answers s v x 1) ∧
      (draft ≠ 0 → oldest + 8 ≤ cur + 1 → pins ≠ 0 → Answers s v x 2)) ∧
    (x.kind = .wvDrop → draft = 0 → Answers s v x 1))

/-- R75, R76: `selection` completes: of the ready runs of a crew without a bundle the one with the lowest PC becomes the bundle, but
after four such choices among several a later one, and a place that the copy engine keeps for the crew is given up; with no
ready run, or with a bundle, it changes nothing. The runs are of lanes
that wait for no ring, child or matrix operation. -/
def Obligations.SelectionMakesBundle : Prop :=
  ∀ (s : State) (t c : Nat),
    (s.issues? t c = true → (s.crew t c).bundle = 0 → s.readyRuns t c = [] → exec (.selection t c) s = .next s) ∧
    ((s.issues? t c = false ∨ (s.crew t c).bundle ≠ 0) → exec (.selection t c) s = .next s) ∧
    ∀ (r : Word64 × Mask) (rest : List (Word64 × Mask)), s.issues? t c = true → (s.crew t c).bundle = 0 →
      (s.crew t c).yielding = 0 → (∀ l, ((s.crew t c).th l).runWait = none) → s.hasCrew t c →
      s.readyRuns t c = r :: rest →
      ∃ cr, exec (.selection t c) s = .next ((s.yieldEngine (s.team t).core t c).modCrew t c fun _ => cr) ∧
        cr.sregs = (s.crew t c).sregs ∧
        cr.vregs = (s.crew t c).vregs ∧
        (rest = [] → cr.bundle = r.2 ∧ cr.fcount = 0) ∧
        (rest ≠ [] → (s.crew t c).fcount ≠ 4 → cr.bundle = r.2 ∧ cr.fcount = (s.crew t c).fcount + 1) ∧
        (rest ≠ [] → (s.crew t c).fcount = 4 → cr.fcount = 0 ∧ ∃ k ∈ rest, cr.bundle = k.2 ∧ cr.fpc = k.1)

/-- R48, R17: `clauseHeaderIssue` completes: a header whose conditions hold lets the bundle into its clause and lifts the seals that
its bounds cover; no other crew and no register changes, and of the bundle's lanes nothing but the address where the header has no
ring wait. A header whose conditions do not hold has no effect. -/
def Obligations.HeadersLetBundlesIn : Prop :=
  ∀ (s : State) (t c : Nat), s.issues? t c = true → (s.crew t c).bundle ≠ 0 →
    let old := s.crew t c
    let p := old.bundlePc
    let h := (s.image t).header p
    (s.image t).marked p = true →
    (s.headerHolds t c h = false → exec (.clauseHeaderIssue t c) s = .next s) ∧
    (s.headerHolds t c h = true → s.headerTrap t c h = none → s.hasCrew t c →
      ∃ u, exec (.clauseHeaderIssue t c) s = .next u ∧ SameRegs old (u.crew t c) ∧ (u.crew t c).bundle = old.bundle ∧
        (∀ l, l < old.threads.length → if old.bundle.getLsbD l then ((u.crew t c).th l).pc = p + 8 else (u.crew t c).th l = old.th l) ∧
        (h.rwait = false → ∀ l, l < old.threads.length → old.bundle.getLsbD l = true →
          { (u.crew t c).th l with pc := (old.th l).pc } = old.th l) ∧
        (∀ k, k ∈ (u.crew t c).seals ↔ k ∈ old.seals ∧ (k.ctr < 6 → k.level ≤ h.bound k.ctr)) ∧
        (∀ j k, (j ≠ t ∨ k ≠ c) → u.crew j k = s.crew j k) ∧ u.mem = s.mem)

/-- R78: a cycle of a core makes its eligible crews, in the order of their ranks, the next to issue, eight issues in all; the age
of an eligible crew rises. What is due at the start of a cycle comes first: `w` is the state after it. R192, R194, R442: a barrier
at which enough crews have arrived, their clocks covered, begins its next phase, and the lanes held at it go on. What the events
of a cycle are and when it comes is the model's (logs 3 and 4). -/
def Obligations.IssueCycle : Prop :=
  (∀ (s : State) (core : Nat), (s.core core).failed = false → (s.core core).halted = false → core < s.cores.length →
    let v := (s.retryFills (core / Config.coresPerDie)).evalWaiting core
    let w := (v.crewsOn core).foldl (fun s k => s.modCrew k.1 k.2 Crew.passCycle) v
    ∃ u, exec (.coreIssueCycle core) s = .next u ∧ u.budget = 8 ∧ (u.core core).cyc = (s.core core).cyc + 1 ∧
      (∀ k, k ∈ u.slots ↔ k ∈ w.crewsOn core ∧ w.eligible k.1 k.2 = true) ∧
      u.slots.Pairwise (fun a b => lexLe (w.rank a) (w.rank b) = true) ∧
      (∀ k, k ∈ w.crewsOn core →
        (u.crew k.1 k.2).age = if w.eligible k.1 k.2 then (w.crew k.1 k.2).age + 1 else 0) ∧
      (s.lost = [] → u.mem = s.mem)) ∧
  ∀ (s : State) (core t : Nat) (b : Fin 4),
    let br := nth (s.team t).bars b.val
    let im := s.image t
    let target := if br.target = 0 then BitVec.popcount (s.team t).liveCrews else br.target
    t < s.teams.length → (s.team t).core = core → (s.team t).status = .resident → (s.team t).stop = false →
    (s.team t).saving = false → s.waitsImage t = false → (s.team t).guard = none → br.tset = true →
    (∀ j k, (j ≠ t ∨ k ≠ b.val) → (nth (s.team j).bars k).tset = false) → target ≤ BitVec.popcount br.arrived →
    s.arrivalsDone t (.bar b) = true → (s.die (core / Config.coresPerDie)).fills = [] →
    (∀ c, c < (s.team t).crews.length → (s.crew t c).JoinsWait) →
    (∀ e ∈ s.log, e.team = t → ∀ a ∈ e.lanes, a.status.isTrapping = false) →
    (∀ c l, l < 16 → l < (s.crew t c).threads.length → ((s.crew t c).th l).state = .active →
      im.inside ((s.crew t c).th l).pc = true ∨ im.marked ((s.crew t c).th l).pc = true) →
    (∀ c l, l < 16 → ((s.crew t c).heldAt (.bar b)).getLsbD l = true →
      im.inside (((s.crew t c).th l).pc + 8) = true ∧
        ((s.crew t c).th l).pc + 8 ≠ im.nextClause (im.headerOf ((s.crew t c).th l).pc)) →
    ∃ u, exec (.coreIssueCycle core) s = .next u ∧
      nth (u.team t).bars b.val = { br with arrived := 0, tset := false, target := 0, phase := !br.phase } ∧
      ∀ c l, c < (s.team t).crews.length → l < 16 → l < (s.crew t c).threads.length →
        if ((s.crew t c).heldAt (.bar b)).getLsbD l then
          ((u.crew t c).th l).state = .active ∧ ((u.crew t c).th l).pc = ((s.crew t c).th l).pc + 8
        else (u.crew t c).th l = (s.crew t c).th l

/-- R231, R233, R235, R238: a kill ends a team, which is placed again only where R235 allows it, with one record of its own; with
the grid failed, its teams that wait to be placed again end too. The driver's resume lets the parked lanes of resident teams go on
at their addresses; its kill ends every team of a grid without a record; an uncorrectable error parks every lane of the team that
has not exited with the class imprecise. What a driver's kill, a resume and an error do beside their rules is the model's reading
(log 30). -/
def Obligations.KillsAndResumes : Prop :=
  (∀ (s : State) (t c : Nat) (cls : Fin 14) (lanes : Mask) (pc : Word64) (info : Word32), t < s.teams.length →
    (s.team t).status = .resident → (s.gridOf t).fe < s.fes.length → (s.team t).grid < s.grids.length →
    ∃ u rcd, exec (.teamKill t c cls lanes pc info) s = .next u ∧ Killed s u t ∧
      (u.team t).status = (if s.relaunchable t then .waiting else .dead) ∧
      (s.relaunchable t = false → (u.gridOf t).failed = true) ∧
      (∀ k, k ≠ t → (u.team k).status = (s.team k).status ∨
        (s.relaunchable t = false ∧ (s.team k).grid = (s.team t).grid ∧ (s.team k).status = .waiting ∧
          (u.team k).status = .dead)) ∧
      ((s.relaunchable t = true ∨ ∀ k, (s.team k).grid = (s.team t).grid → (s.team k).status ≠ .waiting) →
        (u.fe (s.gridOf t).fe).pending = (s.fe (s.gridOf t).fe).pending ++ [rcd])) ∧
  (∀ (s : State) (g : Nat),
    (∀ t c l, (s.team t).grid = g → ((s.crew t c).inState Thread.waitsDriver).getLsbD l = true →
      (s.image t).inside ((s.crew t c).th l).pc = true) →
    (∀ t c, t < s.teams.length → c < (s.team t).crews.length → (s.crew t c).JoinsWait) →
    ∃ u, exec (.driverResumeGrid g) s = .next u ∧ u.mem = s.mem ∧
      ∀ t, t < s.teams.length → (s.team t).grid = g → (s.team t).status = .resident → (u.team t).stop = false ∧
        ∀ c l, c < (s.team t).crews.length → l < 16 → l < (s.crew t c).threads.length →
          ((s.crew t c).th l).waitsDriver = true →
          ((u.crew t c).th l).state = .active ∧ ((u.crew t c).th l).pc = ((s.crew t c).th l).pc) ∧
  (∀ (s : State) (g : Nat), g < s.grids.length → (s.grid g).retired = false →
    ∃ u, exec (.driverKillGrid g) s = .next u ∧ u.fes = s.fes ∧ (u.grid g).failed = true ∧ (u.grid g).noMore = true ∧
      ∀ t, t < s.teams.length → (s.team t).grid = g → (u.team t).phaseDone = true) ∧
  ∀ (s : State) (t : Nat) (storage : Fin 4), t < s.teams.length → (s.team t).status = .resident →
    ((s.gridOf t).record.disposition 12 ≠ 2 → (∀ c, (s.crew t c).long = none) →
      ∃ u, exec (.uncorrectableError t storage) s = .next u ∧ (u.team t).stop = true ∧ u.mem = s.mem ∧
        ∀ c l, c < (s.team t).crews.length → l < 16 → l < (s.crew t c).threads.length →
          (u.crew t c).bundle = 0 ∧ (((s.crew t c).th l).state ≠ .exited → ((u.crew t c).th l).state = .parked ∧
            ((u.crew t c).th l).tcause = 44 ∧ ((u.crew t c).th l).tinfo = BitVec.ofNat 32 storage.val ∧
            ((u.crew t c).th l).pc = ((s.crew t c).th l).pc)) ∧
    ((s.gridOf t).record.disposition 12 = 2 → ∃ u, exec (.uncorrectableError t storage) s = .next u ∧ Killed s u t)

/-- R26, R72, R402: a crew whose threads have exited and whose counters w0 to w4 are zero retires, a team with every crew retired
and nothing under way retires and gives up its blocks, and a grid retires with its last team: a grid from a ring posts the
grid-retired record, a child lowers w5 of its crew. -/
def Obligations.Retirement : Prop :=
  (∀ (s : State) (t c : Nat), s.crewOver t c = true → s.noBarriers → (∀ n, (nth (s.team t).conv n).state ≠ .armed) →
    ∃ u, exec (.crewRetire t c) s = .next u ∧ u.crew t c = { s.crew t c with retired := true } ∧ u.mem = s.mem) ∧
  (∀ (s : State) (t : Nat), s.teamOver t = true → (s.team t).guard = none → s.noBarriers → t < s.teams.length →
    (s.team t).core < s.cores.length → (s.team t).grid < s.grids.length →
    ∃ u, exec (.teamRetire t) s = .next u ∧ (u.team t).status = .retired ∧
      (u.gridOf t).ended = (s.gridOf t).ended + 1 ∧ (∀ b ∈ (u.core (s.team t).core).blocks, b.team ≠ t) ∧
      u.mem = s.mem ∧ u.fes = s.fes) ∧
  ∀ (s : State) (g : Nat), s.gridOver g = true →
    (∀ i, (s.grid g).origin = .ring i → (s.grid g).fe < s.fes.length →
      ∃ u, exec (.gridRetire g) s = .next u ∧ (u.grid g).retired = true ∧ (u.fe (s.grid g).fe).pending =
        (s.fe (s.grid g).fe).pending ++ [gridRetired (BitVec.ofNat 64 i) 0 (s.grid g).handle (s.grid g).failed]) ∧
    (∀ t c id, (s.grid g).origin = .child t c id → s.hasCrew t c → (s.team t).grid < s.grids.length →
      (s.team t).grid ≠ g →
      ∃ u, exec (.gridRetire g) s = .next u ∧ (u.grid g).retired = true ∧ u.crew t c = (s.crew t c).lower id ∧
        (u.gridOf t).children = (s.gridOf t).children - 1 ∧ u.fes = s.fes)

/-- R26, R27, R50, R97, R101, R249: the next team of a grid takes its core with the state of a fresh team; its image is read and
its headers marked, once the core's queues are empty, until when its intake stops; a block of a quiet owner moves and its base is
rewritten. The core that is taken and the moment of the load are the model's readings (logs 32 and 33). -/
def Obligations.PlacementAndImages : Prop :=
  (∀ (s : State) (g core j : Nat) (w : WaitUnit), s.nextUnit g = some w → w.grid = g → w.members = [(s.teams.length, j)] →
    (s.grid g).record.coop = false → (s.give w core).isSome = true → g < s.grids.length →
    ∃ u, exec (.teamPlacement g core) s = .next u ∧ u.teams.length = s.teams.length + 1 ∧
      (u.team s.teams.length).status = .resident ∧ (u.team s.teams.length).core = core ∧
      (u.team s.teams.length).grid = g ∧ (u.team s.teams.length).index = j ∧
      (u.grid g).nextTeam = (s.grid g).nextTeam + 1 ∧ (u.team s.teams.length).crews.length = (s.grid g).record.crews ∧
      (∀ c, c < (s.grid g).record.crews → { u.crew s.teams.length c with vbase := 0 } =
        Crew.start (s.grid g).record.entry (s.grid g).record.fptrap) ∧
      ∀ k, k < s.teams.length → u.team k = s.team k) ∧
  (∀ (s v : State) (g core : Nat) (bs : List Byte), s.imageDue g core = true → core < s.cores.length →
    let n := (s.grid g).needs
    let words := (List.range ((bs.length + 7) / 8)).map fun i => BitVec.ofNat 64 (ofBytes ((bs.drop (8 * i)).take 8))
    s.get (feDie (s.grid g).fe) (s.grid g).fe .frontEnd (s.grid g).record.entry.toNat n.image = .ok (bs, v) → n.codelen % 8 = 0 →
    (∀ marks, walkHeaders (n.codelen / 8 + 1) words 0 (n.codelen / 8) = some marks →
      v.queuesEmpty core = true →
      ∃ u, exec (.kernelImageLoad g core) s = .next u ∧ u.mem = v.mem ∧ u.imageOn g core =
        some { entry := (s.grid g).record.entry, codelen := n.codelen, words := words, marks := marks, grid := g }) ∧
    (∀ marks, walkHeaders (n.codelen / 8 + 1) words 0 (n.codelen / 8) = some marks → v.queuesEmpty core = false →
      exec (.kernelImageLoad g core) s = .next (v.modCore core fun c => { c with loading := some g })) ∧
    (walkHeaders (n.codelen / 8 + 1) words 0 (n.codelen / 8) = none → g < s.grids.length →
      ∃ u, exec (.kernelImageLoad g core) s = .next u ∧ (u.grid g).failed = true ∧ (u.grid g).noMore = true)) ∧
  ∀ (s : State) (core i first : Nat), core < s.cores.length → i < (s.core core).blocks.length →
    let b := nth (s.core core).blocks i
    b.size ≠ 0 → s.mayMove b = true → first % b.size = 0 → first + b.size ≤ (s.gridOf b.team).record.granules b.share →
    freeRange ((s.core core).blocks.eraseIdx i) b.share first b.size = true → s.hasCrew b.team b.crew →
    ∃ u, exec (.compactorMove core i first) s = .next u ∧ nth (u.core core).blocks i = { b with first := first } ∧
      (b.share = 0 → (u.crew b.team b.crew).vbase = first) ∧ (b.share = 1 → (u.team b.team).spadBase = first) ∧
      (2 ≤ b.share → (u.team b.team).accBase = first) ∧ SameRegs (s.crew b.team b.crew) (u.crew b.team b.crew) ∧
      u.mem = s.mem

/-- R29, R208, R237 to R239, R358, R411, R414: teams are preempted, saved, restored and moved off failing cores; a bank is
spilled, a quantum ends, a core that hlt has stopped goes on. A team that is being saved reads its ports first (R288). The size of
a save slot, what stays in a saved team and what is under way at a stop are the model's readings (logs 24, 25 and 31). -/
def Obligations.SavesAndRestores : Prop :=
  (∀ (s : State) (g core : Nat) (w : WaitUnit) (k : Nat × Nat),
    (s.unitsOf g).find? (fun u => s.starved u && s.fitsEmptied u core) = some w → s.lowestOn core = some k →
    k.1 < (s.grid g).record.prio → s.coreOpen (s.grid g).fe core = true →
    (∀ c ∈ s.coresIn (s.grid g).fe, ∀ o, s.lowestOn c = some o → k.1 ≤ o.1 ∧ (o.1 = k.1 → o.2 ≤ k.2)) →
    ∃ u, exec (.priorityPreempt g core) s = .next u ∧ (∀ t ∈ s.teamsOn core, (u.team t).saving = true) ∧
      u.mem = s.mem) ∧
  (∀ (s : State) (t : Nat), s.saveReady t = true → t < s.teams.length → (∀ e ∈ s.log, e.team ≠ t) →
    (∀ k ∈ s.copies, k.team ≠ t) → (∀ m ∈ s.mops, m.team ≠ t) → (∀ k ∈ s.tasks, k.team ≠ t) →
    (s.team t).core < s.cores.length → (∀ k, k < s.teams.length → k ≠ t → s.takesAlong t k = false) →
    (∀ c, (s.crew t c).long = none) →
    ∃ u, exec (.instructionBoundaryStop t) s = .next u ∧ (u.team t).status = .saved ∧ (u.team t).saving = false ∧
      (∀ b ∈ (u.core (s.team t).core).blocks, b.team = t → 2 ≤ b.share) ∧ (∀ k ∈ u.slots, k.1 ≠ t) ∧
      (∀ c, SameRegs (s.crew t c) (u.crew t c)) ∧ ∀ k, k ≠ t → u.team k = s.team k) ∧
  (∀ (s : State) (t : Nat), s.stopped t = true → s.portCrews t ≠ [] →
    (∀ e ∈ s.log, e.team = t → ∀ a ∈ e.lanes, a.status.isTrapping = false) →
    ∃ u, exec (.instructionBoundaryStop t) s = .next u ∧ u.teams = s.teams ∧ u.mem = s.mem ∧
      u.log.length = s.log.length + (s.portCrews t).length) ∧
  (∀ (s : State) (t i core : Nat) (w : WaitUnit), s.backUnitOf t = some w → w.members = [(t, i)] → t < s.teams.length →
    (s.grid w.grid).record.coop = false → (s.give w core).isSome = true →
    ∃ u, exec (.teamRestore t core) s = .next u ∧ (u.team t).status = .resident ∧ (u.team t).core = core ∧
      ∀ k, k ≠ t → u.team k = s.team k) ∧
  (∀ (s : State) (core : Nat), core < s.cores.length → core / 64 < s.dies.length →
    (∃ u, exec (.coreFailure core) s = .next u ∧ (u.core core).failed = true ∧
      (u.die (core / 64)).dieFail.getLsbD (core % 64) = true ∧ ∀ t ∈ s.teamsOn core, (u.team t).saving = true) ∧
    (∃ u, exec (.coreRestart core) s = .next u ∧ (u.core core).halted = false ∧ { u with cores := s.cores } = s) ∧
    (∀ h, s.holderOf core = some h → (s.fe h).quantum ≠ 0 → (s.fe h).quantum.toNat < (s.core core).count →
      (∃ w ∈ s.allUnits, (s.grid w.grid).fe ≠ h ∧ s.coreOpen (s.grid w.grid).fe core = true ∧
        ∀ t ∈ s.teamsOn core, (s.gridOf t).fe = h → (s.gridOf t).record.prio ≤ (s.grid w.grid).record.prio) →
      ∃ u, exec (.quantumExpiry core) s = .next u ∧ (u.core core).draining = true ∧ { u with cores := s.cores } = s)) ∧
  ∀ (s : State) (core : Nat),
    let all := s.heldOn core
    let held := all.filter fun t => (s.team t).tilesAt == .held
    let wide := held.all fun t => ((s.gridOf t).record.partition.extractLsb' 10 5).toNat == 24
    let extra := all.filter fun t => (s.team t).tilesAt == .surplus
    held ≠ [] →
    (wide = true → extra = [] → ∃ u, exec (.bankSpill core) s = .next u ∧
      (∀ t ∈ held, (u.team t).tilesAt = .surplus) ∧ u.mem = s.mem) ∧
    ((wide = false ∨ extra ≠ []) → ∃ u, exec (.bankSpill core) s = .next u ∧ ∀ t ∈ held, (u.team t).tilesAt = .area)

namespace Sys2Proof.Machine

/-! ## Translation, front ends, graphs, links, migration, the host -/

/-- The translation leaves under an invalidation (R308): of the PASID, and meeting the range when there is one. -/
def Translation.named (t : Translation) (pasid : BitVec 20) (range : Option (Nat × Nat)) : Prop :=
  t.pasid = pasid ∧ ∀ lo n, range = some (lo, n) → t.page < lo + n ∧ lo < t.page + t.size

/-- An address that an invalidation reaches on a die: one of its range, or of a translation of the die that it drops (R308). -/
def State.reaches (s : State) (die : Nat) (pasid : BitVec 20) (range : Option (Nat × Nat)) (a : Nat) : Prop :=
  (∀ lo n, range = some (lo, n) → lo ≤ a ∧ a < lo + n) ∨
  ∃ t, (t ∈ (s.die die).tlb ∨ ∃ i, i < 64 ∧ t ∈ (s.core (64 * die + i)).tlb) ∧ t.named pasid range ∧ t.page ≤ a ∧
    a < t.page + t.size

/-- A state that differs from another in front end `fe` alone, which is `f`. -/
def State.withFe (s : State) (fe : Nat) (f : FrontEnd) : State := s.modFe fe fun _ => f

/-- A state that differs from another in link `k` alone, which is `l`. -/
def State.withLink (s : State) (k : Nat) (l : Link) : State := s.modLink k fun _ => l

/-- Every byte of memory keeps its value, but those of `bs` stand from `p`. -/
def Holds (s u : State) (p : Nat) (bs : List Byte) : Prop :=
  ∀ q, u.byte q = if p ≤ q ∧ q < p + bs.length then nth bs (q - p) else s.byte q

/-- The source flit, channel and format of a data frame with an uncoded payload (R445). -/
def rawFlit (frame : List Byte) : Nat × Nat × List Byte :=
  (ofBytes (frame.take 8) / 8 % 8, 0, frame.drop 8)

end Sys2Proof.Machine

open Sys2Proof Sys2Proof.Machine

/-- R306 to R311, R315: a response with a 4 KiB page of the access's tier, for which the shared cache has a place, lets every
access that waits for the page go on; without the page the access faults and fills the lowest free entry of the fault buffer; an
invalidation empties both levels and waits for the accesses that were translated through them; the driver's answer to a request
that has gone out is set once and clearing VALID frees the entry; a replay takes up every faulted access. The answers of the IOMMU
are events (log 36), engines that are no lanes ask as log 41 says, and the places of the shared cache are the model's choice (log
56). -/
def Obligations.TranslationEvents : Prop :=
  (∀ (s : State) (die pa tier h : Nat) (pasid : BitVec 20) (page : BitVec 44) (write wr : Bool) (w : PageWait),
    (s.die die).requests.find? (fun k => k.pasid == pasid && k.page == page && k.write == write) = some w →
    s.fromHost h = some (pa, tier) → 4096 ≤ tier → (write = true → wr = true) →
    (s.die die).tlb.countP (fun k => k.slot == (64, page.toNat % 768)) < 16 →
    ∃ u, exec (.atsTranslationResponse die pasid page write (some (h, 4096, wr))) s = .next u ∧ (s.lost = [] → u.mem = s.mem) ∧
      ∀ id e a lane, s.logEntry id = some e → e.acc lane = some a → a.status = .ats → e.core / 64 = die →
        (s.fe (s.feOf e.team)).pasid = pasid → a.addr.toNat / 4096 = page.toNat → (e.kind.writes = true → wr = true) →
        u.accOf id lane = some { a with status := .granted (.phys (pa + a.addr.toNat % 4096)) }) ∧
  (∀ (s : State) (die i id lane : Nat) (w : PageWait) (e : LogEntry) (a : LaneAcc), s.logEntry id = some e →
    e.acc lane = some a → (s.die die).requests.find? (fun k => k.pasid == w.pasid && k.page == w.page && k.write == w.write)
      = some w → s.askers die w = [(id, lane, e.core, s.feOf e.team)] → e.kind.silent = false → die < s.dies.length →
    (s.die die).fbuf.length = 8 → i < 8 → (nth (s.die die).fbuf i).valid = false →
    (∀ j, j < i → (nth (s.die die).fbuf j).valid = true) →
    (∀ j, j < 8 → ¬((nth (s.die die).fbuf j).valid = true ∧ (nth (s.die die).fbuf j).page = w.page)) →
    (s.die die).asking = [] →
    ∃ u, exec (.atsTranslationResponse die w.pasid w.page w.write none) s = .next u ∧ u.mem = s.mem ∧
      (u.accOf id lane).map LaneAcc.status = some (.fault (some i)) ∧
      (nth (u.die die).fbuf i).valid = true ∧ (nth (u.die die).fbuf i).page = w.page ∧
      (nth (u.die die).fbuf i).pasid = w.pasid ∧ (nth (u.die die).fbuf i).w = w.write ∧
      (nth (u.die die).fbuf i).count = 1 ∧ (nth (u.die die).fbuf i).resp = 0 ∧
      ∀ j, j ≠ i → nth (u.die die).fbuf j = nth (s.die die).fbuf j) ∧
  (∀ (s : State) (die : Nat) (pasid : BitVec 20) (range : Option (Nat × Nat)), die < 4 →
    ∃ u, exec (.atsInvalidateRequest die pasid range) s = .next u ∧
      (∀ t, t ∈ (u.die die).tlb ↔ t ∈ (s.die die).tlb ∧ ¬ t.named pasid range) ∧
      (∀ i, i < 64 → ∀ t, t ∈ (u.core (64 * die + i)).tlb ↔
        t ∈ (s.core (64 * die + i)).tlb ∧ ¬ t.named pasid range) ∧
      (die < s.dies.length →
        (∀ k, k ∈ (u.die die).fills ↔ k ∈ (s.die die).fills ∧ ¬ Translation.named k.2 pasid range) ∧
        ∃ accs, (u.die die).invals = (s.die die).invals ++ [⟨pasid, range, accs⟩] ∧
          ∀ n, n ∈ accs ↔ ∃ a, s.reaches die pasid range a ∧ n ∈ s.translatedIn die pasid fun b => b == a) ∧
      { u with dies := s.dies, cores := s.cores } = s) ∧
  (∀ (s : State) (die i : Nat) (r : Fin 4), i < (s.die die).fbuf.length → die < s.dies.length →
    ((nth (s.die die).fbuf i).valid = true → (nth (s.die die).fbuf i).sent = true → (nth (s.die die).fbuf i).resp = 0 → r ≠ 0 →
      (∀ t, (s.team t).blocked ≠ some (die, i)) →
      ∃ u, exec (.pageRequestGroupResponse die i r) s = .next u ∧
        (nth (u.die die).fbuf i).resp = BitVec.ofNat 2 r.val ∧
        (r = 1 → { u with dies := s.dies, log := s.log } = s ∧ ∀ id lane e a, s.logEntry id = some e → e.acc lane = some a →
          e.core / 64 = die → a.status = .fault (some i) → u.accOf id lane = some { a with status := .fault none })) ∧
    (((nth (s.die die).fbuf i).valid = false ∨ (nth (s.die die).fbuf i).sent = false ∨ (nth (s.die die).fbuf i).resp ≠ 0 ∨
        r = 0) →
      exec (.pageRequestGroupResponse die i r) s = .next s) ∧
    ((nth (s.die die).fbuf i).resp ≠ 0 → ∃ u, exec (.fbufValidClear die i) s = .next u ∧
      nth (u.die die).fbuf i = FaultEntry.reset ∧ { u with dies := s.dies } = s) ∧
    ((nth (s.die die).fbuf i).resp = 0 → exec (.fbufValidClear die i) s = .next s) ∧
    (∃ u, exec (.fstatDropClear die) s = .next u ∧ (u.die die).drop = false ∧ { u with dies := s.dies } = s)) ∧
  ∀ (s : State) (die : Nat), die < s.dies.length →
    ((s.die die).replaying = false → (s.log.map LogEntry.id).Nodup →
      ∃ u, exec (.replay die) s = .next u ∧ (u.die die).replaying = true ∧ (u.die die).waiting = [] ∧ u.mem = s.mem ∧
        ∀ e ∈ u.log, e.core / 64 = die → ∀ a ∈ e.lanes, a.status.isFault = false) ∧
    ((s.die die).replaying = true → ∃ u, exec (.replay die) s = .next u ∧ (u.die die).replayAgain = true ∧
      { u with dies := s.dies } = s) ∧
    (s.replayDone die = true → (s.die die).replayAgain = false →
      ∃ u, exec (.replayEnd die) s = .next u ∧ (u.die die).replaying = false ∧ { u with dies := s.dies } = s) ∧
    (s.replayDone die = false → exec (.replayEnd die) s = .next s)

/-- R400 to R404, R417: the doorbell, RINGCTL and the other registers of the command ring and the record ring; a launch record on
the ring becomes a grid or a malformed-launch record; the oldest record is written where RECWR points; clusters leave a range. The
value kept after a refused doorbell, the code of a record with several failed checks and the record of kind 5 are the model's
choices (logs 14, 12 and 13). -/
def Obligations.FrontEndEvents : Prop :=
  ∀ (s : State) (fe : Nat), fe < s.fes.length →
    let f := s.fe fe
    let n := f.ringSize.toNat
    (∀ w : BitVec 32,
      ((f.ringEn = false ∨ (w.toNat < 2 * n ∧ (w.toNat + 2 ^ 32 - f.ringRd.toNat) % (2 * n) ≤ n)) →
        exec (.ringwrDoorbell fe w) s = .next (s.withFe fe { f with ringWr := w })) ∧
      (f.ringEn = true → (2 * n ≤ w.toNat ∨ n < (w.toNat + 2 ^ 32 - f.ringRd.toNat) % (2 * n)) →
        exec (.ringwrDoorbell fe w) s = .next (s.withFe fe { f with
          stopped := true, halted := true, pending := f.pending ++ [malformedRing (w.setWidth 64) 3] }))) ∧
    (∀ v : BitVec 32,
      let size : BitVec 17 := v.extractLsb' 0 17
      (v.getLsbD 31 = false → exec (.ringctlEnable fe v) s = .next (s.withFe fe { f with ringEn := false, ringSize := size })) ∧
      (v.getLsbD 31 = true → f.ringEn = false → (∃ k, k ≤ 16 ∧ size.toNat = 2 ^ k) → isGlobal f.ringBase.toNat = true →
        f.ringBase.toNat < 2 ^ 56 →
        exec (.ringctlEnable fe v) s = .next (s.withFe fe { f with ringEn := true, ringSize := size, halted := false })) ∧
      (v.getLsbD 31 = true → (¬ ∃ k, k ≤ 16 ∧ size.toNat = 2 ^ k) →
        exec (.ringctlEnable fe v) s = .next (s.withFe fe { f with
          ringEn := true, ringSize := size, stopped := true, halted := true
          pending := f.pending ++ [malformedRing (size.setWidth 64) 0] }))) ∧
    (exec (.festatStoppedClear fe) s = .next (s.withFe fe { f with stopped := false })) ∧
    (∀ v, exec (.recrdWrite fe v) s = .next (s.withFe fe { f with recRd := v })) ∧
    (∀ b size, exec (.recbaseWrite fe (some b) (some size)) s = .next (s.withFe fe { f with
      recBase := b &&& 0x00FFFFFFFFFFFF80, recRefused := false, recSize := size, sized := true })) ∧
    (∀ bs v, s.entryDue fe = true → s.get (feDie fe) fe .frontEnd f.entryAt 256 = .ok (bs, v) → numAt bs 7 1 = 0 →
      (∀ needs, v.validate fe .frontEnd (Launch.ofBytes bs) true 0 0 = .fine needs →
        ∃ u, exec (.ringEntryTaken fe) s = .next u ∧ u.grids.length = s.grids.length + 1 ∧
          (u.grid s.grids.length).record = (Launch.ofBytes bs).cap f.ceiling ∧ (u.grid s.grids.length).needs = needs ∧
          (u.grid s.grids.length).fe = fe ∧ (u.grid s.grids.length).origin = .ring (f.ringRd.toNat % n) ∧
          (u.fe fe).ringRd.toNat = (f.ringRd.toNat + 1) % (2 * n) ∧ (u.fe fe).pending = f.pending ∧ u.mem = s.mem) ∧
      (∀ code, v.validate fe .frontEnd (Launch.ofBytes bs) true 0 0 = .malformed code →
        ∃ u, exec (.ringEntryTaken fe) s = .next u ∧ u.grids = s.grids ∧
          (u.fe fe).ringRd.toNat = (f.ringRd.toNat + 1) % (2 * n) ∧
          (u.fe fe).pending = f.pending ++ [malformedLaunch (BitVec.ofNat 64 (f.ringRd.toNat % n)) 0 code] ∧
          u.mem = s.mem)) ∧
    (∀ r rest pa, f.pending = r :: rest → f.recFull = false → s.walkRefused (feDie fe) fe 0 f.recAt true .frontEnd = false →
      (s.walk (feDie fe) fe 0 f.recAt true .frontEnd).1 = some pa →
      ∃ u, exec (.recordPost fe) s = .next u ∧ Holds s u pa (bytesOf 32 r.toNat) ∧ (u.fe fe).pending = rest ∧
        (u.fe fe).recWr.toNat = (f.recWr.toNat + 1) % (2 * f.recSize.toNat)) ∧
    (∀ v, ∃ u, exec (.partWrite fe v) s = .next u ∧ (u.fe fe).part = v &&& 0x007FFFFFFFFF3F3F ∧
      (∀ c, c ∈ (u.fe fe).removed ↔ (c ∈ f.removed ∨ c ∈ f.clusters) ∧ c ∉ (u.fe fe).clusters) ∧
      ((u.fe fe).shrinking = true ↔ f.shrinking = true ∨ (u.fe fe).removed ≠ [])) ∧
    (f.shrinking = true → s.rangeBusy fe = false → f.recBlocked = false →
      exec (.rangeShrinkComplete fe) s = .next (s.withFe fe { f with
        shrinking := false, removed := []
        pending := f.pending ++ [rangeChanged (f.part.extractLsb' 8 6).toNat] })) ∧
    (s.rangeBusy fe = true → exec (.rangeShrinkComplete fe) s = .next s) ∧
    ∀ g, s.drainPoint g = true → ∃ u, exec (.coopDrainPoint g) s = .next u ∧ u.mem = s.mem ∧
      ∀ t, t < s.teams.length → (s.team t).grid = g → (s.team t).status = .resident → (u.team t).saving = true

/-- R409, R416, R433, R434: the next node of a submission becomes a grid once its turn has come, or its record is refused; an
evicted block's producer is launched again; a redemption expands its input, runs its ranges in order, and its update node is
dropped when λ is zero, and when it is not opens its draft and becomes the next node to launch, and ends the redemption when
it retires. Without a version region d is free (log 16). -/
def Obligations.GraphEvents : Prop :=
  ∀ (s : State) (k : Nat),
    let u0 := s.sub k
    let b := s.bin u0.bin
    k < s.subs.length →
    (∀ r w, u0.isOver = false → s.nodeReady k = true → u0.live = [] → u0.evicted = [] → u0.started = true →
      s.nodeRecord k (u0.first + u0.launched) = .ok (r, w) →
      (∀ needs, w.validate u0.fe (.sub k) r true b.curves.length b.bmaps.length = .fine needs →
        ∃ v, exec (.nodeReadyLaunch k) s = .next v ∧ v.grids.length = s.grids.length + 1 ∧
          (v.grid s.grids.length).record = r.cap (s.fe u0.fe).ceiling ∧
          (v.grid s.grids.length).origin = .node k (u0.first + u0.launched) ∧ (v.grid s.grids.length).fe = u0.fe ∧
          (v.sub k).launched = u0.launched + 1) ∧
      (∀ code, w.validate u0.fe (.sub k) r true b.curves.length b.bmaps.length = .malformed code → u0.fe < s.fes.length →
        ∃ v, exec (.nodeReadyLaunch k) s = .next v ∧ v.grids = s.grids ∧ (v.sub k).failed = true ∧
          (v.fe u0.fe).pending = (s.fe u0.fe).pending ++
            [malformedLaunch (s.nodeIndex k (u0.first + u0.launched)) 1 code])) ∧
    (∀ i g, s.replayDue k i = true → u0.live = [] →
      u0.grids.find? (fun q => q.1 == (nth b.blocks i).producer) = some ((nth b.blocks i).producer, g) →
      ∃ v, exec (.replayGridLaunch k i) s = .next v ∧ v.grids.length = s.grids.length + 1 ∧
        (v.grid s.grids.length).record = (s.grid g).record ∧ (v.grid s.grids.length).replay = true ∧
        (v.grid s.grids.length).origin = .node k (nth b.blocks i).producer) ∧
    ∀ r, u0.redemption = some r →
      (s.subTurn k = true → u0.failed = false →
        (∀ v, r.stage = .expand → s.expandInput k r = .ok v → v.subs = s.subs →
          ∃ w, exec (.redemptionRun k) s = .next w ∧ w.mem = v.mem ∧
            (w.sub k).redemption = some { r with stage := .forward }) ∧
        (r.stage = .forward → u0.rangeDone = true →
          ∃ w, exec (.redemptionRun k) s = .next w ∧ w.mem = s.mem ∧
            (w.sub k).redemption = some { r with stage := .backward } ∧ (w.sub k).launched = 0 ∧
            (w.sub k).first = (s.ticketClass k).bwdFirst ∧
            (w.sub k).count = (s.ticketClass k).bwdLast + 1 - (s.ticketClass k).bwdFirst)) ∧
      (∀ v h q, s.updateReady k = true → r.region ≠ 0 → r.lambda = none →
        s.versionHead (feDie u0.fe) u0.fe (.sub k) r.region = .ok (h, q) →
        let c := s.ticketClass k
        let x := nth c.lambda (h % 2 ^ 32 - r.version.toNat)
        let p := q.modRedemption k fun r => { r with lambda := some x }
        (x.toNat % 2 ^ 31 = 0 → p.dropRedemption k r = .ok v → v.subs.length = s.subs.length →
          ∃ w, exec (.updateNodeReady k) s = .next w ∧ w.mem = v.mem ∧ (w.sub k).finished = true ∧ w.grids = v.grids) ∧
        (x.toNat % 2 ^ 31 ≠ 0 → p.openDraft (feDie u0.fe) u0.fe (.sub k) r.region = .ok (0, v) → v.subs = p.subs →
          ∃ w, exec (.updateNodeReady k) s = .next w ∧ w.mem = v.mem ∧ w.grids = v.grids ∧
            (w.sub k).redemption = some { r with
              lambda := some x, uscale := updateScale c.eta x, drafting := true, stage := .update } ∧
            (w.sub k).next = c.update ∧ (w.sub k).count = 1)) ∧
      (∀ v, s.updateRetired k = true → r.drafting = false → s.commitUpdate k r = .ok v → v.subs.length = s.subs.length →
        ∃ w, exec (.updateNodeRetire k) s = .next w ∧ w = v ∧ (w.sub k).finished = true)

/-- R445, R447 to R450: a frame with the expected number whose check holds is accepted and acknowledged, any other is discarded
with a retry request; a frame that leaves is kept until its acknowledgement and leaves again on a retry request; training
resets the tables; nothing crosses an untrained link. A control frame has a header, a SEQ and a check as a data frame has, and one
whose check fails is discarded with a retry request; its payload is free (log 34). -/
def Obligations.LinkFrames : Prop :=
  ∀ (s : State) (k : Nat), k < s.links.length →
    let l := s.link k
    (l.trained = false → ∀ inc fr, exec (.wenandDataFrame k inc fr) s = .next s ∧
      exec (.wenandAcknowledgement k fr) s = .next s ∧ exec (.wenandRetryRequest k fr) s = .next s) ∧
    (∀ kind seq, kind < 4 → controlSeq kind (controlFrame kind seq) = some seq) ∧
    let again : Link := { l with wire := l.wire ++ [.frame (controlFrame 2 l.rx.seq)] }
    (l.trained = true → ∀ fr,
      ((frameOk fr = false ∨ ofBytes (fr.take 8) / 2 ^ 20 % 2 ^ 12 ≠ l.rx.seq.toNat) →
        exec (.wenandDataFrame k true fr) s = .next (s.withLink k again)) ∧
      (frameOk fr = true → ofBytes (fr.take 8) / 2 ^ 20 % 2 ^ 12 = l.rx.seq.toNat → ofBytes (fr.take 8) / 2 ^ 8 % 8 = 0 →
        exec (.wenandDataFrame k true fr) s = .next (s.withLink k { l with
          wire := l.wire ++ [.frame (controlFrame 1 l.rx.seq)], received := l.received ++ [rawFlit fr]
          rx := { l.rx with seq := l.rx.seq + 1 } })) ∧
      (ofBytes (fr.take 8) / 2 ^ 8 % 8 < 6 →
        ∃ f, exec (.wenandDataFrame k false fr) s = .next (s.withLink k { l with
            wire := l.wire ++ [.frame (KeptFrame.bytes f)]
            tx := { tables := (l.tx.learn f.chan.val f.fmt.val f.flit).tables, seq := l.tx.seq + 1, kept := l.tx.kept ++ [f] } }) ∧
          f.seq = l.tx.seq ∧ f.flit = fillTo 256 ((fr.drop 8).take 256) ∧ f.chan.val = ofBytes (fr.take 8) / 2 ^ 3 % 8 ∧
          f.fmt.val = ofBytes (fr.take 8) / 2 ^ 8 % 8 ∧
          (f.payload, f.coded) = codeFlit (nth l.tx.tables (tableIndex f.chan.val f.fmt.val)) f.fmt.val f.flit)) ∧
    (l.trained = true → ∀ fr,
      (controlSeq 1 fr = none → exec (.wenandAcknowledgement k fr) s = .next (s.withLink k again)) ∧
      (controlSeq 2 fr = none → exec (.wenandRetryRequest k fr) s = .next (s.withLink k again)) ∧
      ∀ old f new, l.tx.kept = old ++ f :: new → (∀ g ∈ old, g.seq ≠ f.seq) →
        (controlSeq 1 fr = some f.seq →
          exec (.wenandAcknowledgement k fr) s = .next (s.withLink k { l with tx := { l.tx with kept := new } })) ∧
        (controlSeq 2 fr = some f.seq →
          exec (.wenandRetryRequest k fr) s = .next (s.withLink k { l with
            wire := l.wire ++ (f :: new).map fun g => WireFrame.frame g.bytes }))) ∧
    (l.trained = true → l.tx.kept = [] →
      exec (.wenandRetrain k) s = .next ((s.withLink k { l with
        wire := l.wire ++ [.frame (controlFrame 3 l.tx.seq)]
        tx := { l.tx with tables := freshTables }, rx := { l.rx with tables := freshTables } }).pullAgain k)) ∧
    (l.trained = false → s.routeNames k = true → l.tx.kept = [] →
      exec (.wenandLinkTrained k) s = .next ((s.withLink k { l with
        trained := true, tx := { l.tx with tables := freshTables }
        rx := { l.rx with tables := freshTables } }).flushOutbox.pullAgain k)) ∧
    exec (.wenandLinkFailure k) s = .next (s.withLink k { l with trained := false })

/-- R450, R451, R455, R456, R468: the answer of a peer goes to the access that waits for it, and a refusal is the address trap,
once the lane's earlier accesses have been performed (R229); a page is pulled once and what waited for it goes on when it has
landed. Another device's access is refused beyond the front end's pages, sent on from a page that has been handed off, and else
performed and answered on the link by which it came. What peers do are events of the agenda (log 36). -/
def Obligations.PeersAndPages : Prop :=
  (∀ (s : State) (id lane pa : Nat) (e : LogEntry) (a : LaneAcc), Waits s id lane e a → lane < 16 →
    (a.status = .peer (.phys pa) → s.routed (e.core / 64) pa = true →
      (∀ d bs, e.kind = .ld .b32 (.v d) → bs.length = 4 →
        ∃ u, exec (.peerAccess id lane (some bs)) s = .next u ∧ u.mem = s.mem ∧
          ((u.crew e.team e.crew).v d.val lane).toNat = ofBytes bs) ∧
      (e.uniform = false → lane < (s.crew e.team e.crew).threads.length → (s.team e.team).status = .resident →
        (s.gridOf e.team).record.disposition 6 = 0 → (s.crew e.team e.crew).inState Thread.inh = 0 →
        ((s.crew e.team e.crew).th lane).state ≠ .exited → s.earlierDone e a = true → e.posted = false → a.released = false →
        (∀ b ∈ e.lanes, b = a ∨ (b.lane ≠ lane ∧ b.status = .done)) →
        ∃ u, exec (.peerAccess id lane none) s = .next u ∧ u.mem = s.mem ∧
          ((u.crew e.team e.crew).th lane).state = .parked ∧ ((u.crew e.team e.crew).th lane).tcause = 6 ∧
          ((u.crew e.team e.crew).th lane).tinfo = 0x20 ∧ ((u.crew e.team e.crew).th lane).pc = e.pc)) ∧
    (∀ op d fe i p w, a.status = .forwarded fe i p → e.kind = .atom op .b32 (.v d) →
      ∃ u, exec (.forwardedAtomic id lane (some w)) s = .next u ∧ u.mem = s.mem ∧
        (u.crew e.team e.crew).v d.val lane = w.setWidth 32)) ∧
  (∀ (s : State) (fe i : Nat) (bs : List (Nat × Byte)), fe < s.fes.length → i < (s.fe fe).landing.length →
    (s.fe fe).migState = .resumed →
    ((nth (s.fe fe).landing i).wanted = true → (nth (s.fe fe).landing i).pstate = 0 →
      ∃ u, exec (.pagePull fe i) s = .next u ∧ (nth (u.fe fe).landing i).pstate = 1) ∧
    ((nth (s.fe fe).landing i).pstate = 1 →
      ∃ u, exec (.pageLanded fe i bs) s = .next u ∧ (nth (u.fe fe).landing i).pstate = 2 ∧
        ∀ id lane a p, s.accOf id lane = some a → a.status = .pulling fe i p →
          u.accOf id lane = some { a with status := .ready p })) ∧
  ∀ (s : State) (k fe offset : Nat) (op : PeerOp), k < s.links.length →
    let f := s.fe fe
    let page := offset / 2 ^ 21
    let answered (u : State) (r : Option (List Byte)) : Prop := (u.link k).wire = (s.link k).wire ++ [.message (.answer r)]
    ((s.link k).trained = false → ∀ moved, exec (.forwardingStubAccess k fe offset ⟨moved, op⟩) s = .next s) ∧
    ((s.link k).trained = true → (∀ r, op ≠ .reply r) →
      ((page ∈ f.cleared ∨ f.ownsPage page = false) →
        ∃ u, exec (.forwardingStubAccess k fe offset ⟨false, op⟩) s = .next u ∧ answered u none ∧ { u with links := s.links } = s) ∧
      (page ∉ f.cleared → f.ownsPage page = true →
        (page ∈ f.stubs → exec (.forwardingStubAccess k fe offset ⟨false, op⟩) s = .next
          ((s.sendPeer (feDie fe) f.migPeer.toNat (.forward offset op)).modFe fe fun f =>
            { f with sentOn := f.sentOn ++ [(k, offset)] })) ∧
        (page ∉ f.stubs → (∀ j ∈ f.landing, j.land / 2 ^ 21 ≠ page) →
          (∀ bs, op = .write bs → ∃ u, exec (.forwardingStubAccess k fe offset ⟨false, op⟩) s = .next u ∧
            Holds s u offset bs ∧ answered u (some [])) ∧
          ∀ n, op = .read n → ∃ u, exec (.forwardingStubAccess k fe offset ⟨false, op⟩) s = .next u ∧ u.mem = s.mem ∧
            answered u (some ((List.range n).map fun j => s.byte (offset + j))))))

/-- R452 to R454, R456: the states of a migration. GO makes an idle front end quiesce, its teams saved, or receive; a quiet source
sends and has sent: what it holds leaves for the peer, and the target that has room takes it in; RESUME reads the landing list;
ABORT before RESUME abandons the move, at the source until a page has been handed off; CLEAR ends at idle. Each change of state
posts a record; records of the tenant that still wait go with the move and come back with an abort. The corners of a migration and
the ring after CLEAR are the model's readings (logs 28 and 40). -/
def Obligations.MigrationStates : Prop :=
  ∀ (s : State) (fe : Nat), fe < s.fes.length →
    let f := s.fe fe
    let moved (u : State) (m : MigState) (code : Nat) : Prop :=
      (u.fe fe).migState = m ∧ (u.fe fe).pending = f.pending ++ [stateChanged code]
    (∀ peer other, f.migState.still = false →
      (∃ u, exec (.migctlGoSource fe peer other) s = .next u ∧ moved u .quiescing 1 ∧ (u.fe fe).migPeer = peer ∧
        (u.fe fe).migFe = other ∧ ∀ t, t < s.teams.length → (s.gridOf t).fe = fe → (s.team t).status = .resident →
          (u.team t).saving = true) ∧
      (∃ u, exec (.migctlGoTarget fe peer other) s = .next u ∧ moved u .receiving 4 ∧ (u.fe fe).migPeer = peer ∧
        (u.fe fe).migFe = other ∧ { u with fes := s.fes } = s)) ∧
    (∀ p, f.migState = .quiescing →
      ((∀ t, t < s.teams.length → (s.gridOf t).fe = fe → (s.team t).status ≠ .resident) →
        ∃ u, exec (.migrationSendComplete fe p) s = .next u ∧ moved u .sending 2 ∧ { u with fes := s.fes } = s) ∧
      ((∃ t, t < s.teams.length ∧ (s.gridOf t).fe = fe ∧ (s.team t).status = .resident) →
        exec (.migrationSendComplete fe p) s = .next s)) ∧
    (∀ p, f.migState = .sending →
      ((∃ tm ∈ s.teams, (s.grid tm.grid).fe = fe ∧ tm.blocked ≠ none) → exec (.migrationSendComplete fe p) s = .next s) ∧
      ∀ l v, (∀ tm ∈ s.teams, (s.grid tm.grid).fe = fe → tm.blocked = none) → s.readTables fe = .ok (l, v) →
        let left := FabricMsg.state (v.parcelOf fe l)
        ∃ u, exec (.migrationSendComplete fe p) s = .next u ∧ (u.fe fe).migState = .sent ∧
          (u.fe fe).pending = f.pending.filter isMigRecord ++ [stateChanged 3] ∧
          (u.fe fe).sentRecords = f.pending.filter (fun r => !isMigRecord r) ∧
          (∀ k, v.linkTo (feDie fe) f.migPeer.toNat = some k → k < s.links.length →
            (u.link k).wire = (s.link k).wire ++ [.message left]) ∧
          (v.linkTo (feDie fe) f.migPeer.toNat = none → u.outbox = s.outbox ++ [(feDie fe, f.migPeer.toNat, left)]) ∧
          { u with fes := v.fes, links := v.links, outbox := v.outbox } = v) ∧
    (∀ p, f.migState = .receiving → f.saveOk = true →
      p.reach + { f with tables := p.tables }.tableBytes ≤ f.saveSize.toNat →
      ∃ u, exec (.migrationSendComplete fe p) s = .next u ∧ (u.fe fe).migState = .receiving ∧
        u.teams.length = s.teams.length + p.teams.length ∧ u.grids.length = s.grids.length + p.grids.length ∧
        (u.fe fe).ringRd = p.regs.ringRd ∧ (u.fe fe).recWr = p.regs.recWr ∧ (∀ t, t < s.teams.length → u.team t = s.team t) ∧
        ∀ i, i < p.grids.length → (u.grid (s.grids.length + i)).fe = fe ∧
          (u.grid (s.grids.length + i)).record = (nth p.grids i).record) ∧
    (∀ p o bs, f.migState = .receiving → f.saveOk = true → p.area = [(o, bs)] → p.tables = [] →
      o + bs.length ≤ f.saveSize.toNat →
      ∃ u, exec (.migrationSendComplete fe p) s = .next u ∧ Holds s u (f.saveBase.toNat + o) bs) ∧
    (∀ bs v, f.migState = .receiving → s.get (feDie fe) fe .frontEnd f.migLand.toNat (16 * f.migCount.toNat) = .ok (bs, v) →
      ∃ u, exec (.migctlResume fe) s = .next u ∧ moved u .resumed 5 ∧ (u.fe fe).landing.length = f.migCount.toNat ∧
        { u with fes := v.fes } = v) ∧
    (f.migState ≠ .receiving → exec (.migctlResume fe) s = .next s) ∧
    ((f.migState = .quiescing ∨ f.migState = .sending) →
      ∃ u, exec (.migctlAbort fe) s = .next u ∧ moved u .aborted 6 ∧ { u with fes := s.fes } = s) ∧
    (f.migState = .sent →
      (f.stubs = [] → ∃ u, exec (.migctlAbort fe) s = .next u ∧ (u.fe fe).migState = .aborted ∧
        (u.fe fe).pending = f.sentRecords ++ f.pending ++ [stateChanged 6] ∧ { u with fes := s.fes } = s) ∧
      (f.stubs ≠ [] → exec (.migctlAbort fe) s = .next s)) ∧
    (f.migState = .receiving → ∃ u, exec (.migctlAbort fe) s = .next u ∧ moved u .aborted 6 ∧ u.mem = s.mem ∧
      ∀ g, g < s.grids.length → (s.grid g).fe = fe → (u.grid g).retired = true) ∧
    (f.migState = .resumed → exec (.migctlAbort fe) s = .next s) ∧
    (f.migState = .aborted →
      ∃ u, exec (.migctlClear fe) s = .next u ∧ moved u .idle 0 ∧ (u.fe fe).stubs = [] ∧ { u with fes := s.fes } = s) ∧
    (f.migState = .sent →
      ∃ u, exec (.migctlClear fe) s = .next u ∧ moved u .idle 0 ∧ (u.fe fe).stubs = [] ∧ u.mem = s.mem)

/-- R466, R469, R471 to R474: a function-level reset leaves the rings empty and disabled and no grid of the front end running;
BAR2 and BAR4 read and write HBM and refuse addresses past it; a register reads at its own width, and an offset without one zero;
the fused minimum only rises, to the SVN of the accepted image; a die boots its first image that stands; the limits of temperature
hold placement and save teams. Images, keys, digests and the reply are the model's (logs 10 and 35), what the host does are events
(log 36). -/
def Obligations.HostAndBringUp : Prop :=
  (∀ (s : State) (fe : Nat), fe < s.fes.length →
    ∃ u, exec (.functionLevelReset fe) s = .next u ∧ (u.fe fe).ringEn = false ∧ (u.fe fe).ringWr = 0 ∧
      (u.fe fe).ringRd = 0 ∧ (u.fe fe).recWr = 0 ∧ (u.fe fe).recRd = 0 ∧ (u.fe fe).pending = [] ∧
      (u.fe fe).stopped = false ∧ (u.fe fe).part = (s.fe fe).part ∧ (u.fe fe).quantum = (s.fe fe).quantum ∧
      (u.fe fe).saveBase = (s.fe fe).saveBase ∧ u.mem = s.mem ∧
      (∀ g, g < s.grids.length → (s.grid g).fe = fe → (u.grid g).retired = true) ∧
      ∀ t, t < s.teams.length → (s.gridOf t).fe = fe → (s.gridOf t).retired = false → (s.team t).grid < s.grids.length →
        (u.team t).phaseDone = true) ∧
  (∀ (s : State) (o n : Nat) (r : Bool) (w : Word64),
    (640000000000 < o + n → ∀ v, exec (.hostBar2Access o n v r) s = .next { s with reply := [], unsupported := true } ∧
      exec (.hostBar4Access o n v) s = .next { s with reply := [], unsupported := true }) ∧
    (o + n ≤ 640000000000 →
      (∃ u, exec (.hostBar2Access o n (some w) r) s = .next u ∧ Holds s u o (bytesOf n w.toNat)) ∧
      (∃ u, exec (.hostBar2Access o n none r) s = .next u ∧ u.reply = (List.range n).map (fun i => s.byte (o + i)) ∧
        u.mem = s.mem) ∧
      ((∀ l ∈ s.llc, ∀ k ∈ l, k.line ∉ linesAt o n) →
        (∃ u, exec (.hostBar4Access o n (some w)) s = .next u ∧ Holds s u o (bytesOf n w.toNat)) ∧
        ∃ u, exec (.hostBar4Access o n none) s = .next u ∧ u.reply = (List.range n).map (fun i => s.byte (o + i)) ∧
          u.mem = s.mem))) ∧
  (∀ (s : State) (pf : Fin 2) (vf : Option (Fin 8)) (nonce : List Byte), nonce.length = 32 →
    ∃ u, exec (.attestationRequest pf vf nonce) s = .next u ∧ u.reply.take 32 = nonce ∧
      { u with reply := s.reply, unsupported := s.unsupported } = s) ∧
  (∀ (s : State) (die : Nat) (svn : BitVec 32), die < s.dies.length →
    ∃ u, exec (.fusedMinimumRaise die svn) s = .next u ∧ (s.die die).minSvn.toNat ≤ (u.die die).minSvn.toNat ∧
      (∀ k, (s.die die).accepted = some k → svn.toNat = imageSvn (s.imageOf die k) →
        (s.die die).minSvn.toNat < svn.toNat → (u.die die).minSvn = svn) ∧
      ((s.die die).accepted = none → u = s)) ∧
  (∀ (s : State) (die : Nat), die < s.dies.length → (s.die die).up = false →
    (s.imageRefused die 0 = none → ∃ u, exec (.deviceResetBoot die ⟨true, []⟩) s = .next u ∧
      (u.die die).accepted = some 0 ∧ (u.die die).up = true ∧ (u.ready = true ↔ ∀ d ∈ u.dies, d.up = true)) ∧
    (∀ r, s.imageRefused die 0 = some r → s.imageRefused die 1 = none →
      ∃ u, exec (.deviceResetBoot die ⟨true, []⟩) s = .next u ∧ (u.die die).accepted = some 1 ∧ (u.die die).up = true ∧
        u.boot = BitVec.ofNat 3 r) ∧
    (∀ r q, s.imageRefused die 0 = some r → s.imageRefused die 1 = some q → ∀ m,
      ∃ u, exec (.deviceResetBoot die ⟨m, []⟩) s = .next u ∧ (u.die die).inReset = true ∧ (u.die die).up = false ∧
        u.ready = s.ready) ∧
    (s.imageRefused die 0 = none → ∃ u, exec (.deviceResetBoot die ⟨false, []⟩) s = .next u ∧ (u.die die).up = false ∧
      u.boot = 3) ∧
    ∀ k bs m, k < (s.die die).written.length → ∃ u, exec (.deviceResetBoot die ⟨m, [(k, bs)]⟩) s = .next u ∧
      u.imageOf die k = bs) ∧
  (∀ (s : State) (die c : Nat), die < s.dies.length → die < 4 →
    ∃ u, exec (.thermalLimit die c) s = .next u ∧
      (c < 90 → (u.die die).thermal = false ∧ (u.die die).thermalHold = false ∧ u.therm.getLsbD die = false) ∧
      (90 ≤ c → c ≤ 95 → u = s) ∧ (95 < c → (u.die die).thermal = true ∧ u.therm.getLsbD die = true) ∧
      (105 ≤ c → (u.die die).thermalHold = true ∧
        ∀ t, t < s.teams.length → (s.team t).core / 64 = die → (s.team t).status = .resident → (u.team t).saving = true)) ∧
  ∀ (s : State) (pf : Fin 2) (n : Nat) (v : Word64), n < 8 → 8 * pf.val + n < s.fes.length →
    (∀ off, ∃ u, exec (.registerWrite pf (some (Fin.ofNat 8 n)) off none) s = .next u ∧ u.unsupported = false ∧
      { u with reply := s.reply, unsupported := s.unsupported } = s ∧ (0x180 ≤ off → u.reply = List.replicate 8 0) ∧
      (off = 0 → u.reply = bytesOf 8 (s.fe (8 * pf.val + n)).ringBase.toNat) ∧
      (off = 0x0C → u.reply = bytesOf 4 (s.fe (8 * pf.val + n)).ringWr.toNat) ∧
      (off = 0x38 → u.reply = bytesOf 8 (s.fe (8 * pf.val + n)).quantum.toNat)) ∧
    (∃ u, exec (.registerWrite pf none (0x400000 + 0x10000 * n + 0x38) (some v)) s = .next u ∧
      (u.fe (8 * pf.val + n)).quantum = v.setWidth 32 ∧ { u with fes := s.fes } = s) ∧
    exec (.registerWrite pf (some (Fin.ofNat 8 n)) 0x38 (some v)) s = .next s ∧
    ∃ u, exec (.registerWrite pf (some (Fin.ofNat 8 n)) 0 (some v)) s = .next u ∧
      (u.fe (8 * pf.val + n)).ringBase = v &&& 0x00FFFFFFFFFFF000 ∧ { u with fes := s.fes } = s

/-! ## The step, the encoding, reset, memory's form -/

/-- R47, R65, R75, R77, R78: with nothing on the agenda, the crew at the head of the issue slots that holds a bundle at a word
that decodes to an instruction of its clause, waits for nothing and finds no register outstanding, runs exactly that instruction,
and its slot is used up; only where a 65th record would have to wait inside a front end does the step wait instead (R403). What an
instruction leaves to those that read its results is stated (R136, R163, R270). Then a stalled instruction leaves the bundle where
it is, or at the header that it has just passed (R48), and the crew was not eligible unless it has selected its run in this cycle
(R78); another one counts against the issues of the cycle, and its bundle goes to the next word, from the last word of a clause to
the clause that follows, or, with the switch marker, leaves with the results to wait for. That a stalled instruction keeps its
bundle is the model's reading (log 20), and the cycles of a division or square root are free (log 52). -/
def Obligations.StepRunsDecodedInstruction : Prop :=
  (∀ (s : State) (t c : Nat) (rest : List (Nat × Nat)) (w : Word64) (i : Instr) (f : Info),
    let cr := s.crew t c
    let im := s.image t
    let p := cr.bundlePc
    s.agenda = [] → s.slots = (t, c) :: rest → s.budget ≠ 0 → s.issues? t c = true → cr.bundle ≠ 0 →
    s.stageWaits t c = false → (∀ l ∈ lanesOf cr.bundle, s.threadFree t c (cr.th l) = true) → im.marked p = false →
    im.word p = some w → decode w = .ok i → info i = some f → im.placed p f = true →
    (cr.long = none → cr.held (f.srcs ++ f.dsts) = false ∧ (namesFlags i && cr.flagsOut) = false) →
    let x : Cur := ⟨t, c, im.headerOf p, p, w, false⟩
    let k : State := { s with slots := rest, cur := some x }
    (∀ u, exec i k = .next u →
        let v := (u.issued k t c i).finish t c x
        step s = .next (if s.overflows v then s.putOff else v)) ∧
      (∀ e, exec i k = .fault e → step s = .fault e) ∧ ∀ e, exec i k = .refused e → step s = .refused e) ∧
  (∀ (u s : State) (t c : Nat) (i : Instr) (y : Cur) (x : Issue), u.cur = some y → s.issuing i = some x →
    let slow := s.slowOf x i (x.act &&& ~~~s.trapped u x)
    ((u.team t).kills ≠ (s.team t).kills → u.issued s t c i = u) ∧
    ((u.team t).kills = (s.team t).kills → (slow = none ∨ y.stalled = true) →
      ∃ old, u.issued s t c i = u.modCrew t c fun cr => { cr with stale := old }) ∧
    ((u.team t).kills = (s.team t).kills → ∀ rs n fp, slow = some (rs, n, fp) → y.stalled = false →
      ∃ old, u.issued s t c i = { u.modCrew t c fun cr => { cr with
        stale := old, outs := cr.outs ++ [⟨u.nextId, rs, some (n - 1), fp⟩] } with nextId := u.nextId + 1 })) ∧
  ∀ (u : State) (t c : Nat) (x y : Cur), u.cur = some y →
    let old : Crew := { u.crew t c with lastIssue := u.issues, age := 0, headed := none }
    let im := u.image t
    ((u.team t).status ≠ .resident → u.finish t c x = { u with cur := none }) ∧
    (y.stalled = true → (u.team t).status = .resident → u.hasCrew t c →
      ((u.crew t c).headed = none →
        u.finish t c x = { u.modCrew t c fun cr => { cr with age := if cr.picked then cr.age else 0 } with cur := none }) ∧
      ∀ seals, (u.crew t c).headed = some seals →
        ∃ cr, u.finish t c x = { u.modCrew t c fun _ => cr with cur := none } ∧
          ChangedThreads { u.crew t c with
              age := if (u.crew t c).picked then (u.crew t c).age else 0, headed := none, seals := seals } cr (u.crew t c).bundle
            (fun _ th => { th with pc := th.pc - 8 }) (u.crew t c).bundle) ∧
    (y.stalled = false → u.hasCrew t c → (u.team t).status = .resident → old.bundle ≠ 0 →
      let ends (cr : Crew) : Prop := u.finish t c x = { u.modCrew t c fun _ => cr with cur := none, budget := u.budget - 1 }
      (wordSw x.word = false → (im.after x.pc).2 = false →
        ∃ cr, ends cr ∧ ChangedThreads old cr old.bundle (fun _ th => { th with pc := x.pc + 8 }) old.bundle) ∧
      (wordSw x.word = false → (im.after x.pc).2 = true → im.plainHeaderAt (x.pc + 8) → old.JoinsWait →
        old.hasLane old.bundle → (∀ l, l < 16 → old.bundle.getLsbD l = true → (old.th l).plainFall (x.pc + 8)) →
        ∃ cr, ends cr ∧ ChangedThreads old cr old.bundle (fun _ th => { th with state := .active, pc := x.pc + 8 }) 0) ∧
      (wordSw x.word = true → (im.after x.pc).2 = false → old.JoinsWait → old.hasLane old.bundle →
        (∀ l, l < 16 → old.bundle.getLsbD l = true → (old.th l).pc = x.pc) →
        ∃ cr, ends cr ∧ ChangedThreads old cr old.bundle
          (fun _ th => { th with awaits := old.outs.map Outstanding.id, state := .active, pc := x.pc + 8 }) 0))

/-- R52 to R59: words that the spec itself writes out, one or more of each family. -/
def Obligations.DecodingOfWords : Prop :=
  let g : Guard := ⟨false, false, 15⟩
  decode 0x0D7801C078400100 = .ok (.shl g false (.v 0) (.sp .lane) (.con 2)) ∧
  decode 0xE478038000000200 = .ok (.ld ⟨true, false, 15⟩ .b32 .generic .none .none (.v 1) ⟨.s 0, .v 0, 0⟩) ∧
  decode 0x20080200FE000700 = .ok (.fadd ⟨false, false, 1⟩ .f32 .rne 1 (.v 1) (.con 48)) ∧
  decode 0x4178018280007800 = .ok (.brx g (.s 5) 15) ∧
  decode 0x409000000000D800 = .ok (.bra ⟨false, true, 2⟩ 27) ∧
  decode 0x15780D80001E0502 = .ok (.lea g false 2 (.v 6) (.s 0) (.v 0) (.con 0)) ∧
  decode 0x2C780A0080007604 = .ok (.fcvt g (.wide .f16 .f32 .rne true) 5 (.v 1)) ∧
  decode 0x59780C02783E0101 = .ok (.shfl g false .up 6 (.v 4) (.con 1) (.con 0)) ∧
  decode 0x65780202F8101A80 = .ok (.st g .b32 (.peer 2) .none .none (.v 1) ⟨.v 5, .con 0, 3⟩) ∧
  decode 0x68780580006E0300 = .ok (.atom g .add .s32 .generic .rel .dev 2 (.s 0) (.v 3)) ∧
  decode 0x7078060160D00001 = .ok (.cp g .s2g .q 3 2 none (some (.s 6))) ∧
  decode 0x777820200C00C803 = .ok (.mmaw g 3 16 64 96 3 1) ∧
  decode 0x7A78503001000F0A = .ok (.mmaDnb g false 2 40 96 8 0 1) ∧
  decode 0x7C7E098361000008 = .ok (.tkredeem g 4 6 8) ∧
  decode 0x7E78000000000000 = .ok (.rft g)

/-- R52 to R59, R66: the word of every well-formed instruction decodes to it, with every operand and modifier at every value that
the encoding admits; and a word that decodes is the word of the instruction, which is well formed, but for the rank bits of an
atomic whose aperture has no rank, to which no rule gives a meaning (log 44). -/
def Obligations.EncodeDecodeRoundTrip : Prop :=
  (∀ (i : Instr) (f : Info), info i = some f → i.wf = true → ∃ w, encode i = some w ∧ decode w = .ok i) ∧
  ∀ (w : Word64) (i : Instr), decode w = .ok i → i.wf = true ∧ encode i = some (meantWord w)

/-- R309, R349, R399, R462, R471: after a reset the registers of the front ends, the fault buffers and the device read zero,
nothing is placed, and READY waits for the four dies; memory is canonical and lists nothing. That a byte not listed reads zero is
the model's own choice (log 1), as are the values of registers without a reset value (log 2). -/
def Obligations.ResetState : Prop :=
  let s := State.reset
  Memory.wf s ∧ s.mem = [] ∧ s.teams = [] ∧ s.grids = [] ∧ s.log = [] ∧ s.ready = false ∧ s.boot = 0 ∧ s.therm = 0 ∧
  s.cores.length = 256 ∧ s.dies.length = 4 ∧ s.fes.length = 16 ∧ s.links.length = 12 ∧ s.peers.length = 64 ∧
  (∀ n, n < 16 → (s.fe n).ringBase = 0 ∧ (s.fe n).ringEn = false ∧ (s.fe n).ringSize = 0 ∧ (s.fe n).ringWr = 0 ∧
    (s.fe n).ringRd = 0 ∧ (s.fe n).recBase = 0 ∧ (s.fe n).recSize = 0 ∧ (s.fe n).recWr = 0 ∧ (s.fe n).recRd = 0 ∧
    (s.fe n).part = 0 ∧ (s.fe n).quantum = 0 ∧ (s.fe n).saveBase = 0 ∧ (s.fe n).saveSize = 0 ∧
    (s.fe n).stopped = false ∧ (s.fe n).shrinking = false ∧ (s.fe n).migState = .idle) ∧
  (∀ d, d < 4 → (s.die d).drop = false ∧ (s.die d).replaying = false ∧ (s.die d).dieFail = 0 ∧ (s.die d).up = false ∧
    (∀ i, i < 8 → nth (s.die d).fbuf i = FaultEntry.reset) ∧ ∀ r ∈ (s.die d).routes, r = 0) ∧
  ∀ r ∈ s.cxlBase ++ s.cxlLimit ++ s.peers, r = 0

/-- R4 with log 1: whatever a step does, instruction or event, memory keeps its canonical form: addresses strictly rising and no
byte listed that reads as an unlisted one, so that equal memories are equal data. -/
def Obligations.MemoryStaysCanonical : Prop :=
  ∀ (s s' : State), Memory.wf s → step s = .next s' → Memory.wf s'

/-- R48, R75: from every state whose agenda holds only events a step goes on: it ends in no fault and no refusal, whatever
instruction stands at issue and whatever event comes. -/
def Obligations.StepGoesOn : Prop := ∀ (s : State), (∀ i ∈ s.agenda, info i = none) → Safe (step s)
end

