-- ==== Sys2Proof/Laws/Sparse.lean ====
section
/-! SUPPORT. Lists by number and sparse storage: what a read gives after a write, and that every write keeps the canonical
form. -/

namespace Sys2Proof.Machine

/-! ## Lists by number -/

@[simp] theorem upd_nil {α : Type} (i : Nat) (f : α → α) : upd ([] : List α) i f = [] := rfl

@[simp] theorem upd_length {α : Type} (l : List α) (i : Nat) (f : α → α) : (upd l i f).length = l.length := by
  induction l generalizing i with
  | nil => rfl
  | cons a r ih => cases i <;> simp [upd, ih]

@[simp] theorem nth_nil {α : Type} [Inhabited α] (i : Nat) : nth ([] : List α) i = default := by cases i <;> rfl

theorem nth_beyond {α : Type} [Inhabited α] {l : List α} {i : Nat} (h : l.length ≤ i) : nth l i = default := by
  induction l generalizing i with
  | nil => simp
  | cons a r ih =>
    cases i with
    | zero => simp at h
    | succ n => exact ih (by simpa using h)

theorem nth_upd_same {α : Type} [Inhabited α] {l : List α} {i : Nat} (h : i < l.length) (f : α → α) :
    nth (upd l i f) i = f (nth l i) := by
  induction l generalizing i with
  | nil => simp at h
  | cons a r ih =>
    cases i with
    | zero => rfl
    | succ n => exact ih (by simpa using h)

theorem nth_upd_ne {α : Type} [Inhabited α] (l : List α) {i j : Nat} (h : j ≠ i) (f : α → α) :
    nth (upd l i f) j = nth l j := by
  induction l generalizing i j with
  | nil => simp
  | cons a r ih =>
    cases i with
    | zero =>
      cases j with
      | zero => exact absurd rfl h
      | succ m => rfl
    | succ n =>
      cases j with
      | zero => rfl
      | succ m => exact ih (fun e => h (by rw [e]))

theorem nth_append_left {α : Type} [Inhabited α] {l r : List α} {i : Nat} (h : i < l.length) : nth (l ++ r) i = nth l i := by
  induction l generalizing i with
  | nil => simp at h
  | cons a l ih =>
    cases i with
    | zero => rfl
    | succ n => exact ih (by simpa using h)

theorem nth_append_right {α : Type} [Inhabited α] (l r : List α) (i : Nat) : nth (l ++ r) (l.length + i) = nth r i := by
  induction l with
  | nil => simp
  | cons a l ih => simpa [Nat.succ_add, nth] using ih

theorem nth_mem {α : Type} [Inhabited α] {l : List α} {i : Nat} (h : i < l.length) : nth l i ∈ l := by
  induction l generalizing i with
  | nil => simp at h
  | cons a r ih =>
    cases i with
    | zero => simp [nth]
    | succ n => exact List.mem_cons_of_mem _ (ih (by simpa using h))

/-- Replacing an item by itself changes nothing. -/
theorem upd_self {α : Type} [Inhabited α] (l : List α) (i : Nat) : upd l i (fun _ => nth l i) = l := by
  induction l generalizing i with
  | nil => rfl
  | cons a r ih => cases i <;> simp [upd, nth, ih]

theorem upd_upd {α : Type} (l : List α) (i : Nat) (f g : α → α) : upd (upd l i f) i g = upd l i fun x => g (f x) := by
  induction l generalizing i with
  | nil => rfl
  | cons a r ih => cases i <;> simp [upd, ih]

/-- An update depends only on what it does to the item it replaces. -/
theorem upd_congr {α : Type} [Inhabited α] (l : List α) (i : Nat) {f g : α → α} (h : f (nth l i) = g (nth l i)) :
    upd l i f = upd l i g := by
  induction l generalizing i with
  | nil => rfl
  | cons a r ih =>
    cases i with
    | zero => simpa [upd, nth] using h
    | succ n => simp only [upd]; rw [ih n h]

@[simp] theorem updLanes_length {α : Type} (l : List α) (i : Nat) (m : Mask) (f : Nat → α → α) :
    (updLanes l i m f).length = l.length := by
  induction l generalizing i with
  | nil => rfl
  | cons a r ih => simp [updLanes, ih]

theorem nth_updLanes {α : Type} [Inhabited α] (l : List α) (k : Nat) (m : Mask) (f : Nat → α → α) {i : Nat}
    (h : i < l.length) : nth (updLanes l k m f) i = if m.getLsbD (k + i) then f (k + i) (nth l i) else nth l i := by
  induction l generalizing i k with
  | nil => simp at h
  | cons a r ih =>
    cases i with
    | zero => simp [updLanes, nth]
    | succ n =>
      have := ih (k + 1) (i := n) (by simpa using h)
      simpa [updLanes, nth, Nat.add_assoc, Nat.add_comm 1 n] using this

theorem mem_lanesOf (m : Mask) (l : Nat) : l ∈ lanesOf m ↔ l < 16 ∧ m.getLsbD l = true := by
  simp [lanesOf, List.mem_filter, List.mem_range]

@[simp] theorem lanesOf_zero : lanesOf 0 = [] := by decide

/-! ## Sparse storage: reads -/

@[simp] theorem Sparse.get_nil {w : Nat} (k : Nat) : Sparse.get ([] : Sparse w) k = 0 := rfl

theorem Sparse.get_erase_same {w : Nat} (m : Sparse w) (k : Nat) : Sparse.get (Sparse.erase m k) k = 0 := by
  induction m with
  | nil => rfl
  | cons c r ih =>
    unfold Sparse.erase at ih ⊢
    by_cases h : c.1 = k
    · simpa [List.filter, h] using ih
    · have : (c.1 != k) = true := by simpa using h
      simpa [List.filter, this, Sparse.get, h] using ih

theorem Sparse.get_erase_ne {w : Nat} (m : Sparse w) {k j : Nat} (h : j ≠ k) :
    Sparse.get (Sparse.erase m k) j = Sparse.get m j := by
  induction m with
  | nil => rfl
  | cons c r ih =>
    obtain ⟨a, v⟩ := c
    unfold Sparse.erase at ih ⊢
    by_cases hc : a = k
    · subst hc
      rw [List.filter_cons_of_neg (by simp), Sparse.get, if_neg (fun e => h e.symm)]
      exact ih
    · rw [List.filter_cons_of_pos (by simpa using hc), Sparse.get, Sparse.get, ih]

theorem Sparse.erase_absent {w : Nat} (m : Sparse w) (k : Nat) : ∀ c ∈ Sparse.erase m k, c.1 ≠ k := by
  intro c h
  have := (List.mem_filter.mp h).2
  simpa using this

theorem Sparse.get_insert_same {w : Nat} (m : Sparse w) (k : Nat) (v : BitVec w) (h : ∀ c ∈ m, c.1 ≠ k) :
    Sparse.get (Sparse.insert m k v) k = v := by
  induction m with
  | nil => simp [Sparse.insert, Sparse.get]
  | cons c r ih =>
    obtain ⟨j, u⟩ := c
    have hj : j ≠ k := h (j, u) (by simp)
    by_cases hk : k < j
    · simp [Sparse.insert, hk, Sparse.get]
    · simp [Sparse.insert, hk, Sparse.get, hj]
      exact ih fun c hc => h c (List.mem_cons_of_mem _ hc)

theorem Sparse.get_insert_ne {w : Nat} (m : Sparse w) {k j : Nat} (v : BitVec w) (h : j ≠ k) :
    Sparse.get (Sparse.insert m k v) j = Sparse.get m j := by
  induction m with
  | nil => simp [Sparse.insert, Sparse.get, h.symm]
  | cons c r ih =>
    obtain ⟨i, u⟩ := c
    by_cases hk : k < i
    · simp [Sparse.insert, hk, Sparse.get, h.symm]
    · simp [Sparse.insert, hk, Sparse.get, ih]

/-- A read after a write of the same cell gives the value written. -/
@[simp] theorem Sparse.get_set_same {w : Nat} (m : Sparse w) (k : Nat) (v : BitVec w) :
    Sparse.get (Sparse.set m k v) k = v := by
  unfold Sparse.set
  split
  · rename_i h; rw [Sparse.get_erase_same, h]
  · exact Sparse.get_insert_same _ _ _ (Sparse.erase_absent m k)

/-- A write leaves every other cell as it was. -/
theorem Sparse.get_set_ne {w : Nat} (m : Sparse w) {k j : Nat} (v : BitVec w) (h : j ≠ k) :
    Sparse.get (Sparse.set m k v) j = Sparse.get m j := by
  unfold Sparse.set
  split
  · exact Sparse.get_erase_ne m h
  · rw [Sparse.get_insert_ne _ _ h, Sparse.get_erase_ne m h]

theorem Sparse.get_set {w : Nat} (m : Sparse w) (k j : Nat) (v : BitVec w) :
    Sparse.get (Sparse.set m k v) j = if j = k then v else Sparse.get m j := by
  split
  · rename_i h; subst h; simp
  · rename_i h; exact Sparse.get_set_ne m v h

/-- What a write of consecutive cells leaves in each cell. -/
theorem Sparse.get_setList {w : Nat} (m : Sparse w) (k : Nat) (vs : List (BitVec w)) (j : Nat) :
    Sparse.get (Sparse.setList m k vs) j = if k ≤ j ∧ j < k + vs.length then nth vs (j - k) else Sparse.get m j := by
  induction vs generalizing m k with
  | nil => simp [Sparse.setList]
  | cons v r ih =>
    simp only [Sparse.setList, ih, Sparse.get_set, List.length_cons]
    by_cases h : j = k
    · subst h
      simp [nth]
    · by_cases h2 : k ≤ j ∧ j < k + (r.length + 1)
      · have h3 : k + 1 ≤ j ∧ j < k + 1 + r.length := by omega
        have h4 : j - k = (j - (k + 1)) + 1 := by omega
        rw [if_pos h3, if_pos h2, h4]
        rfl
      · have h3 : ¬(k + 1 ≤ j ∧ j < k + 1 + r.length) := by omega
        rw [if_neg h3, if_neg h2, if_neg h]

@[simp] theorem Sparse.getList_length {w : Nat} (m : Sparse w) (k n : Nat) : (Sparse.getList m k n).length = n := by
  induction n generalizing k with
  | zero => rfl
  | succ n ih => simp [Sparse.getList, ih]

theorem Sparse.nth_getList {w : Nat} (m : Sparse w) (k : Nat) {n i : Nat} (h : i < n) :
    nth (Sparse.getList m k n) i = Sparse.get m (k + i) := by
  induction n generalizing k i with
  | zero => omega
  | succ n ih =>
    cases i with
    | zero => rfl
    | succ i =>
      have := ih (k + 1) (i := i) (by omega)
      simpa [Sparse.getList, nth, Nat.add_assoc, Nat.add_comm 1 i] using this

/-! ## Sparse storage: the canonical form -/

theorem Sparse.wfFrom_mono {w : Nat} {m : Sparse w} {a b : Nat} (h : a ≤ b) (hm : Sparse.wfFrom b m = true) :
    Sparse.wfFrom a m = true := by
  cases m with
  | nil => rfl
  | cons c r =>
    simp only [Sparse.wfFrom, Bool.and_eq_true, decide_eq_true_eq] at hm ⊢
    exact ⟨⟨by omega, hm.1.2⟩, hm.2⟩

theorem Sparse.wfFrom_filter {w : Nat} (m : Sparse w) (p : Nat × BitVec w → Bool) (lo : Nat) (h : Sparse.wfFrom lo m = true) :
    Sparse.wfFrom lo (m.filter p) = true := by
  induction m generalizing lo with
  | nil => rfl
  | cons c r ih =>
    simp only [Sparse.wfFrom, Bool.and_eq_true, decide_eq_true_eq] at h
    have hr := ih (c.1 + 1) h.2
    by_cases hc : p c
    · simp only [List.filter, hc, Sparse.wfFrom, Bool.and_eq_true, decide_eq_true_eq]
      exact ⟨h.1, hr⟩
    · simp only [List.filter, hc]
      exact Sparse.wfFrom_mono (by omega) hr

theorem Sparse.wfFrom_erase {w : Nat} (m : Sparse w) (lo k : Nat) (h : Sparse.wfFrom lo m = true) :
    Sparse.wfFrom lo (Sparse.erase m k) = true := Sparse.wfFrom_filter m _ lo h

theorem Sparse.wfFrom_insert {w : Nat} (m : Sparse w) (lo k : Nat) (v : BitVec w) (h : Sparse.wfFrom lo m = true)
    (hk : ∀ c ∈ m, c.1 ≠ k) (hl : lo ≤ k) (hv : v ≠ 0) : Sparse.wfFrom lo (Sparse.insert m k v) = true := by
  induction m generalizing lo with
  | nil => simpa [Sparse.insert, Sparse.wfFrom, hl] using hv
  | cons c r ih =>
    obtain ⟨j, u⟩ := c
    simp only [Sparse.wfFrom, Bool.and_eq_true, decide_eq_true_eq] at h
    by_cases hj : k < j
    · simp only [Sparse.insert, hj, if_true, Sparse.wfFrom, Bool.and_eq_true, decide_eq_true_eq, bne_iff_ne]
      exact ⟨⟨hl, hv⟩, ⟨by omega, by simpa using h.1.2⟩, h.2⟩
    · have hne : j ≠ k := hk (j, u) (by simp)
      simp only [Sparse.insert, hj, if_false, Sparse.wfFrom, Bool.and_eq_true, decide_eq_true_eq]
      exact ⟨h.1, ih (j + 1) h.2 (fun c hc => hk c (List.mem_cons_of_mem _ hc)) (by omega)⟩

/-- Writing a cell keeps the canonical form. -/
theorem Sparse.wf_set {w : Nat} (m : Sparse w) (k : Nat) (v : BitVec w) (h : Sparse.wf m = true) :
    Sparse.wf (Sparse.set m k v) = true := by
  unfold Sparse.set
  split
  · exact Sparse.wfFrom_erase m 0 k h
  · rename_i hv
    exact Sparse.wfFrom_insert _ 0 k v (Sparse.wfFrom_erase m 0 k h) (Sparse.erase_absent m k) (by omega) hv

/-- Writing consecutive cells keeps the canonical form. -/
theorem Sparse.wf_setList {w : Nat} (m : Sparse w) (k : Nat) (vs : List (BitVec w)) (h : Sparse.wf m = true) :
    Sparse.wf (Sparse.setList m k vs) = true := by
  induction vs generalizing m k with
  | nil => exact h
  | cons v r ih => exact ih _ _ (Sparse.wf_set m k v h)

theorem Sparse.wf_foldl_set {w : Nat} (l : List (Nat × BitVec w)) (m : Sparse w) (h : Sparse.wf m = true) :
    Sparse.wf (l.foldl (fun m c => Sparse.set m c.1 c.2) m) = true := by
  induction l generalizing m with
  | nil => exact h
  | cons c r ih => exact ih _ (Sparse.wf_set m c.1 c.2 h)

/-! ## Bytes of a number (R4) -/

@[simp] theorem bytesOf_length (n v : Nat) : (bytesOf n v).length = n := by
  induction n generalizing v with
  | zero => rfl
  | succ n ih => simp [bytesOf, ih]

theorem nth_bytesOf {n i : Nat} (v : Nat) (h : i < n) : nth (bytesOf n v) i = BitVec.ofNat 8 (v / 256 ^ i) := by
  induction n generalizing v i with
  | zero => omega
  | succ n ih =>
    cases i with
    | zero => simp [bytesOf, nth]
    | succ i =>
      have := ih (v / 256) (i := i) (by omega)
      simpa [bytesOf, nth, Nat.div_div_eq_div_mul, Nat.pow_succ, Nat.mul_comm] using this

theorem ofBytes_bytesOf (n v : Nat) : ofBytes (bytesOf n v) = v % 256 ^ n := by
  induction n generalizing v with
  | zero => simp [bytesOf, ofBytes, Nat.mod_one]
  | succ n ih =>
    simp only [bytesOf, ofBytes, ih, BitVec.toNat_ofNat]
    exact (Nat.pow_succ' ▸ Nat.mod_mul).symm

end Sys2Proof.Machine
end

