-- ==== Sys2Proof/Laws/State.lean ====
section
/-! SUPPORT. What each update of the state leaves as it was, field by field, and what it gives to the part that it
updates. -/

namespace Sys2Proof.Machine

/-! ## Updates of the device -/

@[simp] theorem State.modTeam_mem (s : State) (t : Nat) (f : Team → Team) : (s.modTeam t f).mem = s.mem := rfl
@[simp] theorem State.modTeam_stamps (s : State) (t : Nat) (f : Team → Team) : (s.modTeam t f).stamps = s.stamps := rfl
@[simp] theorem State.modTeam_llc (s : State) (t : Nat) (f : Team → Team) : (s.modTeam t f).llc = s.llc := rfl
@[simp] theorem State.modTeam_cores (s : State) (t : Nat) (f : Team → Team) : (s.modTeam t f).cores = s.cores := rfl
@[simp] theorem State.modTeam_dies (s : State) (t : Nat) (f : Team → Team) : (s.modTeam t f).dies = s.dies := rfl
@[simp] theorem State.modTeam_fes (s : State) (t : Nat) (f : Team → Team) : (s.modTeam t f).fes = s.fes := rfl
@[simp] theorem State.modTeam_grids (s : State) (t : Nat) (f : Team → Team) : (s.modTeam t f).grids = s.grids := rfl
@[simp] theorem State.modTeam_copies (s : State) (t : Nat) (f : Team → Team) : (s.modTeam t f).copies = s.copies := rfl
@[simp] theorem State.modTeam_mops (s : State) (t : Nat) (f : Team → Team) : (s.modTeam t f).mops = s.mops := rfl
@[simp] theorem State.modTeam_log (s : State) (t : Nat) (f : Team → Team) : (s.modTeam t f).log = s.log := rfl
@[simp] theorem State.modTeam_cross (s : State) (t : Nat) (f : Team → Team) : (s.modTeam t f).cross = s.cross := rfl
@[simp] theorem State.modTeam_tasks (s : State) (t : Nat) (f : Team → Team) : (s.modTeam t f).tasks = s.tasks := rfl
@[simp] theorem State.modTeam_subs (s : State) (t : Nat) (f : Team → Team) : (s.modTeam t f).subs = s.subs := rfl
@[simp] theorem State.modTeam_bins (s : State) (t : Nat) (f : Team → Team) : (s.modTeam t f).bins = s.bins := rfl
@[simp] theorem State.modTeam_links (s : State) (t : Nat) (f : Team → Team) : (s.modTeam t f).links = s.links := rfl
@[simp] theorem State.modTeam_ready (s : State) (t : Nat) (f : Team → Team) : (s.modTeam t f).ready = s.ready := rfl
@[simp] theorem State.modTeam_boot (s : State) (t : Nat) (f : Team → Team) : (s.modTeam t f).boot = s.boot := rfl
@[simp] theorem State.modTeam_therm (s : State) (t : Nat) (f : Team → Team) : (s.modTeam t f).therm = s.therm := rfl
@[simp] theorem State.modTeam_cxlBase (s : State) (t : Nat) (f : Team → Team) : (s.modTeam t f).cxlBase = s.cxlBase := rfl
@[simp] theorem State.modTeam_cxlLimit (s : State) (t : Nat) (f : Team → Team) : (s.modTeam t f).cxlLimit = s.cxlLimit := rfl
@[simp] theorem State.modTeam_peers (s : State) (t : Nat) (f : Team → Team) : (s.modTeam t f).peers = s.peers := rfl
@[simp] theorem State.modTeam_bars (s : State) (t : Nat) (f : Team → Team) : (s.modTeam t f).bars = s.bars := rfl
@[simp] theorem State.modTeam_reply (s : State) (t : Nat) (f : Team → Team) : (s.modTeam t f).reply = s.reply := rfl
@[simp] theorem State.modTeam_bar0 (s : State) (t : Nat) (f : Team → Team) : (s.modTeam t f).bar0 = s.bar0 := rfl
@[simp] theorem State.modTeam_prAlloc (s : State) (t : Nat) (f : Team → Team) : (s.modTeam t f).prAlloc = s.prAlloc := rfl
@[simp] theorem State.modTeam_unsupported (s : State) (t : Nat) (f : Team → Team) : (s.modTeam t f).unsupported = s.unsupported := rfl
@[simp] theorem State.modTeam_outbox (s : State) (t : Nat) (f : Team → Team) : (s.modTeam t f).outbox = s.outbox := rfl
@[simp] theorem State.modTeam_lost (s : State) (t : Nat) (f : Team → Team) : (s.modTeam t f).lost = s.lost := rfl
@[simp] theorem State.modTeam_sequencer (s : State) (t : Nat) (f : Team → Team) : (s.modTeam t f).sequencer = s.sequencer := rfl
@[simp] theorem State.modTeam_scOwed (s : State) (t : Nat) (f : Team → Team) : (s.modTeam t f).scOwed = s.scOwed := rfl
@[simp] theorem State.modTeam_agenda (s : State) (t : Nat) (f : Team → Team) : (s.modTeam t f).agenda = s.agenda := rfl
@[simp] theorem State.modTeam_slots (s : State) (t : Nat) (f : Team → Team) : (s.modTeam t f).slots = s.slots := rfl
@[simp] theorem State.modTeam_budget (s : State) (t : Nat) (f : Team → Team) : (s.modTeam t f).budget = s.budget := rfl
@[simp] theorem State.modTeam_cur (s : State) (t : Nat) (f : Team → Team) : (s.modTeam t f).cur = s.cur := rfl
@[simp] theorem State.modTeam_freeCtr (s : State) (t : Nat) (f : Team → Team) : (s.modTeam t f).freeCtr = s.freeCtr := rfl
@[simp] theorem State.modTeam_nextId (s : State) (t : Nat) (f : Team → Team) : (s.modTeam t f).nextId = s.nextId := rfl
@[simp] theorem State.modTeam_nextAcc (s : State) (t : Nat) (f : Team → Team) : (s.modTeam t f).nextAcc = s.nextAcc := rfl
@[simp] theorem State.modTeam_issues (s : State) (t : Nat) (f : Team → Team) : (s.modTeam t f).issues = s.issues := rfl

@[simp] theorem State.modCrew_mem (s : State) (t c : Nat) (f : Crew → Crew) : (s.modCrew t c f).mem = s.mem := rfl
@[simp] theorem State.modCrew_stamps (s : State) (t c : Nat) (f : Crew → Crew) : (s.modCrew t c f).stamps = s.stamps := rfl
@[simp] theorem State.modCrew_llc (s : State) (t c : Nat) (f : Crew → Crew) : (s.modCrew t c f).llc = s.llc := rfl
@[simp] theorem State.modCrew_cores (s : State) (t c : Nat) (f : Crew → Crew) : (s.modCrew t c f).cores = s.cores := rfl
@[simp] theorem State.modCrew_dies (s : State) (t c : Nat) (f : Crew → Crew) : (s.modCrew t c f).dies = s.dies := rfl
@[simp] theorem State.modCrew_fes (s : State) (t c : Nat) (f : Crew → Crew) : (s.modCrew t c f).fes = s.fes := rfl
@[simp] theorem State.modCrew_grids (s : State) (t c : Nat) (f : Crew → Crew) : (s.modCrew t c f).grids = s.grids := rfl
@[simp] theorem State.modCrew_copies (s : State) (t c : Nat) (f : Crew → Crew) : (s.modCrew t c f).copies = s.copies := rfl
@[simp] theorem State.modCrew_mops (s : State) (t c : Nat) (f : Crew → Crew) : (s.modCrew t c f).mops = s.mops := rfl
@[simp] theorem State.modCrew_log (s : State) (t c : Nat) (f : Crew → Crew) : (s.modCrew t c f).log = s.log := rfl
@[simp] theorem State.modCrew_cross (s : State) (t c : Nat) (f : Crew → Crew) : (s.modCrew t c f).cross = s.cross := rfl
@[simp] theorem State.modCrew_tasks (s : State) (t c : Nat) (f : Crew → Crew) : (s.modCrew t c f).tasks = s.tasks := rfl
@[simp] theorem State.modCrew_subs (s : State) (t c : Nat) (f : Crew → Crew) : (s.modCrew t c f).subs = s.subs := rfl
@[simp] theorem State.modCrew_bins (s : State) (t c : Nat) (f : Crew → Crew) : (s.modCrew t c f).bins = s.bins := rfl
@[simp] theorem State.modCrew_links (s : State) (t c : Nat) (f : Crew → Crew) : (s.modCrew t c f).links = s.links := rfl
@[simp] theorem State.modCrew_ready (s : State) (t c : Nat) (f : Crew → Crew) : (s.modCrew t c f).ready = s.ready := rfl
@[simp] theorem State.modCrew_boot (s : State) (t c : Nat) (f : Crew → Crew) : (s.modCrew t c f).boot = s.boot := rfl
@[simp] theorem State.modCrew_therm (s : State) (t c : Nat) (f : Crew → Crew) : (s.modCrew t c f).therm = s.therm := rfl
@[simp] theorem State.modCrew_cxlBase (s : State) (t c : Nat) (f : Crew → Crew) : (s.modCrew t c f).cxlBase = s.cxlBase := rfl
@[simp] theorem State.modCrew_cxlLimit (s : State) (t c : Nat) (f : Crew → Crew) : (s.modCrew t c f).cxlLimit = s.cxlLimit := rfl
@[simp] theorem State.modCrew_peers (s : State) (t c : Nat) (f : Crew → Crew) : (s.modCrew t c f).peers = s.peers := rfl
@[simp] theorem State.modCrew_bars (s : State) (t c : Nat) (f : Crew → Crew) : (s.modCrew t c f).bars = s.bars := rfl
@[simp] theorem State.modCrew_reply (s : State) (t c : Nat) (f : Crew → Crew) : (s.modCrew t c f).reply = s.reply := rfl
@[simp] theorem State.modCrew_bar0 (s : State) (t c : Nat) (f : Crew → Crew) : (s.modCrew t c f).bar0 = s.bar0 := rfl
@[simp] theorem State.modCrew_prAlloc (s : State) (t c : Nat) (f : Crew → Crew) : (s.modCrew t c f).prAlloc = s.prAlloc := rfl
@[simp] theorem State.modCrew_unsupported (s : State) (t c : Nat) (f : Crew → Crew) : (s.modCrew t c f).unsupported = s.unsupported := rfl
@[simp] theorem State.modCrew_outbox (s : State) (t c : Nat) (f : Crew → Crew) : (s.modCrew t c f).outbox = s.outbox := rfl
@[simp] theorem State.modCrew_lost (s : State) (t c : Nat) (f : Crew → Crew) : (s.modCrew t c f).lost = s.lost := rfl
@[simp] theorem State.modCrew_sequencer (s : State) (t c : Nat) (f : Crew → Crew) : (s.modCrew t c f).sequencer = s.sequencer := rfl
@[simp] theorem State.modCrew_scOwed (s : State) (t c : Nat) (f : Crew → Crew) : (s.modCrew t c f).scOwed = s.scOwed := rfl
@[simp] theorem State.modCrew_agenda (s : State) (t c : Nat) (f : Crew → Crew) : (s.modCrew t c f).agenda = s.agenda := rfl
@[simp] theorem State.modCrew_slots (s : State) (t c : Nat) (f : Crew → Crew) : (s.modCrew t c f).slots = s.slots := rfl
@[simp] theorem State.modCrew_budget (s : State) (t c : Nat) (f : Crew → Crew) : (s.modCrew t c f).budget = s.budget := rfl
@[simp] theorem State.modCrew_cur (s : State) (t c : Nat) (f : Crew → Crew) : (s.modCrew t c f).cur = s.cur := rfl
@[simp] theorem State.modCrew_freeCtr (s : State) (t c : Nat) (f : Crew → Crew) : (s.modCrew t c f).freeCtr = s.freeCtr := rfl
@[simp] theorem State.modCrew_nextId (s : State) (t c : Nat) (f : Crew → Crew) : (s.modCrew t c f).nextId = s.nextId := rfl
@[simp] theorem State.modCrew_nextAcc (s : State) (t c : Nat) (f : Crew → Crew) : (s.modCrew t c f).nextAcc = s.nextAcc := rfl
@[simp] theorem State.modCrew_issues (s : State) (t c : Nat) (f : Crew → Crew) : (s.modCrew t c f).issues = s.issues := rfl

@[simp] theorem State.modGrid_mem (s : State) (g : Nat) (f : Grid → Grid) : (s.modGrid g f).mem = s.mem := rfl
@[simp] theorem State.modGrid_stamps (s : State) (g : Nat) (f : Grid → Grid) : (s.modGrid g f).stamps = s.stamps := rfl
@[simp] theorem State.modGrid_llc (s : State) (g : Nat) (f : Grid → Grid) : (s.modGrid g f).llc = s.llc := rfl
@[simp] theorem State.modGrid_cores (s : State) (g : Nat) (f : Grid → Grid) : (s.modGrid g f).cores = s.cores := rfl
@[simp] theorem State.modGrid_dies (s : State) (g : Nat) (f : Grid → Grid) : (s.modGrid g f).dies = s.dies := rfl
@[simp] theorem State.modGrid_fes (s : State) (g : Nat) (f : Grid → Grid) : (s.modGrid g f).fes = s.fes := rfl
@[simp] theorem State.modGrid_teams (s : State) (g : Nat) (f : Grid → Grid) : (s.modGrid g f).teams = s.teams := rfl
@[simp] theorem State.modGrid_copies (s : State) (g : Nat) (f : Grid → Grid) : (s.modGrid g f).copies = s.copies := rfl
@[simp] theorem State.modGrid_mops (s : State) (g : Nat) (f : Grid → Grid) : (s.modGrid g f).mops = s.mops := rfl
@[simp] theorem State.modGrid_log (s : State) (g : Nat) (f : Grid → Grid) : (s.modGrid g f).log = s.log := rfl
@[simp] theorem State.modGrid_cross (s : State) (g : Nat) (f : Grid → Grid) : (s.modGrid g f).cross = s.cross := rfl
@[simp] theorem State.modGrid_tasks (s : State) (g : Nat) (f : Grid → Grid) : (s.modGrid g f).tasks = s.tasks := rfl
@[simp] theorem State.modGrid_subs (s : State) (g : Nat) (f : Grid → Grid) : (s.modGrid g f).subs = s.subs := rfl
@[simp] theorem State.modGrid_bins (s : State) (g : Nat) (f : Grid → Grid) : (s.modGrid g f).bins = s.bins := rfl
@[simp] theorem State.modGrid_links (s : State) (g : Nat) (f : Grid → Grid) : (s.modGrid g f).links = s.links := rfl
@[simp] theorem State.modGrid_ready (s : State) (g : Nat) (f : Grid → Grid) : (s.modGrid g f).ready = s.ready := rfl
@[simp] theorem State.modGrid_boot (s : State) (g : Nat) (f : Grid → Grid) : (s.modGrid g f).boot = s.boot := rfl
@[simp] theorem State.modGrid_therm (s : State) (g : Nat) (f : Grid → Grid) : (s.modGrid g f).therm = s.therm := rfl
@[simp] theorem State.modGrid_cxlBase (s : State) (g : Nat) (f : Grid → Grid) : (s.modGrid g f).cxlBase = s.cxlBase := rfl
@[simp] theorem State.modGrid_cxlLimit (s : State) (g : Nat) (f : Grid → Grid) : (s.modGrid g f).cxlLimit = s.cxlLimit := rfl
@[simp] theorem State.modGrid_peers (s : State) (g : Nat) (f : Grid → Grid) : (s.modGrid g f).peers = s.peers := rfl
@[simp] theorem State.modGrid_bars (s : State) (g : Nat) (f : Grid → Grid) : (s.modGrid g f).bars = s.bars := rfl
@[simp] theorem State.modGrid_reply (s : State) (g : Nat) (f : Grid → Grid) : (s.modGrid g f).reply = s.reply := rfl
@[simp] theorem State.modGrid_bar0 (s : State) (g : Nat) (f : Grid → Grid) : (s.modGrid g f).bar0 = s.bar0 := rfl
@[simp] theorem State.modGrid_prAlloc (s : State) (g : Nat) (f : Grid → Grid) : (s.modGrid g f).prAlloc = s.prAlloc := rfl
@[simp] theorem State.modGrid_unsupported (s : State) (g : Nat) (f : Grid → Grid) : (s.modGrid g f).unsupported = s.unsupported := rfl
@[simp] theorem State.modGrid_outbox (s : State) (g : Nat) (f : Grid → Grid) : (s.modGrid g f).outbox = s.outbox := rfl
@[simp] theorem State.modGrid_lost (s : State) (g : Nat) (f : Grid → Grid) : (s.modGrid g f).lost = s.lost := rfl
@[simp] theorem State.modGrid_sequencer (s : State) (g : Nat) (f : Grid → Grid) : (s.modGrid g f).sequencer = s.sequencer := rfl
@[simp] theorem State.modGrid_scOwed (s : State) (g : Nat) (f : Grid → Grid) : (s.modGrid g f).scOwed = s.scOwed := rfl
@[simp] theorem State.modGrid_agenda (s : State) (g : Nat) (f : Grid → Grid) : (s.modGrid g f).agenda = s.agenda := rfl
@[simp] theorem State.modGrid_slots (s : State) (g : Nat) (f : Grid → Grid) : (s.modGrid g f).slots = s.slots := rfl
@[simp] theorem State.modGrid_budget (s : State) (g : Nat) (f : Grid → Grid) : (s.modGrid g f).budget = s.budget := rfl
@[simp] theorem State.modGrid_cur (s : State) (g : Nat) (f : Grid → Grid) : (s.modGrid g f).cur = s.cur := rfl
@[simp] theorem State.modGrid_freeCtr (s : State) (g : Nat) (f : Grid → Grid) : (s.modGrid g f).freeCtr = s.freeCtr := rfl
@[simp] theorem State.modGrid_nextId (s : State) (g : Nat) (f : Grid → Grid) : (s.modGrid g f).nextId = s.nextId := rfl
@[simp] theorem State.modGrid_nextAcc (s : State) (g : Nat) (f : Grid → Grid) : (s.modGrid g f).nextAcc = s.nextAcc := rfl
@[simp] theorem State.modGrid_issues (s : State) (g : Nat) (f : Grid → Grid) : (s.modGrid g f).issues = s.issues := rfl

@[simp] theorem State.modCore_mem (s : State) (c : Nat) (f : CoreState → CoreState) : (s.modCore c f).mem = s.mem := rfl
@[simp] theorem State.modCore_stamps (s : State) (c : Nat) (f : CoreState → CoreState) : (s.modCore c f).stamps = s.stamps := rfl
@[simp] theorem State.modCore_llc (s : State) (c : Nat) (f : CoreState → CoreState) : (s.modCore c f).llc = s.llc := rfl
@[simp] theorem State.modCore_dies (s : State) (c : Nat) (f : CoreState → CoreState) : (s.modCore c f).dies = s.dies := rfl
@[simp] theorem State.modCore_fes (s : State) (c : Nat) (f : CoreState → CoreState) : (s.modCore c f).fes = s.fes := rfl
@[simp] theorem State.modCore_grids (s : State) (c : Nat) (f : CoreState → CoreState) : (s.modCore c f).grids = s.grids := rfl
@[simp] theorem State.modCore_teams (s : State) (c : Nat) (f : CoreState → CoreState) : (s.modCore c f).teams = s.teams := rfl
@[simp] theorem State.modCore_copies (s : State) (c : Nat) (f : CoreState → CoreState) : (s.modCore c f).copies = s.copies := rfl
@[simp] theorem State.modCore_mops (s : State) (c : Nat) (f : CoreState → CoreState) : (s.modCore c f).mops = s.mops := rfl
@[simp] theorem State.modCore_log (s : State) (c : Nat) (f : CoreState → CoreState) : (s.modCore c f).log = s.log := rfl
@[simp] theorem State.modCore_cross (s : State) (c : Nat) (f : CoreState → CoreState) : (s.modCore c f).cross = s.cross := rfl
@[simp] theorem State.modCore_tasks (s : State) (c : Nat) (f : CoreState → CoreState) : (s.modCore c f).tasks = s.tasks := rfl
@[simp] theorem State.modCore_subs (s : State) (c : Nat) (f : CoreState → CoreState) : (s.modCore c f).subs = s.subs := rfl
@[simp] theorem State.modCore_bins (s : State) (c : Nat) (f : CoreState → CoreState) : (s.modCore c f).bins = s.bins := rfl
@[simp] theorem State.modCore_links (s : State) (c : Nat) (f : CoreState → CoreState) : (s.modCore c f).links = s.links := rfl
@[simp] theorem State.modCore_ready (s : State) (c : Nat) (f : CoreState → CoreState) : (s.modCore c f).ready = s.ready := rfl
@[simp] theorem State.modCore_boot (s : State) (c : Nat) (f : CoreState → CoreState) : (s.modCore c f).boot = s.boot := rfl
@[simp] theorem State.modCore_therm (s : State) (c : Nat) (f : CoreState → CoreState) : (s.modCore c f).therm = s.therm := rfl
@[simp] theorem State.modCore_cxlBase (s : State) (c : Nat) (f : CoreState → CoreState) : (s.modCore c f).cxlBase = s.cxlBase := rfl
@[simp] theorem State.modCore_cxlLimit (s : State) (c : Nat) (f : CoreState → CoreState) : (s.modCore c f).cxlLimit = s.cxlLimit := rfl
@[simp] theorem State.modCore_peers (s : State) (c : Nat) (f : CoreState → CoreState) : (s.modCore c f).peers = s.peers := rfl
@[simp] theorem State.modCore_bars (s : State) (c : Nat) (f : CoreState → CoreState) : (s.modCore c f).bars = s.bars := rfl
@[simp] theorem State.modCore_reply (s : State) (c : Nat) (f : CoreState → CoreState) : (s.modCore c f).reply = s.reply := rfl
@[simp] theorem State.modCore_bar0 (s : State) (c : Nat) (f : CoreState → CoreState) : (s.modCore c f).bar0 = s.bar0 := rfl
@[simp] theorem State.modCore_prAlloc (s : State) (c : Nat) (f : CoreState → CoreState) : (s.modCore c f).prAlloc = s.prAlloc := rfl
@[simp] theorem State.modCore_unsupported (s : State) (c : Nat) (f : CoreState → CoreState) : (s.modCore c f).unsupported = s.unsupported := rfl
@[simp] theorem State.modCore_outbox (s : State) (c : Nat) (f : CoreState → CoreState) : (s.modCore c f).outbox = s.outbox := rfl
@[simp] theorem State.modCore_lost (s : State) (c : Nat) (f : CoreState → CoreState) : (s.modCore c f).lost = s.lost := rfl
@[simp] theorem State.modCore_sequencer (s : State) (c : Nat) (f : CoreState → CoreState) : (s.modCore c f).sequencer = s.sequencer := rfl
@[simp] theorem State.modCore_scOwed (s : State) (c : Nat) (f : CoreState → CoreState) : (s.modCore c f).scOwed = s.scOwed := rfl
@[simp] theorem State.modCore_agenda (s : State) (c : Nat) (f : CoreState → CoreState) : (s.modCore c f).agenda = s.agenda := rfl
@[simp] theorem State.modCore_slots (s : State) (c : Nat) (f : CoreState → CoreState) : (s.modCore c f).slots = s.slots := rfl
@[simp] theorem State.modCore_budget (s : State) (c : Nat) (f : CoreState → CoreState) : (s.modCore c f).budget = s.budget := rfl
@[simp] theorem State.modCore_cur (s : State) (c : Nat) (f : CoreState → CoreState) : (s.modCore c f).cur = s.cur := rfl
@[simp] theorem State.modCore_freeCtr (s : State) (c : Nat) (f : CoreState → CoreState) : (s.modCore c f).freeCtr = s.freeCtr := rfl
@[simp] theorem State.modCore_nextId (s : State) (c : Nat) (f : CoreState → CoreState) : (s.modCore c f).nextId = s.nextId := rfl
@[simp] theorem State.modCore_nextAcc (s : State) (c : Nat) (f : CoreState → CoreState) : (s.modCore c f).nextAcc = s.nextAcc := rfl
@[simp] theorem State.modCore_issues (s : State) (c : Nat) (f : CoreState → CoreState) : (s.modCore c f).issues = s.issues := rfl

@[simp] theorem State.modDie_mem (s : State) (d : Nat) (f : DieState → DieState) : (s.modDie d f).mem = s.mem := rfl
@[simp] theorem State.modDie_stamps (s : State) (d : Nat) (f : DieState → DieState) : (s.modDie d f).stamps = s.stamps := rfl
@[simp] theorem State.modDie_llc (s : State) (d : Nat) (f : DieState → DieState) : (s.modDie d f).llc = s.llc := rfl
@[simp] theorem State.modDie_cores (s : State) (d : Nat) (f : DieState → DieState) : (s.modDie d f).cores = s.cores := rfl
@[simp] theorem State.modDie_fes (s : State) (d : Nat) (f : DieState → DieState) : (s.modDie d f).fes = s.fes := rfl
@[simp] theorem State.modDie_grids (s : State) (d : Nat) (f : DieState → DieState) : (s.modDie d f).grids = s.grids := rfl
@[simp] theorem State.modDie_teams (s : State) (d : Nat) (f : DieState → DieState) : (s.modDie d f).teams = s.teams := rfl
@[simp] theorem State.modDie_copies (s : State) (d : Nat) (f : DieState → DieState) : (s.modDie d f).copies = s.copies := rfl
@[simp] theorem State.modDie_mops (s : State) (d : Nat) (f : DieState → DieState) : (s.modDie d f).mops = s.mops := rfl
@[simp] theorem State.modDie_log (s : State) (d : Nat) (f : DieState → DieState) : (s.modDie d f).log = s.log := rfl
@[simp] theorem State.modDie_cross (s : State) (d : Nat) (f : DieState → DieState) : (s.modDie d f).cross = s.cross := rfl
@[simp] theorem State.modDie_tasks (s : State) (d : Nat) (f : DieState → DieState) : (s.modDie d f).tasks = s.tasks := rfl
@[simp] theorem State.modDie_subs (s : State) (d : Nat) (f : DieState → DieState) : (s.modDie d f).subs = s.subs := rfl
@[simp] theorem State.modDie_bins (s : State) (d : Nat) (f : DieState → DieState) : (s.modDie d f).bins = s.bins := rfl
@[simp] theorem State.modDie_links (s : State) (d : Nat) (f : DieState → DieState) : (s.modDie d f).links = s.links := rfl
@[simp] theorem State.modDie_ready (s : State) (d : Nat) (f : DieState → DieState) : (s.modDie d f).ready = s.ready := rfl
@[simp] theorem State.modDie_boot (s : State) (d : Nat) (f : DieState → DieState) : (s.modDie d f).boot = s.boot := rfl
@[simp] theorem State.modDie_therm (s : State) (d : Nat) (f : DieState → DieState) : (s.modDie d f).therm = s.therm := rfl
@[simp] theorem State.modDie_cxlBase (s : State) (d : Nat) (f : DieState → DieState) : (s.modDie d f).cxlBase = s.cxlBase := rfl
@[simp] theorem State.modDie_cxlLimit (s : State) (d : Nat) (f : DieState → DieState) : (s.modDie d f).cxlLimit = s.cxlLimit := rfl
@[simp] theorem State.modDie_peers (s : State) (d : Nat) (f : DieState → DieState) : (s.modDie d f).peers = s.peers := rfl
@[simp] theorem State.modDie_bars (s : State) (d : Nat) (f : DieState → DieState) : (s.modDie d f).bars = s.bars := rfl
@[simp] theorem State.modDie_reply (s : State) (d : Nat) (f : DieState → DieState) : (s.modDie d f).reply = s.reply := rfl
@[simp] theorem State.modDie_bar0 (s : State) (d : Nat) (f : DieState → DieState) : (s.modDie d f).bar0 = s.bar0 := rfl
@[simp] theorem State.modDie_prAlloc (s : State) (d : Nat) (f : DieState → DieState) : (s.modDie d f).prAlloc = s.prAlloc := rfl
@[simp] theorem State.modDie_unsupported (s : State) (d : Nat) (f : DieState → DieState) : (s.modDie d f).unsupported = s.unsupported := rfl
@[simp] theorem State.modDie_outbox (s : State) (d : Nat) (f : DieState → DieState) : (s.modDie d f).outbox = s.outbox := rfl
@[simp] theorem State.modDie_lost (s : State) (d : Nat) (f : DieState → DieState) : (s.modDie d f).lost = s.lost := rfl
@[simp] theorem State.modDie_sequencer (s : State) (d : Nat) (f : DieState → DieState) : (s.modDie d f).sequencer = s.sequencer := rfl
@[simp] theorem State.modDie_scOwed (s : State) (d : Nat) (f : DieState → DieState) : (s.modDie d f).scOwed = s.scOwed := rfl
@[simp] theorem State.modDie_agenda (s : State) (d : Nat) (f : DieState → DieState) : (s.modDie d f).agenda = s.agenda := rfl
@[simp] theorem State.modDie_slots (s : State) (d : Nat) (f : DieState → DieState) : (s.modDie d f).slots = s.slots := rfl
@[simp] theorem State.modDie_budget (s : State) (d : Nat) (f : DieState → DieState) : (s.modDie d f).budget = s.budget := rfl
@[simp] theorem State.modDie_cur (s : State) (d : Nat) (f : DieState → DieState) : (s.modDie d f).cur = s.cur := rfl
@[simp] theorem State.modDie_freeCtr (s : State) (d : Nat) (f : DieState → DieState) : (s.modDie d f).freeCtr = s.freeCtr := rfl
@[simp] theorem State.modDie_nextId (s : State) (d : Nat) (f : DieState → DieState) : (s.modDie d f).nextId = s.nextId := rfl
@[simp] theorem State.modDie_nextAcc (s : State) (d : Nat) (f : DieState → DieState) : (s.modDie d f).nextAcc = s.nextAcc := rfl
@[simp] theorem State.modDie_issues (s : State) (d : Nat) (f : DieState → DieState) : (s.modDie d f).issues = s.issues := rfl

@[simp] theorem State.modFe_mem (s : State) (n : Nat) (f : FrontEnd → FrontEnd) : (s.modFe n f).mem = s.mem := rfl
@[simp] theorem State.modFe_stamps (s : State) (n : Nat) (f : FrontEnd → FrontEnd) : (s.modFe n f).stamps = s.stamps := rfl
@[simp] theorem State.modFe_llc (s : State) (n : Nat) (f : FrontEnd → FrontEnd) : (s.modFe n f).llc = s.llc := rfl
@[simp] theorem State.modFe_cores (s : State) (n : Nat) (f : FrontEnd → FrontEnd) : (s.modFe n f).cores = s.cores := rfl
@[simp] theorem State.modFe_dies (s : State) (n : Nat) (f : FrontEnd → FrontEnd) : (s.modFe n f).dies = s.dies := rfl
@[simp] theorem State.modFe_grids (s : State) (n : Nat) (f : FrontEnd → FrontEnd) : (s.modFe n f).grids = s.grids := rfl
@[simp] theorem State.modFe_teams (s : State) (n : Nat) (f : FrontEnd → FrontEnd) : (s.modFe n f).teams = s.teams := rfl
@[simp] theorem State.modFe_copies (s : State) (n : Nat) (f : FrontEnd → FrontEnd) : (s.modFe n f).copies = s.copies := rfl
@[simp] theorem State.modFe_mops (s : State) (n : Nat) (f : FrontEnd → FrontEnd) : (s.modFe n f).mops = s.mops := rfl
@[simp] theorem State.modFe_log (s : State) (n : Nat) (f : FrontEnd → FrontEnd) : (s.modFe n f).log = s.log := rfl
@[simp] theorem State.modFe_cross (s : State) (n : Nat) (f : FrontEnd → FrontEnd) : (s.modFe n f).cross = s.cross := rfl
@[simp] theorem State.modFe_tasks (s : State) (n : Nat) (f : FrontEnd → FrontEnd) : (s.modFe n f).tasks = s.tasks := rfl
@[simp] theorem State.modFe_subs (s : State) (n : Nat) (f : FrontEnd → FrontEnd) : (s.modFe n f).subs = s.subs := rfl
@[simp] theorem State.modFe_bins (s : State) (n : Nat) (f : FrontEnd → FrontEnd) : (s.modFe n f).bins = s.bins := rfl
@[simp] theorem State.modFe_links (s : State) (n : Nat) (f : FrontEnd → FrontEnd) : (s.modFe n f).links = s.links := rfl
@[simp] theorem State.modFe_ready (s : State) (n : Nat) (f : FrontEnd → FrontEnd) : (s.modFe n f).ready = s.ready := rfl
@[simp] theorem State.modFe_boot (s : State) (n : Nat) (f : FrontEnd → FrontEnd) : (s.modFe n f).boot = s.boot := rfl
@[simp] theorem State.modFe_therm (s : State) (n : Nat) (f : FrontEnd → FrontEnd) : (s.modFe n f).therm = s.therm := rfl
@[simp] theorem State.modFe_cxlBase (s : State) (n : Nat) (f : FrontEnd → FrontEnd) : (s.modFe n f).cxlBase = s.cxlBase := rfl
@[simp] theorem State.modFe_cxlLimit (s : State) (n : Nat) (f : FrontEnd → FrontEnd) : (s.modFe n f).cxlLimit = s.cxlLimit := rfl
@[simp] theorem State.modFe_peers (s : State) (n : Nat) (f : FrontEnd → FrontEnd) : (s.modFe n f).peers = s.peers := rfl
@[simp] theorem State.modFe_bars (s : State) (n : Nat) (f : FrontEnd → FrontEnd) : (s.modFe n f).bars = s.bars := rfl
@[simp] theorem State.modFe_reply (s : State) (n : Nat) (f : FrontEnd → FrontEnd) : (s.modFe n f).reply = s.reply := rfl
@[simp] theorem State.modFe_bar0 (s : State) (n : Nat) (f : FrontEnd → FrontEnd) : (s.modFe n f).bar0 = s.bar0 := rfl
@[simp] theorem State.modFe_prAlloc (s : State) (n : Nat) (f : FrontEnd → FrontEnd) : (s.modFe n f).prAlloc = s.prAlloc := rfl
@[simp] theorem State.modFe_unsupported (s : State) (n : Nat) (f : FrontEnd → FrontEnd) : (s.modFe n f).unsupported = s.unsupported := rfl
@[simp] theorem State.modFe_outbox (s : State) (n : Nat) (f : FrontEnd → FrontEnd) : (s.modFe n f).outbox = s.outbox := rfl
@[simp] theorem State.modFe_lost (s : State) (n : Nat) (f : FrontEnd → FrontEnd) : (s.modFe n f).lost = s.lost := rfl
@[simp] theorem State.modFe_sequencer (s : State) (n : Nat) (f : FrontEnd → FrontEnd) : (s.modFe n f).sequencer = s.sequencer := rfl
@[simp] theorem State.modFe_scOwed (s : State) (n : Nat) (f : FrontEnd → FrontEnd) : (s.modFe n f).scOwed = s.scOwed := rfl
@[simp] theorem State.modFe_agenda (s : State) (n : Nat) (f : FrontEnd → FrontEnd) : (s.modFe n f).agenda = s.agenda := rfl
@[simp] theorem State.modFe_slots (s : State) (n : Nat) (f : FrontEnd → FrontEnd) : (s.modFe n f).slots = s.slots := rfl
@[simp] theorem State.modFe_budget (s : State) (n : Nat) (f : FrontEnd → FrontEnd) : (s.modFe n f).budget = s.budget := rfl
@[simp] theorem State.modFe_cur (s : State) (n : Nat) (f : FrontEnd → FrontEnd) : (s.modFe n f).cur = s.cur := rfl
@[simp] theorem State.modFe_freeCtr (s : State) (n : Nat) (f : FrontEnd → FrontEnd) : (s.modFe n f).freeCtr = s.freeCtr := rfl
@[simp] theorem State.modFe_nextId (s : State) (n : Nat) (f : FrontEnd → FrontEnd) : (s.modFe n f).nextId = s.nextId := rfl
@[simp] theorem State.modFe_nextAcc (s : State) (n : Nat) (f : FrontEnd → FrontEnd) : (s.modFe n f).nextAcc = s.nextAcc := rfl
@[simp] theorem State.modFe_issues (s : State) (n : Nat) (f : FrontEnd → FrontEnd) : (s.modFe n f).issues = s.issues := rfl

@[simp] theorem State.modLink_mem (s : State) (k : Nat) (f : Link → Link) : (s.modLink k f).mem = s.mem := rfl
@[simp] theorem State.modLink_stamps (s : State) (k : Nat) (f : Link → Link) : (s.modLink k f).stamps = s.stamps := rfl
@[simp] theorem State.modLink_llc (s : State) (k : Nat) (f : Link → Link) : (s.modLink k f).llc = s.llc := rfl
@[simp] theorem State.modLink_cores (s : State) (k : Nat) (f : Link → Link) : (s.modLink k f).cores = s.cores := rfl
@[simp] theorem State.modLink_dies (s : State) (k : Nat) (f : Link → Link) : (s.modLink k f).dies = s.dies := rfl
@[simp] theorem State.modLink_fes (s : State) (k : Nat) (f : Link → Link) : (s.modLink k f).fes = s.fes := rfl
@[simp] theorem State.modLink_grids (s : State) (k : Nat) (f : Link → Link) : (s.modLink k f).grids = s.grids := rfl
@[simp] theorem State.modLink_teams (s : State) (k : Nat) (f : Link → Link) : (s.modLink k f).teams = s.teams := rfl
@[simp] theorem State.modLink_copies (s : State) (k : Nat) (f : Link → Link) : (s.modLink k f).copies = s.copies := rfl
@[simp] theorem State.modLink_mops (s : State) (k : Nat) (f : Link → Link) : (s.modLink k f).mops = s.mops := rfl
@[simp] theorem State.modLink_log (s : State) (k : Nat) (f : Link → Link) : (s.modLink k f).log = s.log := rfl
@[simp] theorem State.modLink_cross (s : State) (k : Nat) (f : Link → Link) : (s.modLink k f).cross = s.cross := rfl
@[simp] theorem State.modLink_tasks (s : State) (k : Nat) (f : Link → Link) : (s.modLink k f).tasks = s.tasks := rfl
@[simp] theorem State.modLink_subs (s : State) (k : Nat) (f : Link → Link) : (s.modLink k f).subs = s.subs := rfl
@[simp] theorem State.modLink_bins (s : State) (k : Nat) (f : Link → Link) : (s.modLink k f).bins = s.bins := rfl
@[simp] theorem State.modLink_ready (s : State) (k : Nat) (f : Link → Link) : (s.modLink k f).ready = s.ready := rfl
@[simp] theorem State.modLink_boot (s : State) (k : Nat) (f : Link → Link) : (s.modLink k f).boot = s.boot := rfl
@[simp] theorem State.modLink_therm (s : State) (k : Nat) (f : Link → Link) : (s.modLink k f).therm = s.therm := rfl
@[simp] theorem State.modLink_cxlBase (s : State) (k : Nat) (f : Link → Link) : (s.modLink k f).cxlBase = s.cxlBase := rfl
@[simp] theorem State.modLink_cxlLimit (s : State) (k : Nat) (f : Link → Link) : (s.modLink k f).cxlLimit = s.cxlLimit := rfl
@[simp] theorem State.modLink_peers (s : State) (k : Nat) (f : Link → Link) : (s.modLink k f).peers = s.peers := rfl
@[simp] theorem State.modLink_bars (s : State) (k : Nat) (f : Link → Link) : (s.modLink k f).bars = s.bars := rfl
@[simp] theorem State.modLink_reply (s : State) (k : Nat) (f : Link → Link) : (s.modLink k f).reply = s.reply := rfl
@[simp] theorem State.modLink_bar0 (s : State) (k : Nat) (f : Link → Link) : (s.modLink k f).bar0 = s.bar0 := rfl
@[simp] theorem State.modLink_prAlloc (s : State) (k : Nat) (f : Link → Link) : (s.modLink k f).prAlloc = s.prAlloc := rfl
@[simp] theorem State.modLink_unsupported (s : State) (k : Nat) (f : Link → Link) : (s.modLink k f).unsupported = s.unsupported := rfl
@[simp] theorem State.modLink_outbox (s : State) (k : Nat) (f : Link → Link) : (s.modLink k f).outbox = s.outbox := rfl
@[simp] theorem State.modLink_lost (s : State) (k : Nat) (f : Link → Link) : (s.modLink k f).lost = s.lost := rfl
@[simp] theorem State.modLink_sequencer (s : State) (k : Nat) (f : Link → Link) : (s.modLink k f).sequencer = s.sequencer := rfl
@[simp] theorem State.modLink_scOwed (s : State) (k : Nat) (f : Link → Link) : (s.modLink k f).scOwed = s.scOwed := rfl
@[simp] theorem State.modLink_agenda (s : State) (k : Nat) (f : Link → Link) : (s.modLink k f).agenda = s.agenda := rfl
@[simp] theorem State.modLink_slots (s : State) (k : Nat) (f : Link → Link) : (s.modLink k f).slots = s.slots := rfl
@[simp] theorem State.modLink_budget (s : State) (k : Nat) (f : Link → Link) : (s.modLink k f).budget = s.budget := rfl
@[simp] theorem State.modLink_cur (s : State) (k : Nat) (f : Link → Link) : (s.modLink k f).cur = s.cur := rfl
@[simp] theorem State.modLink_freeCtr (s : State) (k : Nat) (f : Link → Link) : (s.modLink k f).freeCtr = s.freeCtr := rfl
@[simp] theorem State.modLink_nextId (s : State) (k : Nat) (f : Link → Link) : (s.modLink k f).nextId = s.nextId := rfl
@[simp] theorem State.modLink_nextAcc (s : State) (k : Nat) (f : Link → Link) : (s.modLink k f).nextAcc = s.nextAcc := rfl
@[simp] theorem State.modLink_issues (s : State) (k : Nat) (f : Link → Link) : (s.modLink k f).issues = s.issues := rfl

@[simp] theorem State.post_mem (s : State) (n : Nat) (r : BitVec 256) : (s.post n r).mem = s.mem := rfl
@[simp] theorem State.post_stamps (s : State) (n : Nat) (r : BitVec 256) : (s.post n r).stamps = s.stamps := rfl
@[simp] theorem State.post_llc (s : State) (n : Nat) (r : BitVec 256) : (s.post n r).llc = s.llc := rfl
@[simp] theorem State.post_cores (s : State) (n : Nat) (r : BitVec 256) : (s.post n r).cores = s.cores := rfl
@[simp] theorem State.post_dies (s : State) (n : Nat) (r : BitVec 256) : (s.post n r).dies = s.dies := rfl
@[simp] theorem State.post_grids (s : State) (n : Nat) (r : BitVec 256) : (s.post n r).grids = s.grids := rfl
@[simp] theorem State.post_teams (s : State) (n : Nat) (r : BitVec 256) : (s.post n r).teams = s.teams := rfl
@[simp] theorem State.post_copies (s : State) (n : Nat) (r : BitVec 256) : (s.post n r).copies = s.copies := rfl
@[simp] theorem State.post_mops (s : State) (n : Nat) (r : BitVec 256) : (s.post n r).mops = s.mops := rfl
@[simp] theorem State.post_log (s : State) (n : Nat) (r : BitVec 256) : (s.post n r).log = s.log := rfl
@[simp] theorem State.post_cross (s : State) (n : Nat) (r : BitVec 256) : (s.post n r).cross = s.cross := rfl
@[simp] theorem State.post_tasks (s : State) (n : Nat) (r : BitVec 256) : (s.post n r).tasks = s.tasks := rfl
@[simp] theorem State.post_subs (s : State) (n : Nat) (r : BitVec 256) : (s.post n r).subs = s.subs := rfl
@[simp] theorem State.post_bins (s : State) (n : Nat) (r : BitVec 256) : (s.post n r).bins = s.bins := rfl
@[simp] theorem State.post_links (s : State) (n : Nat) (r : BitVec 256) : (s.post n r).links = s.links := rfl
@[simp] theorem State.post_ready (s : State) (n : Nat) (r : BitVec 256) : (s.post n r).ready = s.ready := rfl
@[simp] theorem State.post_boot (s : State) (n : Nat) (r : BitVec 256) : (s.post n r).boot = s.boot := rfl
@[simp] theorem State.post_therm (s : State) (n : Nat) (r : BitVec 256) : (s.post n r).therm = s.therm := rfl
@[simp] theorem State.post_cxlBase (s : State) (n : Nat) (r : BitVec 256) : (s.post n r).cxlBase = s.cxlBase := rfl
@[simp] theorem State.post_cxlLimit (s : State) (n : Nat) (r : BitVec 256) : (s.post n r).cxlLimit = s.cxlLimit := rfl
@[simp] theorem State.post_peers (s : State) (n : Nat) (r : BitVec 256) : (s.post n r).peers = s.peers := rfl
@[simp] theorem State.post_bars (s : State) (n : Nat) (r : BitVec 256) : (s.post n r).bars = s.bars := rfl
@[simp] theorem State.post_reply (s : State) (n : Nat) (r : BitVec 256) : (s.post n r).reply = s.reply := rfl
@[simp] theorem State.post_bar0 (s : State) (n : Nat) (r : BitVec 256) : (s.post n r).bar0 = s.bar0 := rfl
@[simp] theorem State.post_prAlloc (s : State) (n : Nat) (r : BitVec 256) : (s.post n r).prAlloc = s.prAlloc := rfl
@[simp] theorem State.post_unsupported (s : State) (n : Nat) (r : BitVec 256) : (s.post n r).unsupported = s.unsupported := rfl
@[simp] theorem State.post_outbox (s : State) (n : Nat) (r : BitVec 256) : (s.post n r).outbox = s.outbox := rfl
@[simp] theorem State.post_lost (s : State) (n : Nat) (r : BitVec 256) : (s.post n r).lost = s.lost := rfl
@[simp] theorem State.post_sequencer (s : State) (n : Nat) (r : BitVec 256) : (s.post n r).sequencer = s.sequencer := rfl
@[simp] theorem State.post_scOwed (s : State) (n : Nat) (r : BitVec 256) : (s.post n r).scOwed = s.scOwed := rfl
@[simp] theorem State.post_agenda (s : State) (n : Nat) (r : BitVec 256) : (s.post n r).agenda = s.agenda := rfl
@[simp] theorem State.post_slots (s : State) (n : Nat) (r : BitVec 256) : (s.post n r).slots = s.slots := rfl
@[simp] theorem State.post_budget (s : State) (n : Nat) (r : BitVec 256) : (s.post n r).budget = s.budget := rfl
@[simp] theorem State.post_cur (s : State) (n : Nat) (r : BitVec 256) : (s.post n r).cur = s.cur := rfl
@[simp] theorem State.post_freeCtr (s : State) (n : Nat) (r : BitVec 256) : (s.post n r).freeCtr = s.freeCtr := rfl
@[simp] theorem State.post_nextId (s : State) (n : Nat) (r : BitVec 256) : (s.post n r).nextId = s.nextId := rfl
@[simp] theorem State.post_nextAcc (s : State) (n : Nat) (r : BitVec 256) : (s.post n r).nextAcc = s.nextAcc := rfl
@[simp] theorem State.post_issues (s : State) (n : Nat) (r : BitVec 256) : (s.post n r).issues = s.issues := rfl

@[simp] theorem State.stall_mem (s : State) : (s.stall).mem = s.mem := rfl
@[simp] theorem State.stall_stamps (s : State) : (s.stall).stamps = s.stamps := rfl
@[simp] theorem State.stall_llc (s : State) : (s.stall).llc = s.llc := rfl
@[simp] theorem State.stall_cores (s : State) : (s.stall).cores = s.cores := rfl
@[simp] theorem State.stall_dies (s : State) : (s.stall).dies = s.dies := rfl
@[simp] theorem State.stall_fes (s : State) : (s.stall).fes = s.fes := rfl
@[simp] theorem State.stall_grids (s : State) : (s.stall).grids = s.grids := rfl
@[simp] theorem State.stall_teams (s : State) : (s.stall).teams = s.teams := rfl
@[simp] theorem State.stall_copies (s : State) : (s.stall).copies = s.copies := rfl
@[simp] theorem State.stall_mops (s : State) : (s.stall).mops = s.mops := rfl
@[simp] theorem State.stall_log (s : State) : (s.stall).log = s.log := rfl
@[simp] theorem State.stall_cross (s : State) : (s.stall).cross = s.cross := rfl
@[simp] theorem State.stall_tasks (s : State) : (s.stall).tasks = s.tasks := rfl
@[simp] theorem State.stall_subs (s : State) : (s.stall).subs = s.subs := rfl
@[simp] theorem State.stall_bins (s : State) : (s.stall).bins = s.bins := rfl
@[simp] theorem State.stall_links (s : State) : (s.stall).links = s.links := rfl
@[simp] theorem State.stall_ready (s : State) : (s.stall).ready = s.ready := rfl
@[simp] theorem State.stall_boot (s : State) : (s.stall).boot = s.boot := rfl
@[simp] theorem State.stall_therm (s : State) : (s.stall).therm = s.therm := rfl
@[simp] theorem State.stall_cxlBase (s : State) : (s.stall).cxlBase = s.cxlBase := rfl
@[simp] theorem State.stall_cxlLimit (s : State) : (s.stall).cxlLimit = s.cxlLimit := rfl
@[simp] theorem State.stall_peers (s : State) : (s.stall).peers = s.peers := rfl
@[simp] theorem State.stall_bars (s : State) : (s.stall).bars = s.bars := rfl
@[simp] theorem State.stall_reply (s : State) : (s.stall).reply = s.reply := rfl
@[simp] theorem State.stall_bar0 (s : State) : (s.stall).bar0 = s.bar0 := rfl
@[simp] theorem State.stall_prAlloc (s : State) : (s.stall).prAlloc = s.prAlloc := rfl
@[simp] theorem State.stall_unsupported (s : State) : (s.stall).unsupported = s.unsupported := rfl
@[simp] theorem State.stall_outbox (s : State) : (s.stall).outbox = s.outbox := rfl
@[simp] theorem State.stall_lost (s : State) : (s.stall).lost = s.lost := rfl
@[simp] theorem State.stall_sequencer (s : State) : (s.stall).sequencer = s.sequencer := rfl
@[simp] theorem State.stall_scOwed (s : State) : (s.stall).scOwed = s.scOwed := rfl
@[simp] theorem State.stall_agenda (s : State) : (s.stall).agenda = s.agenda := rfl
@[simp] theorem State.stall_slots (s : State) : (s.stall).slots = s.slots := rfl
@[simp] theorem State.stall_budget (s : State) : (s.stall).budget = s.budget := rfl
@[simp] theorem State.stall_freeCtr (s : State) : (s.stall).freeCtr = s.freeCtr := rfl
@[simp] theorem State.stall_nextId (s : State) : (s.stall).nextId = s.nextId := rfl
@[simp] theorem State.stall_nextAcc (s : State) : (s.stall).nextAcc = s.nextAcc := rfl
@[simp] theorem State.stall_issues (s : State) : (s.stall).issues = s.issues := rfl

/-! ## Parts by number through updates of other parts -/

@[simp] theorem State.grid_modTeam (s : State) (t : Nat) (f : Team → Team) (k : Nat) : (s.modTeam t f).grid k = s.grid k := rfl
@[simp] theorem State.core_modTeam (s : State) (t : Nat) (f : Team → Team) (k : Nat) : (s.modTeam t f).core k = s.core k := rfl
@[simp] theorem State.die_modTeam (s : State) (t : Nat) (f : Team → Team) (k : Nat) : (s.modTeam t f).die k = s.die k := rfl
@[simp] theorem State.fe_modTeam (s : State) (t : Nat) (f : Team → Team) (k : Nat) : (s.modTeam t f).fe k = s.fe k := rfl
@[simp] theorem State.link_modTeam (s : State) (t : Nat) (f : Team → Team) (k : Nat) : (s.modTeam t f).link k = s.link k := rfl

@[simp] theorem State.grid_modCrew (s : State) (t c : Nat) (f : Crew → Crew) (k : Nat) : (s.modCrew t c f).grid k = s.grid k := rfl
@[simp] theorem State.core_modCrew (s : State) (t c : Nat) (f : Crew → Crew) (k : Nat) : (s.modCrew t c f).core k = s.core k := rfl
@[simp] theorem State.die_modCrew (s : State) (t c : Nat) (f : Crew → Crew) (k : Nat) : (s.modCrew t c f).die k = s.die k := rfl
@[simp] theorem State.fe_modCrew (s : State) (t c : Nat) (f : Crew → Crew) (k : Nat) : (s.modCrew t c f).fe k = s.fe k := rfl
@[simp] theorem State.link_modCrew (s : State) (t c : Nat) (f : Crew → Crew) (k : Nat) : (s.modCrew t c f).link k = s.link k := rfl

@[simp] theorem State.team_modGrid (s : State) (g : Nat) (f : Grid → Grid) (k : Nat) : (s.modGrid g f).team k = s.team k := rfl
@[simp] theorem State.crew_modGrid (s : State) (g : Nat) (f : Grid → Grid) (k l : Nat) : (s.modGrid g f).crew k l = s.crew k l := rfl
@[simp] theorem State.core_modGrid (s : State) (g : Nat) (f : Grid → Grid) (k : Nat) : (s.modGrid g f).core k = s.core k := rfl
@[simp] theorem State.die_modGrid (s : State) (g : Nat) (f : Grid → Grid) (k : Nat) : (s.modGrid g f).die k = s.die k := rfl
@[simp] theorem State.fe_modGrid (s : State) (g : Nat) (f : Grid → Grid) (k : Nat) : (s.modGrid g f).fe k = s.fe k := rfl
@[simp] theorem State.link_modGrid (s : State) (g : Nat) (f : Grid → Grid) (k : Nat) : (s.modGrid g f).link k = s.link k := rfl

@[simp] theorem State.team_modCore (s : State) (c : Nat) (f : CoreState → CoreState) (k : Nat) : (s.modCore c f).team k = s.team k := rfl
@[simp] theorem State.crew_modCore (s : State) (c : Nat) (f : CoreState → CoreState) (k l : Nat) : (s.modCore c f).crew k l = s.crew k l := rfl
@[simp] theorem State.grid_modCore (s : State) (c : Nat) (f : CoreState → CoreState) (k : Nat) : (s.modCore c f).grid k = s.grid k := rfl
@[simp] theorem State.die_modCore (s : State) (c : Nat) (f : CoreState → CoreState) (k : Nat) : (s.modCore c f).die k = s.die k := rfl
@[simp] theorem State.fe_modCore (s : State) (c : Nat) (f : CoreState → CoreState) (k : Nat) : (s.modCore c f).fe k = s.fe k := rfl
@[simp] theorem State.link_modCore (s : State) (c : Nat) (f : CoreState → CoreState) (k : Nat) : (s.modCore c f).link k = s.link k := rfl

@[simp] theorem State.team_modDie (s : State) (d : Nat) (f : DieState → DieState) (k : Nat) : (s.modDie d f).team k = s.team k := rfl
@[simp] theorem State.crew_modDie (s : State) (d : Nat) (f : DieState → DieState) (k l : Nat) : (s.modDie d f).crew k l = s.crew k l := rfl
@[simp] theorem State.grid_modDie (s : State) (d : Nat) (f : DieState → DieState) (k : Nat) : (s.modDie d f).grid k = s.grid k := rfl
@[simp] theorem State.core_modDie (s : State) (d : Nat) (f : DieState → DieState) (k : Nat) : (s.modDie d f).core k = s.core k := rfl
@[simp] theorem State.fe_modDie (s : State) (d : Nat) (f : DieState → DieState) (k : Nat) : (s.modDie d f).fe k = s.fe k := rfl
@[simp] theorem State.link_modDie (s : State) (d : Nat) (f : DieState → DieState) (k : Nat) : (s.modDie d f).link k = s.link k := rfl

@[simp] theorem State.team_modFe (s : State) (n : Nat) (f : FrontEnd → FrontEnd) (k : Nat) : (s.modFe n f).team k = s.team k := rfl
@[simp] theorem State.crew_modFe (s : State) (n : Nat) (f : FrontEnd → FrontEnd) (k l : Nat) : (s.modFe n f).crew k l = s.crew k l := rfl
@[simp] theorem State.grid_modFe (s : State) (n : Nat) (f : FrontEnd → FrontEnd) (k : Nat) : (s.modFe n f).grid k = s.grid k := rfl
@[simp] theorem State.core_modFe (s : State) (n : Nat) (f : FrontEnd → FrontEnd) (k : Nat) : (s.modFe n f).core k = s.core k := rfl
@[simp] theorem State.die_modFe (s : State) (n : Nat) (f : FrontEnd → FrontEnd) (k : Nat) : (s.modFe n f).die k = s.die k := rfl
@[simp] theorem State.link_modFe (s : State) (n : Nat) (f : FrontEnd → FrontEnd) (k : Nat) : (s.modFe n f).link k = s.link k := rfl

@[simp] theorem State.team_modLink (s : State) (j : Nat) (f : Link → Link) (k : Nat) : (s.modLink j f).team k = s.team k := rfl
@[simp] theorem State.crew_modLink (s : State) (j : Nat) (f : Link → Link) (k l : Nat) : (s.modLink j f).crew k l = s.crew k l := rfl
@[simp] theorem State.grid_modLink (s : State) (j : Nat) (f : Link → Link) (k : Nat) : (s.modLink j f).grid k = s.grid k := rfl
@[simp] theorem State.core_modLink (s : State) (j : Nat) (f : Link → Link) (k : Nat) : (s.modLink j f).core k = s.core k := rfl
@[simp] theorem State.die_modLink (s : State) (j : Nat) (f : Link → Link) (k : Nat) : (s.modLink j f).die k = s.die k := rfl
@[simp] theorem State.fe_modLink (s : State) (j : Nat) (f : Link → Link) (k : Nat) : (s.modLink j f).fe k = s.fe k := rfl

@[simp] theorem State.team_post (s : State) (n : Nat) (r : BitVec 256) (k : Nat) : (s.post n r).team k = s.team k := rfl
@[simp] theorem State.crew_post (s : State) (n : Nat) (r : BitVec 256) (k l : Nat) : (s.post n r).crew k l = s.crew k l := rfl
@[simp] theorem State.grid_post (s : State) (n : Nat) (r : BitVec 256) (k : Nat) : (s.post n r).grid k = s.grid k := rfl
@[simp] theorem State.core_post (s : State) (n : Nat) (r : BitVec 256) (k : Nat) : (s.post n r).core k = s.core k := rfl
@[simp] theorem State.die_post (s : State) (n : Nat) (r : BitVec 256) (k : Nat) : (s.post n r).die k = s.die k := rfl
@[simp] theorem State.link_post (s : State) (n : Nat) (r : BitVec 256) (k : Nat) : (s.post n r).link k = s.link k := rfl

@[simp] theorem State.team_stall (s : State) (k : Nat) : (s.stall ).team k = s.team k := rfl
@[simp] theorem State.crew_stall (s : State) (k l : Nat) : (s.stall ).crew k l = s.crew k l := rfl
@[simp] theorem State.grid_stall (s : State) (k : Nat) : (s.stall ).grid k = s.grid k := rfl
@[simp] theorem State.core_stall (s : State) (k : Nat) : (s.stall ).core k = s.core k := rfl
@[simp] theorem State.die_stall (s : State) (k : Nat) : (s.stall ).die k = s.die k := rfl
@[simp] theorem State.fe_stall (s : State) (k : Nat) : (s.stall ).fe k = s.fe k := rfl
@[simp] theorem State.link_stall (s : State) (k : Nat) : (s.stall ).link k = s.link k := rfl

/-! ## The part that an update gives -/

theorem State.team_modTeam_same (s : State) {k : Nat} (h : k < s.teams.length) (f : Team → Team) :
    (s.modTeam k f).team k = f (s.team k) := nth_upd_same h f

theorem State.team_modTeam_ne (s : State) {k j : Nat} (h : j ≠ k) (f : Team → Team) :
    (s.modTeam k f).team j = s.team j := nth_upd_ne s.teams h f

@[simp] theorem State.modTeam_teams_length (s : State) (k : Nat) (f : Team → Team) :
    (s.modTeam k f).teams.length = s.teams.length := upd_length ..

theorem State.grid_modGrid_same (s : State) {k : Nat} (h : k < s.grids.length) (f : Grid → Grid) :
    (s.modGrid k f).grid k = f (s.grid k) := nth_upd_same h f

theorem State.grid_modGrid_ne (s : State) {k j : Nat} (h : j ≠ k) (f : Grid → Grid) :
    (s.modGrid k f).grid j = s.grid j := nth_upd_ne s.grids h f

@[simp] theorem State.modGrid_grids_length (s : State) (k : Nat) (f : Grid → Grid) :
    (s.modGrid k f).grids.length = s.grids.length := upd_length ..

theorem State.core_modCore_same (s : State) {k : Nat} (h : k < s.cores.length) (f : CoreState → CoreState) :
    (s.modCore k f).core k = f (s.core k) := nth_upd_same h f

theorem State.core_modCore_ne (s : State) {k j : Nat} (h : j ≠ k) (f : CoreState → CoreState) :
    (s.modCore k f).core j = s.core j := nth_upd_ne s.cores h f

@[simp] theorem State.modCore_cores_length (s : State) (k : Nat) (f : CoreState → CoreState) :
    (s.modCore k f).cores.length = s.cores.length := upd_length ..

theorem State.die_modDie_same (s : State) {k : Nat} (h : k < s.dies.length) (f : DieState → DieState) :
    (s.modDie k f).die k = f (s.die k) := nth_upd_same h f

theorem State.die_modDie_ne (s : State) {k j : Nat} (h : j ≠ k) (f : DieState → DieState) :
    (s.modDie k f).die j = s.die j := nth_upd_ne s.dies h f

@[simp] theorem State.modDie_dies_length (s : State) (k : Nat) (f : DieState → DieState) :
    (s.modDie k f).dies.length = s.dies.length := upd_length ..

theorem State.fe_modFe_same (s : State) {k : Nat} (h : k < s.fes.length) (f : FrontEnd → FrontEnd) :
    (s.modFe k f).fe k = f (s.fe k) := nth_upd_same h f

theorem State.fe_modFe_ne (s : State) {k j : Nat} (h : j ≠ k) (f : FrontEnd → FrontEnd) :
    (s.modFe k f).fe j = s.fe j := nth_upd_ne s.fes h f

@[simp] theorem State.modFe_fes_length (s : State) (k : Nat) (f : FrontEnd → FrontEnd) :
    (s.modFe k f).fes.length = s.fes.length := upd_length ..

theorem State.link_modLink_same (s : State) {k : Nat} (h : k < s.links.length) (f : Link → Link) :
    (s.modLink k f).link k = f (s.link k) := nth_upd_same h f

theorem State.link_modLink_ne (s : State) {k j : Nat} (h : j ≠ k) (f : Link → Link) :
    (s.modLink k f).link j = s.link j := nth_upd_ne s.links h f

@[simp] theorem State.modLink_links_length (s : State) (k : Nat) (f : Link → Link) :
    (s.modLink k f).links.length = s.links.length := upd_length ..

@[simp] theorem Team.modCrew_grid (tm : Team) (c : Nat) (f : Crew → Crew) : (tm.modCrew c f).grid = tm.grid := rfl
@[simp] theorem Team.modCrew_index (tm : Team) (c : Nat) (f : Crew → Crew) : (tm.modCrew c f).index = tm.index := rfl
@[simp] theorem Team.modCrew_status (tm : Team) (c : Nat) (f : Crew → Crew) : (tm.modCrew c f).status = tm.status := rfl
@[simp] theorem Team.modCrew_core (tm : Team) (c : Nat) (f : Crew → Crew) : (tm.modCrew c f).core = tm.core := rfl
@[simp] theorem Team.modCrew_placed (tm : Team) (c : Nat) (f : Crew → Crew) : (tm.modCrew c f).placed = tm.placed := rfl
@[simp] theorem Team.modCrew_tregs (tm : Team) (c : Nat) (f : Crew → Crew) : (tm.modCrew c f).tregs = tm.tregs := rfl
@[simp] theorem Team.modCrew_accs (tm : Team) (c : Nat) (f : Crew → Crew) : (tm.modCrew c f).accs = tm.accs := rfl
@[simp] theorem Team.modCrew_conv (tm : Team) (c : Nat) (f : Crew → Crew) : (tm.modCrew c f).conv = tm.conv := rfl
@[simp] theorem Team.modCrew_rings (tm : Team) (c : Nat) (f : Crew → Crew) : (tm.modCrew c f).rings = tm.rings := rfl
@[simp] theorem Team.modCrew_stencils (tm : Team) (c : Nat) (f : Crew → Crew) : (tm.modCrew c f).stencils = tm.stencils := rfl
@[simp] theorem Team.modCrew_dnslots (tm : Team) (c : Nat) (f : Crew → Crew) : (tm.modCrew c f).dnslots = tm.dnslots := rfl
@[simp] theorem Team.modCrew_spad (tm : Team) (c : Nat) (f : Crew → Crew) : (tm.modCrew c f).spad = tm.spad := rfl
@[simp] theorem Team.modCrew_unsealed (tm : Team) (c : Nat) (f : Crew → Crew) : (tm.modCrew c f).unsealed = tm.unsealed := rfl
@[simp] theorem Team.modCrew_absent (tm : Team) (c : Nat) (f : Crew → Crew) : (tm.modCrew c f).absent = tm.absent := rfl
@[simp] theorem Team.modCrew_bars (tm : Team) (c : Nat) (f : Crew → Crew) : (tm.modCrew c f).bars = tm.bars := rfl
@[simp] theorem Team.modCrew_guard (tm : Team) (c : Nat) (f : Crew → Crew) : (tm.modCrew c f).guard = tm.guard := rfl
@[simp] theorem Team.modCrew_escaped (tm : Team) (c : Nat) (f : Crew → Crew) : (tm.modCrew c f).escaped = tm.escaped := rfl
@[simp] theorem Team.modCrew_kills (tm : Team) (c : Nat) (f : Crew → Crew) : (tm.modCrew c f).kills = tm.kills := rfl
@[simp] theorem Team.modCrew_blocked (tm : Team) (c : Nat) (f : Crew → Crew) : (tm.modCrew c f).blocked = tm.blocked := rfl
@[simp] theorem Team.modCrew_owed (tm : Team) (c : Nat) (f : Crew → Crew) : (tm.modCrew c f).owed = tm.owed := rfl
@[simp] theorem Team.modCrew_stop (tm : Team) (c : Nat) (f : Crew → Crew) : (tm.modCrew c f).stop = tm.stop := rfl
@[simp] theorem Team.modCrew_saving (tm : Team) (c : Nat) (f : Crew → Crew) : (tm.modCrew c f).saving = tm.saving := rfl
@[simp] theorem Team.modCrew_resumed (tm : Team) (c : Nat) (f : Crew → Crew) : (tm.modCrew c f).resumed = tm.resumed := rfl
@[simp] theorem Team.modCrew_tilesAt (tm : Team) (c : Nat) (f : Crew → Crew) : (tm.modCrew c f).tilesAt = tm.tilesAt := rfl
@[simp] theorem Team.modCrew_claims (tm : Team) (c : Nat) (f : Crew → Crew) : (tm.modCrew c f).claims = tm.claims := rfl
@[simp] theorem Team.modCrew_notes (tm : Team) (c : Nat) (f : Crew → Crew) : (tm.modCrew c f).notes = tm.notes := rfl
@[simp] theorem Team.modCrew_seqNext (tm : Team) (c : Nat) (f : Crew → Crew) : (tm.modCrew c f).seqNext = tm.seqNext := rfl
@[simp] theorem Team.modCrew_staged (tm : Team) (c : Nat) (f : Crew → Crew) : (tm.modCrew c f).staged = tm.staged := rfl
@[simp] theorem Team.modCrew_spadBase (tm : Team) (c : Nat) (f : Crew → Crew) : (tm.modCrew c f).spadBase = tm.spadBase := rfl
@[simp] theorem Team.modCrew_accBase (tm : Team) (c : Nat) (f : Crew → Crew) : (tm.modCrew c f).accBase = tm.accBase := rfl
@[simp] theorem Team.modCrew_bank (tm : Team) (c : Nat) (f : Crew → Crew) : (tm.modCrew c f).bank = tm.bank := rfl
@[simp] theorem Team.modCrew_saveAt (tm : Team) (c : Nat) (f : Crew → Crew) : (tm.modCrew c f).saveAt = tm.saveAt := rfl

theorem State.team_modCrew_same (s : State) {t : Nat} (h : t < s.teams.length) (c : Nat) (f : Crew → Crew) :
    (s.modCrew t c f).team t = (s.team t).modCrew c f := nth_upd_same h _

theorem State.team_modCrew_ne (s : State) {t k : Nat} (h : k ≠ t) (c : Nat) (f : Crew → Crew) :
    (s.modCrew t c f).team k = s.team k := nth_upd_ne s.teams h _

theorem State.crew_modCrew_same (s : State) {t c : Nat} (h : t < s.teams.length) (hc : c < (s.team t).crews.length)
    (f : Crew → Crew) : (s.modCrew t c f).crew t c = f (s.crew t c) := by
  unfold State.crew
  rw [s.team_modCrew_same h]
  exact nth_upd_same hc f

theorem State.crew_modCrew_ne (s : State) {t c k l : Nat} (h : k ≠ t ∨ l ≠ c) (f : Crew → Crew) :
    (s.modCrew t c f).crew k l = s.crew k l := by
  unfold State.crew
  by_cases hk : k = t
  · subst hk
    by_cases ht : k < s.teams.length
    · rw [s.team_modCrew_same ht]
      exact nth_upd_ne _ (by simpa using h) f
    · have h1 : (s.modCrew k c f).team k = default := nth_beyond (by simp [State.modCrew, State.modTeam]; omega)
      have h2 : s.team k = default := nth_beyond (by omega)
      rw [h1, h2]
  · rw [s.team_modCrew_ne hk]

@[simp] theorem State.modCrew_teams_length (s : State) (t c : Nat) (f : Crew → Crew) :
    (s.modCrew t c f).teams.length = s.teams.length := upd_length ..

@[simp] theorem State.team_modCrew_grid (s : State) (t c k : Nat) (f : Crew → Crew) :
    ((s.modCrew t c f).team k).grid = (s.team k).grid := by
  by_cases hk : k = t
  · subst hk
    by_cases ht : k < s.teams.length
    · rw [s.team_modCrew_same ht]; rfl
    · have h1 : (s.modCrew k c f).team k = default := nth_beyond (by simp; omega)
      have h2 : s.team k = default := nth_beyond (by omega)
      rw [h1, h2]
  · rw [s.team_modCrew_ne hk]

@[simp] theorem State.gridOf_modCrew (s : State) (t c k : Nat) (f : Crew → Crew) :
    (s.modCrew t c f).gridOf k = s.gridOf k := by
  simp [State.gridOf]

/-- Two updates of one crew are one. -/
theorem State.modCrew_modCrew (s : State) (t c : Nat) (f g : Crew → Crew) :
    (s.modCrew t c f).modCrew t c g = s.modCrew t c fun cr => g (f cr) := by
  simp [State.modCrew, State.modTeam, Team.modCrew, upd_upd]

/-- An update of a crew depends only on what it makes of that crew. -/
theorem State.modCrew_congr (s : State) (t c : Nat) {f g : Crew → Crew} (h : f (s.crew t c) = g (s.crew t c)) :
    s.modCrew t c f = s.modCrew t c g := by
  have : upd (s.team t).crews c f = upd (s.team t).crews c g := upd_congr _ _ h
  have h2 : upd s.teams t (fun tm => tm.modCrew c f) = upd s.teams t fun tm => tm.modCrew c g :=
    upd_congr _ _ (by simpa [Team.modCrew, State.team] using this)
  simp [State.modCrew, State.modTeam, h2]

/-! ## Updates of a crew -/

@[simp] theorem Crew.setV_threads (cr : Crew) (n l : Nat) (x : Word32) : (cr.setV n l x).threads = cr.threads := rfl
@[simp] theorem Crew.setV_bundle (cr : Crew) (n l : Nat) (x : Word32) : (cr.setV n l x).bundle = cr.bundle := rfl
@[simp] theorem Crew.setV_fcount (cr : Crew) (n l : Nat) (x : Word32) : (cr.setV n l x).fcount = cr.fcount := rfl
@[simp] theorem Crew.setV_fpc (cr : Crew) (n l : Nat) (x : Word32) : (cr.setV n l x).fpc = cr.fpc := rfl
@[simp] theorem Crew.setV_sregs (cr : Crew) (n l : Nat) (x : Word32) : (cr.setV n l x).sregs = cr.sregs := rfl
@[simp] theorem Crew.setV_preds (cr : Crew) (n l : Nat) (x : Word32) : (cr.setV n l x).preds = cr.preds := rfl
@[simp] theorem Crew.setV_counted (cr : Crew) (n l : Nat) (x : Word32) : (cr.setV n l x).counted = cr.counted := rfl
@[simp] theorem Crew.setV_w6 (cr : Crew) (n l : Nat) (x : Word32) : (cr.setV n l x).w6 = cr.w6 := rfl
@[simp] theorem Crew.setV_w7 (cr : Crew) (n l : Nat) (x : Word32) : (cr.setV n l x).w7 = cr.w7 := rfl
@[simp] theorem Crew.setV_outs (cr : Crew) (n l : Nat) (x : Word32) : (cr.setV n l x).outs = cr.outs := rfl
@[simp] theorem Crew.setV_seals (cr : Crew) (n l : Nat) (x : Word32) : (cr.setV n l x).seals = cr.seals := rfl
@[simp] theorem Crew.setV_yielding (cr : Crew) (n l : Nat) (x : Word32) : (cr.setV n l x).yielding = cr.yielding := rfl
@[simp] theorem Crew.setV_retired (cr : Crew) (n l : Nat) (x : Word32) : (cr.setV n l x).retired = cr.retired := rfl
@[simp] theorem Crew.setV_age (cr : Crew) (n l : Nat) (x : Word32) : (cr.setV n l x).age = cr.age := rfl
@[simp] theorem Crew.setV_lastIssue (cr : Crew) (n l : Nat) (x : Word32) : (cr.setV n l x).lastIssue = cr.lastIssue := rfl
@[simp] theorem Crew.setV_clock (cr : Crew) (n l : Nat) (x : Word32) : (cr.setV n l x).clock = cr.clock := rfl
@[simp] theorem Crew.setV_ports (cr : Crew) (n l : Nat) (x : Word32) : (cr.setV n l x).ports = cr.ports := rfl
@[simp] theorem Crew.setV_copyAfter (cr : Crew) (n l : Nat) (x : Word32) : (cr.setV n l x).copyAfter = cr.copyAfter := rfl
@[simp] theorem Crew.setV_headed (cr : Crew) (n l : Nat) (x : Word32) : (cr.setV n l x).headed = cr.headed := rfl
@[simp] theorem Crew.setV_long (cr : Crew) (n l : Nat) (x : Word32) : (cr.setV n l x).long = cr.long := rfl
@[simp] theorem Crew.setV_stale (cr : Crew) (n l : Nat) (x : Word32) : (cr.setV n l x).stale = cr.stale := rfl
@[simp] theorem Crew.setV_picked (cr : Crew) (n l : Nat) (x : Word32) : (cr.setV n l x).picked = cr.picked := rfl
@[simp] theorem Crew.setV_vbase (cr : Crew) (n l : Nat) (x : Word32) : (cr.setV n l x).vbase = cr.vbase := rfl

@[simp] theorem Crew.setV64_threads (cr : Crew) (n l : Nat) (x : Word64) : (cr.setV64 n l x).threads = cr.threads := rfl
@[simp] theorem Crew.setV64_bundle (cr : Crew) (n l : Nat) (x : Word64) : (cr.setV64 n l x).bundle = cr.bundle := rfl
@[simp] theorem Crew.setV64_fcount (cr : Crew) (n l : Nat) (x : Word64) : (cr.setV64 n l x).fcount = cr.fcount := rfl
@[simp] theorem Crew.setV64_fpc (cr : Crew) (n l : Nat) (x : Word64) : (cr.setV64 n l x).fpc = cr.fpc := rfl
@[simp] theorem Crew.setV64_sregs (cr : Crew) (n l : Nat) (x : Word64) : (cr.setV64 n l x).sregs = cr.sregs := rfl
@[simp] theorem Crew.setV64_preds (cr : Crew) (n l : Nat) (x : Word64) : (cr.setV64 n l x).preds = cr.preds := rfl
@[simp] theorem Crew.setV64_counted (cr : Crew) (n l : Nat) (x : Word64) : (cr.setV64 n l x).counted = cr.counted := rfl
@[simp] theorem Crew.setV64_w6 (cr : Crew) (n l : Nat) (x : Word64) : (cr.setV64 n l x).w6 = cr.w6 := rfl
@[simp] theorem Crew.setV64_w7 (cr : Crew) (n l : Nat) (x : Word64) : (cr.setV64 n l x).w7 = cr.w7 := rfl
@[simp] theorem Crew.setV64_outs (cr : Crew) (n l : Nat) (x : Word64) : (cr.setV64 n l x).outs = cr.outs := rfl
@[simp] theorem Crew.setV64_seals (cr : Crew) (n l : Nat) (x : Word64) : (cr.setV64 n l x).seals = cr.seals := rfl
@[simp] theorem Crew.setV64_yielding (cr : Crew) (n l : Nat) (x : Word64) : (cr.setV64 n l x).yielding = cr.yielding := rfl
@[simp] theorem Crew.setV64_retired (cr : Crew) (n l : Nat) (x : Word64) : (cr.setV64 n l x).retired = cr.retired := rfl
@[simp] theorem Crew.setV64_age (cr : Crew) (n l : Nat) (x : Word64) : (cr.setV64 n l x).age = cr.age := rfl
@[simp] theorem Crew.setV64_lastIssue (cr : Crew) (n l : Nat) (x : Word64) : (cr.setV64 n l x).lastIssue = cr.lastIssue := rfl
@[simp] theorem Crew.setV64_clock (cr : Crew) (n l : Nat) (x : Word64) : (cr.setV64 n l x).clock = cr.clock := rfl
@[simp] theorem Crew.setV64_ports (cr : Crew) (n l : Nat) (x : Word64) : (cr.setV64 n l x).ports = cr.ports := rfl
@[simp] theorem Crew.setV64_copyAfter (cr : Crew) (n l : Nat) (x : Word64) : (cr.setV64 n l x).copyAfter = cr.copyAfter := rfl
@[simp] theorem Crew.setV64_headed (cr : Crew) (n l : Nat) (x : Word64) : (cr.setV64 n l x).headed = cr.headed := rfl
@[simp] theorem Crew.setV64_long (cr : Crew) (n l : Nat) (x : Word64) : (cr.setV64 n l x).long = cr.long := rfl
@[simp] theorem Crew.setV64_stale (cr : Crew) (n l : Nat) (x : Word64) : (cr.setV64 n l x).stale = cr.stale := rfl
@[simp] theorem Crew.setV64_picked (cr : Crew) (n l : Nat) (x : Word64) : (cr.setV64 n l x).picked = cr.picked := rfl
@[simp] theorem Crew.setV64_vbase (cr : Crew) (n l : Nat) (x : Word64) : (cr.setV64 n l x).vbase = cr.vbase := rfl

@[simp] theorem Crew.setS_threads (cr : Crew) (n : Nat) (x : Word32) : (cr.setS n x).threads = cr.threads := rfl
@[simp] theorem Crew.setS_bundle (cr : Crew) (n : Nat) (x : Word32) : (cr.setS n x).bundle = cr.bundle := rfl
@[simp] theorem Crew.setS_fcount (cr : Crew) (n : Nat) (x : Word32) : (cr.setS n x).fcount = cr.fcount := rfl
@[simp] theorem Crew.setS_fpc (cr : Crew) (n : Nat) (x : Word32) : (cr.setS n x).fpc = cr.fpc := rfl
@[simp] theorem Crew.setS_vregs (cr : Crew) (n : Nat) (x : Word32) : (cr.setS n x).vregs = cr.vregs := rfl
@[simp] theorem Crew.setS_preds (cr : Crew) (n : Nat) (x : Word32) : (cr.setS n x).preds = cr.preds := rfl
@[simp] theorem Crew.setS_counted (cr : Crew) (n : Nat) (x : Word32) : (cr.setS n x).counted = cr.counted := rfl
@[simp] theorem Crew.setS_w6 (cr : Crew) (n : Nat) (x : Word32) : (cr.setS n x).w6 = cr.w6 := rfl
@[simp] theorem Crew.setS_w7 (cr : Crew) (n : Nat) (x : Word32) : (cr.setS n x).w7 = cr.w7 := rfl
@[simp] theorem Crew.setS_outs (cr : Crew) (n : Nat) (x : Word32) : (cr.setS n x).outs = cr.outs := rfl
@[simp] theorem Crew.setS_seals (cr : Crew) (n : Nat) (x : Word32) : (cr.setS n x).seals = cr.seals := rfl
@[simp] theorem Crew.setS_yielding (cr : Crew) (n : Nat) (x : Word32) : (cr.setS n x).yielding = cr.yielding := rfl
@[simp] theorem Crew.setS_retired (cr : Crew) (n : Nat) (x : Word32) : (cr.setS n x).retired = cr.retired := rfl
@[simp] theorem Crew.setS_age (cr : Crew) (n : Nat) (x : Word32) : (cr.setS n x).age = cr.age := rfl
@[simp] theorem Crew.setS_lastIssue (cr : Crew) (n : Nat) (x : Word32) : (cr.setS n x).lastIssue = cr.lastIssue := rfl
@[simp] theorem Crew.setS_clock (cr : Crew) (n : Nat) (x : Word32) : (cr.setS n x).clock = cr.clock := rfl
@[simp] theorem Crew.setS_ports (cr : Crew) (n : Nat) (x : Word32) : (cr.setS n x).ports = cr.ports := rfl
@[simp] theorem Crew.setS_copyAfter (cr : Crew) (n : Nat) (x : Word32) : (cr.setS n x).copyAfter = cr.copyAfter := rfl
@[simp] theorem Crew.setS_headed (cr : Crew) (n : Nat) (x : Word32) : (cr.setS n x).headed = cr.headed := rfl
@[simp] theorem Crew.setS_long (cr : Crew) (n : Nat) (x : Word32) : (cr.setS n x).long = cr.long := rfl
@[simp] theorem Crew.setS_stale (cr : Crew) (n : Nat) (x : Word32) : (cr.setS n x).stale = cr.stale := rfl
@[simp] theorem Crew.setS_picked (cr : Crew) (n : Nat) (x : Word32) : (cr.setS n x).picked = cr.picked := rfl
@[simp] theorem Crew.setS_vbase (cr : Crew) (n : Nat) (x : Word32) : (cr.setS n x).vbase = cr.vbase := rfl

@[simp] theorem Crew.setS64_threads (cr : Crew) (n : Nat) (x : Word64) : (cr.setS64 n x).threads = cr.threads := rfl
@[simp] theorem Crew.setS64_bundle (cr : Crew) (n : Nat) (x : Word64) : (cr.setS64 n x).bundle = cr.bundle := rfl
@[simp] theorem Crew.setS64_fcount (cr : Crew) (n : Nat) (x : Word64) : (cr.setS64 n x).fcount = cr.fcount := rfl
@[simp] theorem Crew.setS64_fpc (cr : Crew) (n : Nat) (x : Word64) : (cr.setS64 n x).fpc = cr.fpc := rfl
@[simp] theorem Crew.setS64_vregs (cr : Crew) (n : Nat) (x : Word64) : (cr.setS64 n x).vregs = cr.vregs := rfl
@[simp] theorem Crew.setS64_preds (cr : Crew) (n : Nat) (x : Word64) : (cr.setS64 n x).preds = cr.preds := rfl
@[simp] theorem Crew.setS64_counted (cr : Crew) (n : Nat) (x : Word64) : (cr.setS64 n x).counted = cr.counted := rfl
@[simp] theorem Crew.setS64_w6 (cr : Crew) (n : Nat) (x : Word64) : (cr.setS64 n x).w6 = cr.w6 := rfl
@[simp] theorem Crew.setS64_w7 (cr : Crew) (n : Nat) (x : Word64) : (cr.setS64 n x).w7 = cr.w7 := rfl
@[simp] theorem Crew.setS64_outs (cr : Crew) (n : Nat) (x : Word64) : (cr.setS64 n x).outs = cr.outs := rfl
@[simp] theorem Crew.setS64_seals (cr : Crew) (n : Nat) (x : Word64) : (cr.setS64 n x).seals = cr.seals := rfl
@[simp] theorem Crew.setS64_yielding (cr : Crew) (n : Nat) (x : Word64) : (cr.setS64 n x).yielding = cr.yielding := rfl
@[simp] theorem Crew.setS64_retired (cr : Crew) (n : Nat) (x : Word64) : (cr.setS64 n x).retired = cr.retired := rfl
@[simp] theorem Crew.setS64_age (cr : Crew) (n : Nat) (x : Word64) : (cr.setS64 n x).age = cr.age := rfl
@[simp] theorem Crew.setS64_lastIssue (cr : Crew) (n : Nat) (x : Word64) : (cr.setS64 n x).lastIssue = cr.lastIssue := rfl
@[simp] theorem Crew.setS64_clock (cr : Crew) (n : Nat) (x : Word64) : (cr.setS64 n x).clock = cr.clock := rfl
@[simp] theorem Crew.setS64_ports (cr : Crew) (n : Nat) (x : Word64) : (cr.setS64 n x).ports = cr.ports := rfl
@[simp] theorem Crew.setS64_copyAfter (cr : Crew) (n : Nat) (x : Word64) : (cr.setS64 n x).copyAfter = cr.copyAfter := rfl
@[simp] theorem Crew.setS64_headed (cr : Crew) (n : Nat) (x : Word64) : (cr.setS64 n x).headed = cr.headed := rfl
@[simp] theorem Crew.setS64_long (cr : Crew) (n : Nat) (x : Word64) : (cr.setS64 n x).long = cr.long := rfl
@[simp] theorem Crew.setS64_stale (cr : Crew) (n : Nat) (x : Word64) : (cr.setS64 n x).stale = cr.stale := rfl
@[simp] theorem Crew.setS64_picked (cr : Crew) (n : Nat) (x : Word64) : (cr.setS64 n x).picked = cr.picked := rfl
@[simp] theorem Crew.setS64_vbase (cr : Crew) (n : Nat) (x : Word64) : (cr.setS64 n x).vbase = cr.vbase := rfl

@[simp] theorem Crew.modTh_bundle (cr : Crew) (l : Nat) (f : Thread → Thread) : (cr.modTh l f).bundle = cr.bundle := rfl
@[simp] theorem Crew.modTh_fcount (cr : Crew) (l : Nat) (f : Thread → Thread) : (cr.modTh l f).fcount = cr.fcount := rfl
@[simp] theorem Crew.modTh_fpc (cr : Crew) (l : Nat) (f : Thread → Thread) : (cr.modTh l f).fpc = cr.fpc := rfl
@[simp] theorem Crew.modTh_sregs (cr : Crew) (l : Nat) (f : Thread → Thread) : (cr.modTh l f).sregs = cr.sregs := rfl
@[simp] theorem Crew.modTh_vregs (cr : Crew) (l : Nat) (f : Thread → Thread) : (cr.modTh l f).vregs = cr.vregs := rfl
@[simp] theorem Crew.modTh_preds (cr : Crew) (l : Nat) (f : Thread → Thread) : (cr.modTh l f).preds = cr.preds := rfl
@[simp] theorem Crew.modTh_counted (cr : Crew) (l : Nat) (f : Thread → Thread) : (cr.modTh l f).counted = cr.counted := rfl
@[simp] theorem Crew.modTh_w6 (cr : Crew) (l : Nat) (f : Thread → Thread) : (cr.modTh l f).w6 = cr.w6 := rfl
@[simp] theorem Crew.modTh_w7 (cr : Crew) (l : Nat) (f : Thread → Thread) : (cr.modTh l f).w7 = cr.w7 := rfl
@[simp] theorem Crew.modTh_outs (cr : Crew) (l : Nat) (f : Thread → Thread) : (cr.modTh l f).outs = cr.outs := rfl
@[simp] theorem Crew.modTh_seals (cr : Crew) (l : Nat) (f : Thread → Thread) : (cr.modTh l f).seals = cr.seals := rfl
@[simp] theorem Crew.modTh_yielding (cr : Crew) (l : Nat) (f : Thread → Thread) : (cr.modTh l f).yielding = cr.yielding := rfl
@[simp] theorem Crew.modTh_retired (cr : Crew) (l : Nat) (f : Thread → Thread) : (cr.modTh l f).retired = cr.retired := rfl
@[simp] theorem Crew.modTh_age (cr : Crew) (l : Nat) (f : Thread → Thread) : (cr.modTh l f).age = cr.age := rfl
@[simp] theorem Crew.modTh_lastIssue (cr : Crew) (l : Nat) (f : Thread → Thread) : (cr.modTh l f).lastIssue = cr.lastIssue := rfl
@[simp] theorem Crew.modTh_clock (cr : Crew) (l : Nat) (f : Thread → Thread) : (cr.modTh l f).clock = cr.clock := rfl
@[simp] theorem Crew.modTh_ports (cr : Crew) (l : Nat) (f : Thread → Thread) : (cr.modTh l f).ports = cr.ports := rfl
@[simp] theorem Crew.modTh_copyAfter (cr : Crew) (l : Nat) (f : Thread → Thread) : (cr.modTh l f).copyAfter = cr.copyAfter := rfl
@[simp] theorem Crew.modTh_headed (cr : Crew) (l : Nat) (f : Thread → Thread) : (cr.modTh l f).headed = cr.headed := rfl
@[simp] theorem Crew.modTh_long (cr : Crew) (l : Nat) (f : Thread → Thread) : (cr.modTh l f).long = cr.long := rfl
@[simp] theorem Crew.modTh_stale (cr : Crew) (l : Nat) (f : Thread → Thread) : (cr.modTh l f).stale = cr.stale := rfl
@[simp] theorem Crew.modTh_picked (cr : Crew) (l : Nat) (f : Thread → Thread) : (cr.modTh l f).picked = cr.picked := rfl
@[simp] theorem Crew.modTh_vbase (cr : Crew) (l : Nat) (f : Thread → Thread) : (cr.modTh l f).vbase = cr.vbase := rfl

@[simp] theorem Crew.modLanes_bundle (cr : Crew) (m : Mask) (f : Nat → Thread → Thread) : (cr.modLanes m f).bundle = cr.bundle := rfl
@[simp] theorem Crew.modLanes_fcount (cr : Crew) (m : Mask) (f : Nat → Thread → Thread) : (cr.modLanes m f).fcount = cr.fcount := rfl
@[simp] theorem Crew.modLanes_fpc (cr : Crew) (m : Mask) (f : Nat → Thread → Thread) : (cr.modLanes m f).fpc = cr.fpc := rfl
@[simp] theorem Crew.modLanes_sregs (cr : Crew) (m : Mask) (f : Nat → Thread → Thread) : (cr.modLanes m f).sregs = cr.sregs := rfl
@[simp] theorem Crew.modLanes_vregs (cr : Crew) (m : Mask) (f : Nat → Thread → Thread) : (cr.modLanes m f).vregs = cr.vregs := rfl
@[simp] theorem Crew.modLanes_preds (cr : Crew) (m : Mask) (f : Nat → Thread → Thread) : (cr.modLanes m f).preds = cr.preds := rfl
@[simp] theorem Crew.modLanes_counted (cr : Crew) (m : Mask) (f : Nat → Thread → Thread) : (cr.modLanes m f).counted = cr.counted := rfl
@[simp] theorem Crew.modLanes_w6 (cr : Crew) (m : Mask) (f : Nat → Thread → Thread) : (cr.modLanes m f).w6 = cr.w6 := rfl
@[simp] theorem Crew.modLanes_w7 (cr : Crew) (m : Mask) (f : Nat → Thread → Thread) : (cr.modLanes m f).w7 = cr.w7 := rfl
@[simp] theorem Crew.modLanes_outs (cr : Crew) (m : Mask) (f : Nat → Thread → Thread) : (cr.modLanes m f).outs = cr.outs := rfl
@[simp] theorem Crew.modLanes_seals (cr : Crew) (m : Mask) (f : Nat → Thread → Thread) : (cr.modLanes m f).seals = cr.seals := rfl
@[simp] theorem Crew.modLanes_yielding (cr : Crew) (m : Mask) (f : Nat → Thread → Thread) : (cr.modLanes m f).yielding = cr.yielding := rfl
@[simp] theorem Crew.modLanes_retired (cr : Crew) (m : Mask) (f : Nat → Thread → Thread) : (cr.modLanes m f).retired = cr.retired := rfl
@[simp] theorem Crew.modLanes_age (cr : Crew) (m : Mask) (f : Nat → Thread → Thread) : (cr.modLanes m f).age = cr.age := rfl
@[simp] theorem Crew.modLanes_lastIssue (cr : Crew) (m : Mask) (f : Nat → Thread → Thread) : (cr.modLanes m f).lastIssue = cr.lastIssue := rfl
@[simp] theorem Crew.modLanes_clock (cr : Crew) (m : Mask) (f : Nat → Thread → Thread) : (cr.modLanes m f).clock = cr.clock := rfl
@[simp] theorem Crew.modLanes_ports (cr : Crew) (m : Mask) (f : Nat → Thread → Thread) : (cr.modLanes m f).ports = cr.ports := rfl
@[simp] theorem Crew.modLanes_copyAfter (cr : Crew) (m : Mask) (f : Nat → Thread → Thread) : (cr.modLanes m f).copyAfter = cr.copyAfter := rfl
@[simp] theorem Crew.modLanes_headed (cr : Crew) (m : Mask) (f : Nat → Thread → Thread) : (cr.modLanes m f).headed = cr.headed := rfl
@[simp] theorem Crew.modLanes_long (cr : Crew) (m : Mask) (f : Nat → Thread → Thread) : (cr.modLanes m f).long = cr.long := rfl
@[simp] theorem Crew.modLanes_stale (cr : Crew) (m : Mask) (f : Nat → Thread → Thread) : (cr.modLanes m f).stale = cr.stale := rfl
@[simp] theorem Crew.modLanes_picked (cr : Crew) (m : Mask) (f : Nat → Thread → Thread) : (cr.modLanes m f).picked = cr.picked := rfl
@[simp] theorem Crew.modLanes_vbase (cr : Crew) (m : Mask) (f : Nat → Thread → Thread) : (cr.modLanes m f).vbase = cr.vbase := rfl

@[simp] theorem Crew.raise_threads (cr : Crew) (ctr id : Nat) : (cr.raise ctr id).threads = cr.threads := rfl
@[simp] theorem Crew.raise_bundle (cr : Crew) (ctr id : Nat) : (cr.raise ctr id).bundle = cr.bundle := rfl
@[simp] theorem Crew.raise_fcount (cr : Crew) (ctr id : Nat) : (cr.raise ctr id).fcount = cr.fcount := rfl
@[simp] theorem Crew.raise_fpc (cr : Crew) (ctr id : Nat) : (cr.raise ctr id).fpc = cr.fpc := rfl
@[simp] theorem Crew.raise_sregs (cr : Crew) (ctr id : Nat) : (cr.raise ctr id).sregs = cr.sregs := rfl
@[simp] theorem Crew.raise_vregs (cr : Crew) (ctr id : Nat) : (cr.raise ctr id).vregs = cr.vregs := rfl
@[simp] theorem Crew.raise_preds (cr : Crew) (ctr id : Nat) : (cr.raise ctr id).preds = cr.preds := rfl
@[simp] theorem Crew.raise_w6 (cr : Crew) (ctr id : Nat) : (cr.raise ctr id).w6 = cr.w6 := rfl
@[simp] theorem Crew.raise_w7 (cr : Crew) (ctr id : Nat) : (cr.raise ctr id).w7 = cr.w7 := rfl
@[simp] theorem Crew.raise_outs (cr : Crew) (ctr id : Nat) : (cr.raise ctr id).outs = cr.outs := rfl
@[simp] theorem Crew.raise_seals (cr : Crew) (ctr id : Nat) : (cr.raise ctr id).seals = cr.seals := rfl
@[simp] theorem Crew.raise_yielding (cr : Crew) (ctr id : Nat) : (cr.raise ctr id).yielding = cr.yielding := rfl
@[simp] theorem Crew.raise_retired (cr : Crew) (ctr id : Nat) : (cr.raise ctr id).retired = cr.retired := rfl
@[simp] theorem Crew.raise_age (cr : Crew) (ctr id : Nat) : (cr.raise ctr id).age = cr.age := rfl
@[simp] theorem Crew.raise_lastIssue (cr : Crew) (ctr id : Nat) : (cr.raise ctr id).lastIssue = cr.lastIssue := rfl
@[simp] theorem Crew.raise_clock (cr : Crew) (ctr id : Nat) : (cr.raise ctr id).clock = cr.clock := rfl
@[simp] theorem Crew.raise_ports (cr : Crew) (ctr id : Nat) : (cr.raise ctr id).ports = cr.ports := rfl
@[simp] theorem Crew.raise_copyAfter (cr : Crew) (ctr id : Nat) : (cr.raise ctr id).copyAfter = cr.copyAfter := rfl
@[simp] theorem Crew.raise_headed (cr : Crew) (ctr id : Nat) : (cr.raise ctr id).headed = cr.headed := rfl
@[simp] theorem Crew.raise_long (cr : Crew) (ctr id : Nat) : (cr.raise ctr id).long = cr.long := rfl
@[simp] theorem Crew.raise_stale (cr : Crew) (ctr id : Nat) : (cr.raise ctr id).stale = cr.stale := rfl
@[simp] theorem Crew.raise_picked (cr : Crew) (ctr id : Nat) : (cr.raise ctr id).picked = cr.picked := rfl
@[simp] theorem Crew.raise_vbase (cr : Crew) (ctr id : Nat) : (cr.raise ctr id).vbase = cr.vbase := rfl

@[simp] theorem Crew.lower_threads (cr : Crew) (id : Nat) : (cr.lower id).threads = cr.threads := rfl
@[simp] theorem Crew.lower_bundle (cr : Crew) (id : Nat) : (cr.lower id).bundle = cr.bundle := rfl
@[simp] theorem Crew.lower_fcount (cr : Crew) (id : Nat) : (cr.lower id).fcount = cr.fcount := rfl
@[simp] theorem Crew.lower_fpc (cr : Crew) (id : Nat) : (cr.lower id).fpc = cr.fpc := rfl
@[simp] theorem Crew.lower_sregs (cr : Crew) (id : Nat) : (cr.lower id).sregs = cr.sregs := rfl
@[simp] theorem Crew.lower_vregs (cr : Crew) (id : Nat) : (cr.lower id).vregs = cr.vregs := rfl
@[simp] theorem Crew.lower_preds (cr : Crew) (id : Nat) : (cr.lower id).preds = cr.preds := rfl
@[simp] theorem Crew.lower_w6 (cr : Crew) (id : Nat) : (cr.lower id).w6 = cr.w6 := rfl
@[simp] theorem Crew.lower_w7 (cr : Crew) (id : Nat) : (cr.lower id).w7 = cr.w7 := rfl
@[simp] theorem Crew.lower_outs (cr : Crew) (id : Nat) : (cr.lower id).outs = cr.outs := rfl
@[simp] theorem Crew.lower_seals (cr : Crew) (id : Nat) : (cr.lower id).seals = cr.seals := rfl
@[simp] theorem Crew.lower_yielding (cr : Crew) (id : Nat) : (cr.lower id).yielding = cr.yielding := rfl
@[simp] theorem Crew.lower_retired (cr : Crew) (id : Nat) : (cr.lower id).retired = cr.retired := rfl
@[simp] theorem Crew.lower_age (cr : Crew) (id : Nat) : (cr.lower id).age = cr.age := rfl
@[simp] theorem Crew.lower_lastIssue (cr : Crew) (id : Nat) : (cr.lower id).lastIssue = cr.lastIssue := rfl
@[simp] theorem Crew.lower_clock (cr : Crew) (id : Nat) : (cr.lower id).clock = cr.clock := rfl
@[simp] theorem Crew.lower_ports (cr : Crew) (id : Nat) : (cr.lower id).ports = cr.ports := rfl
@[simp] theorem Crew.lower_copyAfter (cr : Crew) (id : Nat) : (cr.lower id).copyAfter = cr.copyAfter := rfl
@[simp] theorem Crew.lower_headed (cr : Crew) (id : Nat) : (cr.lower id).headed = cr.headed := rfl
@[simp] theorem Crew.lower_long (cr : Crew) (id : Nat) : (cr.lower id).long = cr.long := rfl
@[simp] theorem Crew.lower_stale (cr : Crew) (id : Nat) : (cr.lower id).stale = cr.stale := rfl
@[simp] theorem Crew.lower_picked (cr : Crew) (id : Nat) : (cr.lower id).picked = cr.picked := rfl
@[simp] theorem Crew.lower_vbase (cr : Crew) (id : Nat) : (cr.lower id).vbase = cr.vbase := rfl

@[simp] theorem Crew.await_threads (cr : Crew) (id : Nat) (rs : List Res) : (cr.await id rs).threads = cr.threads := rfl
@[simp] theorem Crew.await_bundle (cr : Crew) (id : Nat) (rs : List Res) : (cr.await id rs).bundle = cr.bundle := rfl
@[simp] theorem Crew.await_fcount (cr : Crew) (id : Nat) (rs : List Res) : (cr.await id rs).fcount = cr.fcount := rfl
@[simp] theorem Crew.await_fpc (cr : Crew) (id : Nat) (rs : List Res) : (cr.await id rs).fpc = cr.fpc := rfl
@[simp] theorem Crew.await_sregs (cr : Crew) (id : Nat) (rs : List Res) : (cr.await id rs).sregs = cr.sregs := rfl
@[simp] theorem Crew.await_vregs (cr : Crew) (id : Nat) (rs : List Res) : (cr.await id rs).vregs = cr.vregs := rfl
@[simp] theorem Crew.await_preds (cr : Crew) (id : Nat) (rs : List Res) : (cr.await id rs).preds = cr.preds := rfl
@[simp] theorem Crew.await_counted (cr : Crew) (id : Nat) (rs : List Res) : (cr.await id rs).counted = cr.counted := rfl
@[simp] theorem Crew.await_w6 (cr : Crew) (id : Nat) (rs : List Res) : (cr.await id rs).w6 = cr.w6 := rfl
@[simp] theorem Crew.await_w7 (cr : Crew) (id : Nat) (rs : List Res) : (cr.await id rs).w7 = cr.w7 := rfl
@[simp] theorem Crew.await_seals (cr : Crew) (id : Nat) (rs : List Res) : (cr.await id rs).seals = cr.seals := rfl
@[simp] theorem Crew.await_yielding (cr : Crew) (id : Nat) (rs : List Res) : (cr.await id rs).yielding = cr.yielding := rfl
@[simp] theorem Crew.await_retired (cr : Crew) (id : Nat) (rs : List Res) : (cr.await id rs).retired = cr.retired := rfl
@[simp] theorem Crew.await_age (cr : Crew) (id : Nat) (rs : List Res) : (cr.await id rs).age = cr.age := rfl
@[simp] theorem Crew.await_lastIssue (cr : Crew) (id : Nat) (rs : List Res) : (cr.await id rs).lastIssue = cr.lastIssue := rfl
@[simp] theorem Crew.await_clock (cr : Crew) (id : Nat) (rs : List Res) : (cr.await id rs).clock = cr.clock := rfl
@[simp] theorem Crew.await_ports (cr : Crew) (id : Nat) (rs : List Res) : (cr.await id rs).ports = cr.ports := rfl
@[simp] theorem Crew.await_copyAfter (cr : Crew) (id : Nat) (rs : List Res) : (cr.await id rs).copyAfter = cr.copyAfter := rfl
@[simp] theorem Crew.await_headed (cr : Crew) (id : Nat) (rs : List Res) : (cr.await id rs).headed = cr.headed := rfl
@[simp] theorem Crew.await_long (cr : Crew) (id : Nat) (rs : List Res) : (cr.await id rs).long = cr.long := rfl
@[simp] theorem Crew.await_stale (cr : Crew) (id : Nat) (rs : List Res) : (cr.await id rs).stale = cr.stale := rfl
@[simp] theorem Crew.await_picked (cr : Crew) (id : Nat) (rs : List Res) : (cr.await id rs).picked = cr.picked := rfl
@[simp] theorem Crew.await_vbase (cr : Crew) (id : Nat) (rs : List Res) : (cr.await id rs).vbase = cr.vbase := rfl

@[simp] theorem Crew.returned_threads (cr : Crew) (id : Nat) : (cr.returned id).threads = cr.threads := rfl
@[simp] theorem Crew.returned_bundle (cr : Crew) (id : Nat) : (cr.returned id).bundle = cr.bundle := rfl
@[simp] theorem Crew.returned_fcount (cr : Crew) (id : Nat) : (cr.returned id).fcount = cr.fcount := rfl
@[simp] theorem Crew.returned_fpc (cr : Crew) (id : Nat) : (cr.returned id).fpc = cr.fpc := rfl
@[simp] theorem Crew.returned_sregs (cr : Crew) (id : Nat) : (cr.returned id).sregs = cr.sregs := rfl
@[simp] theorem Crew.returned_vregs (cr : Crew) (id : Nat) : (cr.returned id).vregs = cr.vregs := rfl
@[simp] theorem Crew.returned_preds (cr : Crew) (id : Nat) : (cr.returned id).preds = cr.preds := rfl
@[simp] theorem Crew.returned_counted (cr : Crew) (id : Nat) : (cr.returned id).counted = cr.counted := rfl
@[simp] theorem Crew.returned_w6 (cr : Crew) (id : Nat) : (cr.returned id).w6 = cr.w6 := rfl
@[simp] theorem Crew.returned_w7 (cr : Crew) (id : Nat) : (cr.returned id).w7 = cr.w7 := rfl
@[simp] theorem Crew.returned_seals (cr : Crew) (id : Nat) : (cr.returned id).seals = cr.seals := rfl
@[simp] theorem Crew.returned_yielding (cr : Crew) (id : Nat) : (cr.returned id).yielding = cr.yielding := rfl
@[simp] theorem Crew.returned_retired (cr : Crew) (id : Nat) : (cr.returned id).retired = cr.retired := rfl
@[simp] theorem Crew.returned_age (cr : Crew) (id : Nat) : (cr.returned id).age = cr.age := rfl
@[simp] theorem Crew.returned_lastIssue (cr : Crew) (id : Nat) : (cr.returned id).lastIssue = cr.lastIssue := rfl
@[simp] theorem Crew.returned_clock (cr : Crew) (id : Nat) : (cr.returned id).clock = cr.clock := rfl
@[simp] theorem Crew.returned_ports (cr : Crew) (id : Nat) : (cr.returned id).ports = cr.ports := rfl
@[simp] theorem Crew.returned_copyAfter (cr : Crew) (id : Nat) : (cr.returned id).copyAfter = cr.copyAfter := rfl
@[simp] theorem Crew.returned_headed (cr : Crew) (id : Nat) : (cr.returned id).headed = cr.headed := rfl
@[simp] theorem Crew.returned_long (cr : Crew) (id : Nat) : (cr.returned id).long = cr.long := rfl
@[simp] theorem Crew.returned_stale (cr : Crew) (id : Nat) : (cr.returned id).stale = cr.stale := rfl
@[simp] theorem Crew.returned_picked (cr : Crew) (id : Nat) : (cr.returned id).picked = cr.picked := rfl
@[simp] theorem Crew.returned_vbase (cr : Crew) (id : Nat) : (cr.returned id).vbase = cr.vbase := rfl

@[simp] theorem Crew.sealUp_threads (cr : Crew) (ctr : Nat) (rs : List Res) : (cr.sealUp ctr rs).threads = cr.threads := rfl
@[simp] theorem Crew.sealUp_bundle (cr : Crew) (ctr : Nat) (rs : List Res) : (cr.sealUp ctr rs).bundle = cr.bundle := rfl
@[simp] theorem Crew.sealUp_fcount (cr : Crew) (ctr : Nat) (rs : List Res) : (cr.sealUp ctr rs).fcount = cr.fcount := rfl
@[simp] theorem Crew.sealUp_fpc (cr : Crew) (ctr : Nat) (rs : List Res) : (cr.sealUp ctr rs).fpc = cr.fpc := rfl
@[simp] theorem Crew.sealUp_sregs (cr : Crew) (ctr : Nat) (rs : List Res) : (cr.sealUp ctr rs).sregs = cr.sregs := rfl
@[simp] theorem Crew.sealUp_vregs (cr : Crew) (ctr : Nat) (rs : List Res) : (cr.sealUp ctr rs).vregs = cr.vregs := rfl
@[simp] theorem Crew.sealUp_preds (cr : Crew) (ctr : Nat) (rs : List Res) : (cr.sealUp ctr rs).preds = cr.preds := rfl
@[simp] theorem Crew.sealUp_counted (cr : Crew) (ctr : Nat) (rs : List Res) : (cr.sealUp ctr rs).counted = cr.counted := rfl
@[simp] theorem Crew.sealUp_w6 (cr : Crew) (ctr : Nat) (rs : List Res) : (cr.sealUp ctr rs).w6 = cr.w6 := rfl
@[simp] theorem Crew.sealUp_w7 (cr : Crew) (ctr : Nat) (rs : List Res) : (cr.sealUp ctr rs).w7 = cr.w7 := rfl
@[simp] theorem Crew.sealUp_outs (cr : Crew) (ctr : Nat) (rs : List Res) : (cr.sealUp ctr rs).outs = cr.outs := rfl
@[simp] theorem Crew.sealUp_yielding (cr : Crew) (ctr : Nat) (rs : List Res) : (cr.sealUp ctr rs).yielding = cr.yielding := rfl
@[simp] theorem Crew.sealUp_retired (cr : Crew) (ctr : Nat) (rs : List Res) : (cr.sealUp ctr rs).retired = cr.retired := rfl
@[simp] theorem Crew.sealUp_age (cr : Crew) (ctr : Nat) (rs : List Res) : (cr.sealUp ctr rs).age = cr.age := rfl
@[simp] theorem Crew.sealUp_lastIssue (cr : Crew) (ctr : Nat) (rs : List Res) : (cr.sealUp ctr rs).lastIssue = cr.lastIssue := rfl
@[simp] theorem Crew.sealUp_clock (cr : Crew) (ctr : Nat) (rs : List Res) : (cr.sealUp ctr rs).clock = cr.clock := rfl
@[simp] theorem Crew.sealUp_ports (cr : Crew) (ctr : Nat) (rs : List Res) : (cr.sealUp ctr rs).ports = cr.ports := rfl
@[simp] theorem Crew.sealUp_copyAfter (cr : Crew) (ctr : Nat) (rs : List Res) : (cr.sealUp ctr rs).copyAfter = cr.copyAfter := rfl
@[simp] theorem Crew.sealUp_headed (cr : Crew) (ctr : Nat) (rs : List Res) : (cr.sealUp ctr rs).headed = cr.headed := rfl
@[simp] theorem Crew.sealUp_long (cr : Crew) (ctr : Nat) (rs : List Res) : (cr.sealUp ctr rs).long = cr.long := rfl
@[simp] theorem Crew.sealUp_stale (cr : Crew) (ctr : Nat) (rs : List Res) : (cr.sealUp ctr rs).stale = cr.stale := rfl
@[simp] theorem Crew.sealUp_picked (cr : Crew) (ctr : Nat) (rs : List Res) : (cr.sealUp ctr rs).picked = cr.picked := rfl
@[simp] theorem Crew.sealUp_vbase (cr : Crew) (ctr : Nat) (rs : List Res) : (cr.sealUp ctr rs).vbase = cr.vbase := rfl

@[simp] theorem Crew.lift_threads (cr : Crew) (ctr bound : Nat) : (cr.lift ctr bound).threads = cr.threads := rfl
@[simp] theorem Crew.lift_bundle (cr : Crew) (ctr bound : Nat) : (cr.lift ctr bound).bundle = cr.bundle := rfl
@[simp] theorem Crew.lift_fcount (cr : Crew) (ctr bound : Nat) : (cr.lift ctr bound).fcount = cr.fcount := rfl
@[simp] theorem Crew.lift_fpc (cr : Crew) (ctr bound : Nat) : (cr.lift ctr bound).fpc = cr.fpc := rfl
@[simp] theorem Crew.lift_sregs (cr : Crew) (ctr bound : Nat) : (cr.lift ctr bound).sregs = cr.sregs := rfl
@[simp] theorem Crew.lift_vregs (cr : Crew) (ctr bound : Nat) : (cr.lift ctr bound).vregs = cr.vregs := rfl
@[simp] theorem Crew.lift_preds (cr : Crew) (ctr bound : Nat) : (cr.lift ctr bound).preds = cr.preds := rfl
@[simp] theorem Crew.lift_counted (cr : Crew) (ctr bound : Nat) : (cr.lift ctr bound).counted = cr.counted := rfl
@[simp] theorem Crew.lift_w6 (cr : Crew) (ctr bound : Nat) : (cr.lift ctr bound).w6 = cr.w6 := rfl
@[simp] theorem Crew.lift_w7 (cr : Crew) (ctr bound : Nat) : (cr.lift ctr bound).w7 = cr.w7 := rfl
@[simp] theorem Crew.lift_outs (cr : Crew) (ctr bound : Nat) : (cr.lift ctr bound).outs = cr.outs := rfl
@[simp] theorem Crew.lift_yielding (cr : Crew) (ctr bound : Nat) : (cr.lift ctr bound).yielding = cr.yielding := rfl
@[simp] theorem Crew.lift_retired (cr : Crew) (ctr bound : Nat) : (cr.lift ctr bound).retired = cr.retired := rfl
@[simp] theorem Crew.lift_age (cr : Crew) (ctr bound : Nat) : (cr.lift ctr bound).age = cr.age := rfl
@[simp] theorem Crew.lift_lastIssue (cr : Crew) (ctr bound : Nat) : (cr.lift ctr bound).lastIssue = cr.lastIssue := rfl
@[simp] theorem Crew.lift_clock (cr : Crew) (ctr bound : Nat) : (cr.lift ctr bound).clock = cr.clock := rfl
@[simp] theorem Crew.lift_ports (cr : Crew) (ctr bound : Nat) : (cr.lift ctr bound).ports = cr.ports := rfl
@[simp] theorem Crew.lift_copyAfter (cr : Crew) (ctr bound : Nat) : (cr.lift ctr bound).copyAfter = cr.copyAfter := rfl
@[simp] theorem Crew.lift_headed (cr : Crew) (ctr bound : Nat) : (cr.lift ctr bound).headed = cr.headed := rfl
@[simp] theorem Crew.lift_long (cr : Crew) (ctr bound : Nat) : (cr.lift ctr bound).long = cr.long := rfl
@[simp] theorem Crew.lift_stale (cr : Crew) (ctr bound : Nat) : (cr.lift ctr bound).stale = cr.stale := rfl
@[simp] theorem Crew.lift_picked (cr : Crew) (ctr bound : Nat) : (cr.lift ctr bound).picked = cr.picked := rfl
@[simp] theorem Crew.lift_vbase (cr : Crew) (ctr bound : Nat) : (cr.lift ctr bound).vbase = cr.vbase := rfl

@[simp] theorem Crew.setP_threads (cr : Crew) (n : Nat) (m v : Mask) : (cr.setP n m v).threads = cr.threads := by
  unfold Crew.setP; split <;> rfl
@[simp] theorem Crew.setP_bundle (cr : Crew) (n : Nat) (m v : Mask) : (cr.setP n m v).bundle = cr.bundle := by
  unfold Crew.setP; split <;> rfl
@[simp] theorem Crew.setP_fcount (cr : Crew) (n : Nat) (m v : Mask) : (cr.setP n m v).fcount = cr.fcount := by
  unfold Crew.setP; split <;> rfl
@[simp] theorem Crew.setP_fpc (cr : Crew) (n : Nat) (m v : Mask) : (cr.setP n m v).fpc = cr.fpc := by
  unfold Crew.setP; split <;> rfl
@[simp] theorem Crew.setP_sregs (cr : Crew) (n : Nat) (m v : Mask) : (cr.setP n m v).sregs = cr.sregs := by
  unfold Crew.setP; split <;> rfl
@[simp] theorem Crew.setP_vregs (cr : Crew) (n : Nat) (m v : Mask) : (cr.setP n m v).vregs = cr.vregs := by
  unfold Crew.setP; split <;> rfl
@[simp] theorem Crew.setP_counted (cr : Crew) (n : Nat) (m v : Mask) : (cr.setP n m v).counted = cr.counted := by
  unfold Crew.setP; split <;> rfl
@[simp] theorem Crew.setP_w6 (cr : Crew) (n : Nat) (m v : Mask) : (cr.setP n m v).w6 = cr.w6 := by
  unfold Crew.setP; split <;> rfl
@[simp] theorem Crew.setP_w7 (cr : Crew) (n : Nat) (m v : Mask) : (cr.setP n m v).w7 = cr.w7 := by
  unfold Crew.setP; split <;> rfl
@[simp] theorem Crew.setP_outs (cr : Crew) (n : Nat) (m v : Mask) : (cr.setP n m v).outs = cr.outs := by
  unfold Crew.setP; split <;> rfl
@[simp] theorem Crew.setP_seals (cr : Crew) (n : Nat) (m v : Mask) : (cr.setP n m v).seals = cr.seals := by
  unfold Crew.setP; split <;> rfl
@[simp] theorem Crew.setP_yielding (cr : Crew) (n : Nat) (m v : Mask) : (cr.setP n m v).yielding = cr.yielding := by
  unfold Crew.setP; split <;> rfl
@[simp] theorem Crew.setP_retired (cr : Crew) (n : Nat) (m v : Mask) : (cr.setP n m v).retired = cr.retired := by
  unfold Crew.setP; split <;> rfl
@[simp] theorem Crew.setP_age (cr : Crew) (n : Nat) (m v : Mask) : (cr.setP n m v).age = cr.age := by
  unfold Crew.setP; split <;> rfl
@[simp] theorem Crew.setP_lastIssue (cr : Crew) (n : Nat) (m v : Mask) : (cr.setP n m v).lastIssue = cr.lastIssue := by
  unfold Crew.setP; split <;> rfl
@[simp] theorem Crew.setP_clock (cr : Crew) (n : Nat) (m v : Mask) : (cr.setP n m v).clock = cr.clock := by
  unfold Crew.setP; split <;> rfl
@[simp] theorem Crew.setP_ports (cr : Crew) (n : Nat) (m v : Mask) : (cr.setP n m v).ports = cr.ports := by
  unfold Crew.setP; split <;> rfl
@[simp] theorem Crew.setP_copyAfter (cr : Crew) (n : Nat) (m v : Mask) : (cr.setP n m v).copyAfter = cr.copyAfter := by
  unfold Crew.setP; split <;> rfl
@[simp] theorem Crew.setP_headed (cr : Crew) (n : Nat) (m v : Mask) : (cr.setP n m v).headed = cr.headed := by
  unfold Crew.setP; split <;> rfl
@[simp] theorem Crew.setP_long (cr : Crew) (n : Nat) (m v : Mask) : (cr.setP n m v).long = cr.long := by
  unfold Crew.setP; split <;> rfl
@[simp] theorem Crew.setP_stale (cr : Crew) (n : Nat) (m v : Mask) : (cr.setP n m v).stale = cr.stale := by
  unfold Crew.setP; split <;> rfl
@[simp] theorem Crew.setP_picked (cr : Crew) (n : Nat) (m v : Mask) : (cr.setP n m v).picked = cr.picked := by
  unfold Crew.setP; split <;> rfl
@[simp] theorem Crew.setP_vbase (cr : Crew) (n : Nat) (m v : Mask) : (cr.setP n m v).vbase = cr.vbase := by
  unfold Crew.setP; split <;> rfl
@[simp] theorem Crew.setD_threads (cr : Crew) (d : Dst) (w : Bool) (l x : Nat) : (cr.setD d w l x).threads = cr.threads := by
  cases d <;> cases w <;> rfl
@[simp] theorem Crew.setD_bundle (cr : Crew) (d : Dst) (w : Bool) (l x : Nat) : (cr.setD d w l x).bundle = cr.bundle := by
  cases d <;> cases w <;> rfl
@[simp] theorem Crew.setD_fcount (cr : Crew) (d : Dst) (w : Bool) (l x : Nat) : (cr.setD d w l x).fcount = cr.fcount := by
  cases d <;> cases w <;> rfl
@[simp] theorem Crew.setD_fpc (cr : Crew) (d : Dst) (w : Bool) (l x : Nat) : (cr.setD d w l x).fpc = cr.fpc := by
  cases d <;> cases w <;> rfl
@[simp] theorem Crew.setD_preds (cr : Crew) (d : Dst) (w : Bool) (l x : Nat) : (cr.setD d w l x).preds = cr.preds := by
  cases d <;> cases w <;> rfl
@[simp] theorem Crew.setD_counted (cr : Crew) (d : Dst) (w : Bool) (l x : Nat) : (cr.setD d w l x).counted = cr.counted := by
  cases d <;> cases w <;> rfl
@[simp] theorem Crew.setD_w6 (cr : Crew) (d : Dst) (w : Bool) (l x : Nat) : (cr.setD d w l x).w6 = cr.w6 := by
  cases d <;> cases w <;> rfl
@[simp] theorem Crew.setD_w7 (cr : Crew) (d : Dst) (w : Bool) (l x : Nat) : (cr.setD d w l x).w7 = cr.w7 := by
  cases d <;> cases w <;> rfl
@[simp] theorem Crew.setD_outs (cr : Crew) (d : Dst) (w : Bool) (l x : Nat) : (cr.setD d w l x).outs = cr.outs := by
  cases d <;> cases w <;> rfl
@[simp] theorem Crew.setD_seals (cr : Crew) (d : Dst) (w : Bool) (l x : Nat) : (cr.setD d w l x).seals = cr.seals := by
  cases d <;> cases w <;> rfl
@[simp] theorem Crew.setD_yielding (cr : Crew) (d : Dst) (w : Bool) (l x : Nat) : (cr.setD d w l x).yielding = cr.yielding := by
  cases d <;> cases w <;> rfl
@[simp] theorem Crew.setD_retired (cr : Crew) (d : Dst) (w : Bool) (l x : Nat) : (cr.setD d w l x).retired = cr.retired := by
  cases d <;> cases w <;> rfl
@[simp] theorem Crew.setD_age (cr : Crew) (d : Dst) (w : Bool) (l x : Nat) : (cr.setD d w l x).age = cr.age := by
  cases d <;> cases w <;> rfl
@[simp] theorem Crew.setD_lastIssue (cr : Crew) (d : Dst) (w : Bool) (l x : Nat) : (cr.setD d w l x).lastIssue = cr.lastIssue := by
  cases d <;> cases w <;> rfl
@[simp] theorem Crew.setD_clock (cr : Crew) (d : Dst) (w : Bool) (l x : Nat) : (cr.setD d w l x).clock = cr.clock := by
  cases d <;> cases w <;> rfl
@[simp] theorem Crew.setD_ports (cr : Crew) (d : Dst) (w : Bool) (l x : Nat) : (cr.setD d w l x).ports = cr.ports := by
  cases d <;> cases w <;> rfl
@[simp] theorem Crew.setD_copyAfter (cr : Crew) (d : Dst) (w : Bool) (l x : Nat) : (cr.setD d w l x).copyAfter = cr.copyAfter := by
  cases d <;> cases w <;> rfl
@[simp] theorem Crew.setD_headed (cr : Crew) (d : Dst) (w : Bool) (l x : Nat) : (cr.setD d w l x).headed = cr.headed := by
  cases d <;> cases w <;> rfl
@[simp] theorem Crew.setD_long (cr : Crew) (d : Dst) (w : Bool) (l x : Nat) : (cr.setD d w l x).long = cr.long := by
  cases d <;> cases w <;> rfl
@[simp] theorem Crew.setD_stale (cr : Crew) (d : Dst) (w : Bool) (l x : Nat) : (cr.setD d w l x).stale = cr.stale := by
  cases d <;> cases w <;> rfl
@[simp] theorem Crew.setD_picked (cr : Crew) (d : Dst) (w : Bool) (l x : Nat) : (cr.setD d w l x).picked = cr.picked := by
  cases d <;> cases w <;> rfl
@[simp] theorem Crew.setD_vbase (cr : Crew) (d : Dst) (w : Bool) (l x : Nat) : (cr.setD d w l x).vbase = cr.vbase := by
  cases d <;> cases w <;> rfl

/-- Writing a destination touches registers alone. -/
theorem Crew.write_keeps {α : Type} (p : Crew → α) (h : ∀ cr d w l x, p (Crew.setD cr d w l x) = p cr) (cr : Crew) (d : Dst) (w : Bool)
    (m : Mask) (f : Nat → Nat) : p (cr.write d w m f) = p cr := by
  cases d with
  | v n =>
    simp only [Crew.write]
    generalize lanesOf m = ls
    induction ls generalizing cr with
    | nil => rfl
    | cons l r ih => rw [List.foldl_cons, ih, h]
  | s n =>
    simp only [Crew.write]
    split
    · rfl
    · exact h ..

@[simp] theorem Crew.write_threads (cr : Crew) (d : Dst) (w : Bool) (m : Mask) (f : Nat → Nat) :
    (cr.write d w m f).threads = cr.threads := Crew.write_keeps Crew.threads (fun _ _ _ _ _ => by simp) ..
@[simp] theorem Crew.write_bundle (cr : Crew) (d : Dst) (w : Bool) (m : Mask) (f : Nat → Nat) :
    (cr.write d w m f).bundle = cr.bundle := Crew.write_keeps Crew.bundle (fun _ _ _ _ _ => by simp) ..
@[simp] theorem Crew.write_fcount (cr : Crew) (d : Dst) (w : Bool) (m : Mask) (f : Nat → Nat) :
    (cr.write d w m f).fcount = cr.fcount := Crew.write_keeps Crew.fcount (fun _ _ _ _ _ => by simp) ..
@[simp] theorem Crew.write_fpc (cr : Crew) (d : Dst) (w : Bool) (m : Mask) (f : Nat → Nat) :
    (cr.write d w m f).fpc = cr.fpc := Crew.write_keeps Crew.fpc (fun _ _ _ _ _ => by simp) ..
@[simp] theorem Crew.write_preds (cr : Crew) (d : Dst) (w : Bool) (m : Mask) (f : Nat → Nat) :
    (cr.write d w m f).preds = cr.preds := Crew.write_keeps Crew.preds (fun _ _ _ _ _ => by simp) ..
@[simp] theorem Crew.write_counted (cr : Crew) (d : Dst) (w : Bool) (m : Mask) (f : Nat → Nat) :
    (cr.write d w m f).counted = cr.counted := Crew.write_keeps Crew.counted (fun _ _ _ _ _ => by simp) ..
@[simp] theorem Crew.write_w6 (cr : Crew) (d : Dst) (w : Bool) (m : Mask) (f : Nat → Nat) :
    (cr.write d w m f).w6 = cr.w6 := Crew.write_keeps Crew.w6 (fun _ _ _ _ _ => by simp) ..
@[simp] theorem Crew.write_w7 (cr : Crew) (d : Dst) (w : Bool) (m : Mask) (f : Nat → Nat) :
    (cr.write d w m f).w7 = cr.w7 := Crew.write_keeps Crew.w7 (fun _ _ _ _ _ => by simp) ..
@[simp] theorem Crew.write_outs (cr : Crew) (d : Dst) (w : Bool) (m : Mask) (f : Nat → Nat) :
    (cr.write d w m f).outs = cr.outs := Crew.write_keeps Crew.outs (fun _ _ _ _ _ => by simp) ..
@[simp] theorem Crew.write_seals (cr : Crew) (d : Dst) (w : Bool) (m : Mask) (f : Nat → Nat) :
    (cr.write d w m f).seals = cr.seals := Crew.write_keeps Crew.seals (fun _ _ _ _ _ => by simp) ..
@[simp] theorem Crew.write_yielding (cr : Crew) (d : Dst) (w : Bool) (m : Mask) (f : Nat → Nat) :
    (cr.write d w m f).yielding = cr.yielding := Crew.write_keeps Crew.yielding (fun _ _ _ _ _ => by simp) ..
@[simp] theorem Crew.write_retired (cr : Crew) (d : Dst) (w : Bool) (m : Mask) (f : Nat → Nat) :
    (cr.write d w m f).retired = cr.retired := Crew.write_keeps Crew.retired (fun _ _ _ _ _ => by simp) ..
@[simp] theorem Crew.write_age (cr : Crew) (d : Dst) (w : Bool) (m : Mask) (f : Nat → Nat) :
    (cr.write d w m f).age = cr.age := Crew.write_keeps Crew.age (fun _ _ _ _ _ => by simp) ..
@[simp] theorem Crew.write_lastIssue (cr : Crew) (d : Dst) (w : Bool) (m : Mask) (f : Nat → Nat) :
    (cr.write d w m f).lastIssue = cr.lastIssue := Crew.write_keeps Crew.lastIssue (fun _ _ _ _ _ => by simp) ..
@[simp] theorem Crew.write_clock (cr : Crew) (d : Dst) (w : Bool) (m : Mask) (f : Nat → Nat) :
    (cr.write d w m f).clock = cr.clock := Crew.write_keeps Crew.clock (fun _ _ _ _ _ => by simp) ..
@[simp] theorem Crew.write_ports (cr : Crew) (d : Dst) (w : Bool) (m : Mask) (f : Nat → Nat) :
    (cr.write d w m f).ports = cr.ports := Crew.write_keeps Crew.ports (fun _ _ _ _ _ => by simp) ..
@[simp] theorem Crew.write_copyAfter (cr : Crew) (d : Dst) (w : Bool) (m : Mask) (f : Nat → Nat) :
    (cr.write d w m f).copyAfter = cr.copyAfter := Crew.write_keeps Crew.copyAfter (fun _ _ _ _ _ => by simp) ..
@[simp] theorem Crew.write_headed (cr : Crew) (d : Dst) (w : Bool) (m : Mask) (f : Nat → Nat) :
    (cr.write d w m f).headed = cr.headed := Crew.write_keeps Crew.headed (fun _ _ _ _ _ => by simp) ..
@[simp] theorem Crew.write_long (cr : Crew) (d : Dst) (w : Bool) (m : Mask) (f : Nat → Nat) :
    (cr.write d w m f).long = cr.long := Crew.write_keeps Crew.long (fun _ _ _ _ _ => by simp) ..
@[simp] theorem Crew.write_stale (cr : Crew) (d : Dst) (w : Bool) (m : Mask) (f : Nat → Nat) :
    (cr.write d w m f).stale = cr.stale := Crew.write_keeps Crew.stale (fun _ _ _ _ _ => by simp) ..
@[simp] theorem Crew.write_picked (cr : Crew) (d : Dst) (w : Bool) (m : Mask) (f : Nat → Nat) :
    (cr.write d w m f).picked = cr.picked := Crew.write_keeps Crew.picked (fun _ _ _ _ _ => by simp) ..
@[simp] theorem Crew.write_vbase (cr : Crew) (d : Dst) (w : Bool) (m : Mask) (f : Nat → Nat) :
    (cr.write d w m f).vbase = cr.vbase := Crew.write_keeps Crew.vbase (fun _ _ _ _ _ => by simp) ..

theorem Crew.th_modLanes (cr : Crew) (m : Mask) (f : Nat → Thread → Thread) {l : Nat} (h : l < cr.threads.length) :
    (cr.modLanes m f).th l = if m.getLsbD l then f l (cr.th l) else cr.th l := by
  have := nth_updLanes cr.threads 0 m f h
  simpa [Crew.th, Crew.modLanes] using this

@[simp] theorem Crew.modLanes_length (cr : Crew) (m : Mask) (f : Nat → Thread → Thread) :
    (cr.modLanes m f).threads.length = cr.threads.length := updLanes_length ..

/-! ## Registers (R93 to R95) -/

theorem Crew.v_setV (cr : Crew) (n l k j : Nat) (x : Word32) (hl : l < 16) (hj : j < 16) :
    (cr.setV n l x).v k j = if k = n ∧ j = l then x else cr.v k j := by
  simp only [Crew.v, Crew.setV, Sparse.get_set]
  have : (16 * k + j = 16 * n + l) ↔ (k = n ∧ j = l) := by omega
  simp [this]

theorem Crew.s_setS (cr : Crew) (n k : Nat) (x : Word32) : (cr.setS n x).s k = if k = n then x else cr.s k := by
  simp only [Crew.s, Crew.setS, Sparse.get_set]

theorem Crew.p_setP (cr : Crew) (n k : Nat) (m v : Mask) :
    (cr.setP n m v).p k = if k = n ∧ n ≠ 15 then (cr.p n &&& ~~~m) ||| (v &&& m) else cr.p k := by
  unfold Crew.setP Crew.p
  by_cases hn : n = 15
  · subst hn; simp
  · by_cases hk : k = n
    · subst hk; simp [hn]
    · by_cases h15 : k = 15
      · subst h15; simp [hn, hk]
      · simp [hn, hk, h15, Sparse.get_set_ne]

/-- R95: p15 reads 1 in every lane whatever is written. -/
@[simp] theorem Crew.p_fifteen (cr : Crew) : cr.p 15 = BitVec.allOnes 16 := rfl

end Sys2Proof.Machine
end

