-- ==== Sys2Proof/Laws/Frame.lean ====
section
/-! SUPPORT. The frame of every crew instruction: what it gives where none of its conditions holds, and that it always gives a
next state for the crew that issues. -/

namespace Sys2Proof.Machine

/-- A crew instruction of the crew that `cur` names always goes on. -/
theorem crewOp_goes_on {i : Instr} {s : State} {x : Issue} (h : s.issuing i = some x) (ck : Issue → Checks)
    (k : Issue → State) : ∃ u, crewOp i s ck k = .next u := by
  unfold crewOp
  rw [h]
  exact ⟨_, rfl⟩

/-- Where no condition of the whole instruction holds, its own effect follows (R229). -/
theorem crewOp_runs {i : Instr} {s : State} {x : Issue} (h : Runs s i x) {ck : Issue → Checks} (k : Issue → State)
    (hb : (ck x).bundle = none) (ha : (ck x).active = none) (hr : s.sealHit x (ck x).reads = none) :
    crewOp i s ck k = .next (s.orStall (k x) x) := by
  simp [crewOp, h.issues, h.range, hb, ha, h.role, hr]

theorem crewOp_noChecks {i : Instr} {s : State} {x : Issue} (h : Runs s i x) (k : Issue → State) :
    crewOp i s noChecks k = .next (s.orStall (k x) x) := crewOp_runs h k rfl rfl h.noSeal

theorem State.pendingAccs_zero (s : State) (t c : Nat) : s.pendingAccs t c 0 = [] := by
  simp [State.pendingAccs, State.pendingOf]

/-- No lane waits for anything. -/
theorem State.effected_zero (s : State) (t c : Nat) : s.effected t c 0 = true := by
  unfold State.effected
  rw [State.pendingAccs_zero]
  simp [State.crossDone, State.readsDone, State.tasksDone]

/-- An effect that traps no lane is taken as it is. -/
theorem State.orStall_quiet {s r : State} {x : Issue} (h : s.trapped r x = 0) : s.orStall r x = r := by
  unfold State.orStall
  rw [h, State.effected_zero, if_pos rfl]

/-- An effect whose trapped lanes have nothing under way is taken as it is (R229). -/
theorem State.orStall_ready {s r : State} {x : Issue} (h : s.effected x.t x.c (s.trapped r x) = true) :
    s.orStall r x = r := by
  simp [State.orStall, h]

@[simp] theorem maskOf_false : maskOf (fun _ => false) = 0 := by decide

@[simp] theorem State.team_modCrew_status (s : State) (t c k : Nat) (f : Crew → Crew) :
    ((s.modCrew t c f).team k).status = (s.team k).status := by
  by_cases hk : k = t
  · subst hk
    by_cases ht : k < s.teams.length
    · rw [s.team_modCrew_same ht]; rfl
    · have h1 : (s.modCrew k c f).team k = default := nth_beyond (by simp; omega)
      have h2 : s.team k = default := nth_beyond (by omega)
      rw [h1, h2]
  · rw [s.team_modCrew_ne hk]

/-- An update of the crew that parks no lane and sends none to the handler traps none. -/
theorem State.trapped_modCrew {s : State} {x : Issue} (hc : s.hasCrew x.t x.c) {f : Crew → Crew}
    (hf : ∀ l, ((f (s.crew x.t x.c)).th l).state = ((s.crew x.t x.c).th l).state ∧
      ((f (s.crew x.t x.c)).th l).inh = ((s.crew x.t x.c).th l).inh) :
    s.trapped (s.modCrew x.t x.c f) x = 0 := by
  have e : (s.modCrew x.t x.c f).crew x.t x.c = f (s.crew x.t x.c) := s.crew_modCrew_same hc.1 hc.2 f
  unfold State.trapped
  rw [State.team_modCrew_status]
  simp only [ne_eq, not_true_eq_false, if_false, e]
  have : (maskOf fun l =>
      (((s.crew x.t x.c).th l).state != .parked && ((f (s.crew x.t x.c)).th l).state == .parked &&
        (((f (s.crew x.t x.c)).th l).parkWhy == .report || ((f (s.crew x.t x.c)).th l).parkWhy == .breakpoint)) ||
      (((f (s.crew x.t x.c)).th l).inh && !((s.crew x.t x.c).th l).inh)) = maskOf fun _ => false := by
    congr 1
    funext l
    rw [(hf l).1, (hf l).2]
    cases ((s.crew x.t x.c).th l).state <;> cases ((s.crew x.t x.c).th l).inh <;> simp
  rw [this, maskOf_false]
  simp

/-- The instruction's effect when it is one update of its crew that leaves the states of its threads alone. -/
theorem crewUpdate_runs {i : Instr} {s : State} {x : Issue} (h : Runs s i x) {f : Issue → Crew → Crew}
    (hf : ∀ l, ((f x (s.crew x.t x.c)).th l).state = ((s.crew x.t x.c).th l).state ∧
      ((f x (s.crew x.t x.c)).th l).inh = ((s.crew x.t x.c).th l).inh) :
    crewUpdate i s f = .next (s.withCrew x (f x (s.crew x.t x.c))) := by
  unfold crewUpdate
  rw [crewOp_noChecks h, State.orStall_quiet (State.trapped_modCrew h.crew hf)]
  exact congrArg _ (State.modCrew_congr s x.t x.c rfl)

end Sys2Proof.Machine
end

