-- ==== Sys2Proof/Laws/Memory.lean ====
section
/-! SUPPORT. Every operation that writes memory keeps its canonical form, and what a byte of it reads afterwards. -/

namespace Sys2Proof.Machine

@[simp] theorem State.touchLine_mem (s : State) (fe pa : Nat) (w : Bool) : (s.touchLine fe pa w).mem = s.mem := by
  unfold State.touchLine; split <;> rfl

@[simp] theorem State.touchLines_mem (s : State) (fe pa n : Nat) (w : Bool) : (s.touchLines fe pa n w).mem = s.mem := by
  unfold State.touchLines
  generalize linesAt pa n = ls
  induction ls generalizing s with
  | nil => rfl
  | cons l ls ih => rw [List.foldl_cons, ih, State.touchLine_mem]

@[simp] theorem State.setStamp_mem (s : State) (pa n : Nat) (k : List Word64) : (s.setStamp pa n k).mem = s.mem := rfl

/-- What `writeMem` makes of memory: the bytes from `pa` on. -/
theorem State.writeMem_mem (s : State) (core : Option Nat) (fe pa : Nat) (bs : List Byte) (k : List Word64) :
    (s.writeMem core fe pa bs k).mem = Sparse.setList s.mem pa bs := by
  cases core <;> simp [State.writeMem]

theorem State.readMem_mem (s : State) (fe pa n : Nat) : (s.readMem fe pa n).2.mem = s.mem := by
  simp [State.readMem]

/-- A byte of memory after a write. -/
theorem State.byte_writeMem (s : State) (core : Option Nat) (fe pa : Nat) (bs : List Byte) (k : List Word64) (q : Nat) :
    Sparse.get (s.writeMem core fe pa bs k).mem q =
      if pa ≤ q ∧ q < pa + bs.length then nth bs (q - pa) else Sparse.get s.mem q := by
  rw [State.writeMem_mem, Sparse.get_setList]

theorem State.wf_writeMem (s : State) (core : Option Nat) (fe pa : Nat) (bs : List Byte) (k : List Word64)
    (h : Memory.wf s) : Memory.wf (s.writeMem core fe pa bs k) := by
  unfold Memory.wf
  rw [State.writeMem_mem]
  exact Sparse.wf_setList _ _ _ h

/-- A fold of operations that keep the form keeps it. -/
theorem wf_foldl {α : Type} (f : State → α → State) (hf : ∀ s x, Memory.wf s → Memory.wf (f s x)) (l : List α) (s : State)
    (h : Memory.wf s) : Memory.wf (l.foldl f s) := by
  induction l generalizing s with
  | nil => exact h
  | cons x l ih => exact ih _ (hf s x h)

theorem State.wf_rawWriteLine (s : State) (a : Nat) (bs : List Byte) (h : Memory.wf s) : Memory.wf (s.rawWriteLine a bs) :=
  Sparse.wf_setList _ _ _ h

theorem State.wf_rawWrite (s : State) (a : Nat) (bs : List Byte) (h : Memory.wf s) : Memory.wf (s.rawWrite a bs) :=
  wf_foldl _ (fun s _ h => s.wf_rawWriteLine _ _ h) _ s h

theorem State.wf_writeLines (n : Nat) (s : State) (fe pa : Nat) (bs : List Byte) (h : Memory.wf s) :
    Memory.wf (s.writeLines n fe pa bs) := by
  induction n generalizing s pa bs with
  | zero => exact h
  | succ n ih =>
    unfold State.writeLines
    split
    · exact h
    · exact ih _ _ _ (s.wf_writeMem _ _ _ _ _ h)

theorem State.wf_writeBytes (s : State) (fe pa : Nat) (bs : List Byte) (h : Memory.wf s) : Memory.wf (s.writeBytes fe pa bs) :=
  s.wf_writeLines _ fe pa bs h

theorem State.wf_receive (s : State) (fe : Nat) (p : Parcel) (h : Memory.wf s) : Memory.wf (s.receive fe p) :=
  State.wf_writeBytes _ _ _ _ (wf_foldl _ (fun s _ h => s.wf_writeBytes _ _ _ h) _ _ h)

/-- The bytes of a page that lands (R455). -/
theorem Sparse.wf_landed (l : List (Nat × Byte)) (base : Nat) (m : Sparse 8) (h : Sparse.wf m = true) :
    Sparse.wf (l.foldl (fun m c => if c.1 < 2 ^ 21 then Sparse.set m (base + c.1) c.2 else m) m) = true := by
  induction l generalizing m with
  | nil => exact h
  | cons c r ih =>
    rw [List.foldl_cons]
    apply ih
    split
    · exact Sparse.wf_set m _ _ h
    · exact h

theorem State.wf_landPage (s : State) (fe land : Nat) (cells : List (Nat × Byte)) (h : Memory.wf s) :
    Memory.wf (s.landPage fe land cells) := by
  unfold Memory.wf State.landPage
  apply Sparse.wf_landed
  rw [State.setStamp_mem, State.touchLines_mem]
  exact Sparse.wfFrom_filter _ _ _ h

/-- A write to a scratchpad leaves memory alone. -/
@[simp] theorem State.writePad_mem (s : State) (t o : Nat) (bs : List Byte) : (s.writePad t o bs).mem = s.mem := rfl

/-- A byte of a scratchpad after a write to it. -/
theorem State.padByte_writePad (s : State) {t : Nat} (h : t < s.teams.length) (o : Nat) (bs : List Byte) (q : Nat) :
    Sparse.get ((s.writePad t o bs).team t).spad q =
      if o ≤ q ∧ q < o + bs.length then nth bs (q - o) else Sparse.get (s.team t).spad q := by
  have : ((s.writePad t o bs).team t).spad = Sparse.setList (s.team t).spad o bs := by
    unfold State.writePad
    rw [State.team_modTeam_same s h]
  rw [this, Sparse.get_setList]

end Sys2Proof.Machine
end

