-- ==== Sys2Proof/Laws/PerInstr.lean ====
section
/-! SUPPORT. Statements about every instruction, one lemma for each constructor. `Encodes`: an instruction has a word exactly
when it has the operand table that the frame of crew instructions uses; an event has neither (R52, R59). -/

namespace Sys2Proof.Laws.Encodes

open Sys2Proof.Machine

def Statement (i : Instr) : Prop := (encode i).isSome = (info i).isSome

theorem iadd (g : Guard) (t : IntTy) (w sat : Bool) (d : Dst) (a b : Opnd) : Statement (.iadd g t w sat d a b) := rfl
theorem iaddImm (g : Guard) (t : IntTy) (w sat : Bool) (d : Dst) (a : Opnd) (imm : BitVec 20) : Statement (.iaddImm g t w sat d a imm) := rfl
theorem isub (g : Guard) (t : IntTy) (w sat : Bool) (d : Dst) (a b : Opnd) : Statement (.isub g t w sat d a b) := rfl
theorem imul (g : Guard) (t : IntTy) (w : Bool) (d : Dst) (a b : Opnd) : Statement (.imul g t w d a b) := rfl
theorem imulhi (g : Guard) (signed w : Bool) (d : Dst) (a b : Opnd) : Statement (.imulhi g signed w d a b) := rfl
theorem imad (g : Guard) (t : IntTy) (w sat : Bool) (d : Dst) (a b c : Opnd) : Statement (.imad g t w sat d a b c) := rfl
theorem idiv (g : Guard) (signed w : Bool) (d : Dst) (a b : Opnd) : Statement (.idiv g signed w d a b) := rfl
theorem irem (g : Guard) (signed w : Bool) (d : Dst) (a b : Opnd) : Statement (.irem g signed w d a b) := rfl
theorem imin (g : Guard) (signed w : Bool) (d : Dst) (a b : Opnd) : Statement (.imin g signed w d a b) := rfl
theorem imax (g : Guard) (signed w : Bool) (d : Dst) (a b : Opnd) : Statement (.imax g signed w d a b) := rfl
theorem iaddc (g : Guard) (w : Bool) (d : Dst) (a b : Opnd) (p : Fin 16) : Statement (.iaddc g w d a b p) := rfl
theorem isubb (g : Guard) (w : Bool) (d : Dst) (a b : Opnd) (p : Fin 16) : Statement (.isubb g w d a b p) := rfl
theorem andL (g : Guard) (w : Bool) (d : Dst) (a b : Opnd) : Statement (.andL g w d a b) := rfl
theorem orL (g : Guard) (w : Bool) (d : Dst) (a b : Opnd) : Statement (.orL g w d a b) := rfl
theorem xorL (g : Guard) (w : Bool) (d : Dst) (a b : Opnd) : Statement (.xorL g w d a b) := rfl
theorem andnL (g : Guard) (w : Bool) (d : Dst) (a b : Opnd) : Statement (.andnL g w d a b) := rfl
theorem andImm (g : Guard) (w : Bool) (d : Dst) (a : Opnd) (imm : BitVec 20) : Statement (.andImm g w d a imm) := rfl
theorem orImm (g : Guard) (w : Bool) (d : Dst) (a : Opnd) (imm : BitVec 20) : Statement (.orImm g w d a imm) := rfl
theorem xorImm (g : Guard) (w : Bool) (d : Dst) (a : Opnd) (imm : BitVec 20) : Statement (.xorImm g w d a imm) := rfl
theorem andnImm (g : Guard) (w : Bool) (d : Dst) (a : Opnd) (imm : BitVec 20) : Statement (.andnImm g w d a imm) := rfl
theorem shl (g : Guard) (w : Bool) (d : Dst) (a b : Opnd) : Statement (.shl g w d a b) := rfl
theorem shr (g : Guard) (w : Bool) (d : Dst) (a b : Opnd) : Statement (.shr g w d a b) := rfl
theorem sar (g : Guard) (w : Bool) (d : Dst) (a b : Opnd) : Statement (.sar g w d a b) := rfl
theorem rotl (g : Guard) (w : Bool) (d : Dst) (a b : Opnd) : Statement (.rotl g w d a b) := rfl
theorem rotr (g : Guard) (w : Bool) (d : Dst) (a b : Opnd) : Statement (.rotr g w d a b) := rfl
theorem ineg (g : Guard) (w sat : Bool) (d : Dst) (a : Opnd) : Statement (.ineg g w sat d a) := rfl
theorem iabs (g : Guard) (w sat : Bool) (d : Dst) (a : Opnd) : Statement (.iabs g w sat d a) := rfl
theorem notL (g : Guard) (w : Bool) (d : Dst) (a : Opnd) : Statement (.notL g w d a) := rfl
theorem popc (g : Guard) (w : Bool) (d : Dst) (a : Opnd) : Statement (.popc g w d a) := rfl
theorem clz (g : Guard) (w : Bool) (d : Dst) (a : Opnd) : Statement (.clz g w d a) := rfl
theorem ctz (g : Guard) (w : Bool) (d : Dst) (a : Opnd) : Statement (.ctz g w d a) := rfl
theorem brev (g : Guard) (w : Bool) (d : Dst) (a : Opnd) : Statement (.brev g w d a) := rfl
theorem bfe (g : Guard) (signed w : Bool) (d : Dst) (a b c : Opnd) : Statement (.bfe g signed w d a b c) := rfl
theorem bfi (g : Guard) (w : Bool) (d : Dst) (a b c : Opnd) : Statement (.bfi g w d a b c) := rfl
theorem prmt (g : Guard) (d : Dst) (a b c : Opnd) : Statement (.prmt g d a b c) := rfl
theorem icmp (g : Guard) (t : IntTy) (w : Bool) (cond : ICond) (p : Fin 16) (a b : Opnd) : Statement (.icmp g t w cond p a b) := rfl
theorem icmpImm (g : Guard) (t : IntTy) (w : Bool) (cond : ICond) (p : Fin 16) (a : Opnd) (imm : BitVec 20) : Statement (.icmpImm g t w cond p a imm) := rfl
theorem isel (g : Guard) (w : Bool) (d : Dst) (a b : Opnd) (p : Fin 16) : Statement (.isel g w d a b p) := rfl
theorem mov (g : Guard) (w : Bool) (d : Dst) (a : Opnd) : Statement (.mov g w d a) := rfl
theorem movi (g : Guard) (w : Bool) (d : Dst) (imm : BitVec 32) : Statement (.movi g w d imm) := rfl
theorem lea (g : Guard) (signed : Bool) (scale : Fin 8) (d : Dst) (a b c : Opnd) : Statement (.lea g signed scale d a b c) := rfl
theorem sext (g : Guard) (t : ExtTy) (w : Bool) (d : Dst) (a : Opnd) : Statement (.sext g t w d a) := rfl
theorem zext (g : Guard) (t : ExtTy) (w : Bool) (d : Dst) (a : Opnd) : Statement (.zext g t w d a) := rfl
theorem pand (g : Guard) (d a b : Fin 16) : Statement (.pand g d a b) := rfl
theorem por (g : Guard) (d a b : Fin 16) : Statement (.por g d a b) := rfl
theorem pxor (g : Guard) (d a b : Fin 16) : Statement (.pxor g d a b) := rfl
theorem pnot (g : Guard) (d a : Fin 16) : Statement (.pnot g d a) := rfl
theorem pmov (g : Guard) (d a : Fin 16) : Statement (.pmov g d a) := rfl
theorem pmovPack (g : Guard) (d : Dst) (a : Fin 16) : Statement (.pmovPack g d a) := rfl
theorem pmovUnpack (g : Guard) (d : Fin 16) (a : Opnd) : Statement (.pmovUnpack g d a) := rfl
theorem fadd (g : Guard) (t : FTy) (r : Rnd) (d : Fin 768) (a b : Opnd) : Statement (.fadd g t r d a b) := rfl
theorem fsub (g : Guard) (t : FTy) (r : Rnd) (d : Fin 768) (a b : Opnd) : Statement (.fsub g t r d a b) := rfl
theorem fmul (g : Guard) (t : FTy) (r : Rnd) (d : Fin 768) (a b : Opnd) : Statement (.fmul g t r d a b) := rfl
theorem ffma (g : Guard) (t : FTy) (r : Rnd) (d : Fin 768) (a b c : Opnd) : Statement (.ffma g t r d a b c) := rfl
theorem fmin (g : Guard) (t : FTy) (nan : Bool) (d : Fin 768) (a b : Opnd) : Statement (.fmin g t nan d a b) := rfl
theorem fmax (g : Guard) (t : FTy) (nan : Bool) (d : Fin 768) (a b : Opnd) : Statement (.fmax g t nan d a b) := rfl
theorem fdiv (g : Guard) (f64 : Bool) (r : Rnd) (d : Fin 768) (a b : Opnd) : Statement (.fdiv g f64 r d a b) := rfl
theorem fsqrt (g : Guard) (f64 : Bool) (r : Rnd) (d : Fin 768) (a : Opnd) : Statement (.fsqrt g f64 r d a) := rfl
theorem frcp (g : Guard) (f16 : Bool) (d : Fin 768) (a : Opnd) : Statement (.frcp g f16 d a) := rfl
theorem frsq (g : Guard) (f16 : Bool) (d : Fin 768) (a : Opnd) : Statement (.frsq g f16 d a) := rfl
theorem fexp2 (g : Guard) (f16 : Bool) (d : Fin 768) (a : Opnd) : Statement (.fexp2 g f16 d a) := rfl
theorem flog2 (g : Guard) (f16 : Bool) (d : Fin 768) (a : Opnd) : Statement (.flog2 g f16 d a) := rfl
theorem fsin (g : Guard) (f16 : Bool) (d : Fin 768) (a : Opnd) : Statement (.fsin g f16 d a) := rfl
theorem fcos (g : Guard) (f16 : Bool) (d : Fin 768) (a : Opnd) : Statement (.fcos g f16 d a) := rfl
theorem fcmp (g : Guard) (t : FTy) (cond : FCond) (p : Fin 16) (a b : Opnd) : Statement (.fcmp g t cond p a b) := rfl
theorem fclass (g : Guard) (t : FTy) (d : Fin 768) (a : Opnd) : Statement (.fclass g t d a) := rfl
theorem frint (g : Guard) (t : FTy) (r : Rnd) (x : Bool) (d : Fin 768) (a : Opnd) : Statement (.frint g t r x d a) := rfl
theorem fcvt (g : Guard) (k : Cvt) (d : Fin 768) (a : Opnd) : Statement (.fcvt g k d a) := by cases k <;> rfl
theorem icvt (g : Guard) (k : ICvt) (r : Rnd) (hi : Bool) (d : Fin 768) (a : Opnd) : Statement (.icvt g k r hi d a) := by cases k <;> rfl
theorem fscale (g : Guard) (t : FTy) (r : Rnd) (d : Fin 768) (a b : Opnd) : Statement (.fscale g t r d a b) := rfl
theorem fgetexp (g : Guard) (t : FTy) (d : Fin 768) (a : Opnd) : Statement (.fgetexp g t d a) := rfl
theorem fgetman (g : Guard) (t : FTy) (d : Fin 768) (a : Opnd) : Statement (.fgetman g t d a) := rfl
theorem fslice (g : Guard) (slot : Fin 8) (d : Fin 768) (a b c : Opnd) : Statement (.fslice g slot d a b c) := rfl
theorem dp2h (g : Guard) (bf : Bool) (d : Fin 768) (a b c : Opnd) : Statement (.dp2h g bf d a b c) := rfl
theorem dp4 (g : Guard) (f32 : Bool) (slot : Fin 8) (d : Fin 768) (a b c : Opnd) : Statement (.dp4 g f32 slot d a b c) := rfl
theorem dp8 (g : Guard) (f32 : Bool) (slot : Fin 8) (d : Fin 768) (a b c : Opnd) : Statement (.dp8 g f32 slot d a b c) := rfl
theorem bra (g : Guard) (off : BitVec 20) : Statement (.bra g off) := rfl
theorem brx (g : Guard) (a : Opnd) (off : BitVec 20) : Statement (.brx g a off) := rfl
theorem call (g : Guard) (d : Dst) (off : BitVec 20) : Statement (.call g d off) := rfl
theorem ret (g : Guard) (a : Dst) : Statement (.ret g a) := rfl
theorem join (g : Guard) (a : Opnd) : Statement (.join g a) := rfl
theorem loop (g : Guard) (a : Opnd) (off : BitVec 20) : Statement (.loop g a off) := rfl
theorem lbrk (g : Guard) (n : Fin 4) : Statement (.lbrk g n) := rfl
theorem exit (g : Guard) : Statement (.exit g) := rfl
theorem bar (g : Guard) (sl : Bool) (id : Fin 4) (b : Opnd) : Statement (.bar g sl id b) := rfl
theorem cbar (g : Guard) : Statement (.cbar g) := rfl
theorem launch (g : Guard) (d : Dst) (a : Dst) : Statement (.launch g d a) := rfl
theorem waitChild (g : Guard) (a : Opnd) : Statement (.waitChild g a) := rfl
theorem elect (g : Guard) (p : Fin 16) : Statement (.elect g p) := rfl
theorem ldarg (g : Guard) (t : ArgTy) (d : Dst) (off : Fin 128) : Statement (.ldarg g t d off) := rfl
theorem mfs (g : Guard) (d : Dst) (r : SpecReg) : Statement (.mfs g d r) := rfl
theorem mts (g : Guard) (r : SpecReg) (a : Opnd) : Statement (.mts g r a) := rfl
theorem trap (g : Guard) (cls : Fin 14) (code : BitVec 16) : Statement (.trap g cls code) := rfl
theorem brk (g : Guard) (code : BitVec 16) : Statement (.brk g code) := rfl
theorem nop (g : Guard) : Statement (.nop g) := rfl
theorem yield (g : Guard) : Statement (.yield g) := rfl
theorem rft (g : Guard) : Statement (.rft g) := rfl
theorem ctxsave (g : Guard) (a : Dst) (b : Opnd) : Statement (.ctxsave g a b) := rfl
theorem ctxload (g : Guard) (a : Dst) (b : Opnd) : Statement (.ctxload g a b) := rfl
theorem accsw (g : Guard) : Statement (.accsw g) := rfl
theorem hlt (g : Guard) : Statement (.hlt g) := rfl
theorem bfly (g : Guard) (w : Bool) (d : Fin 768) (a b fill : Opnd) : Statement (.bfly g w d a b fill) := rfl
theorem shfl (g : Guard) (w : Bool) (m : ShflMode) (d : Fin 768) (a b fill : Opnd) : Statement (.shfl g w m d a b fill) := rfl
theorem xbar (g : Guard) (d : Fin 768) (a : Opnd) (x : Fin 8) (fill : Opnd) : Statement (.xbar g d a x fill) := rfl
theorem stload (g : Guard) (x : Fin 8) (a : Fin 128) : Statement (.stload g x a) := rfl
theorem vote (g : Guard) (op : VoteOp) (p : Fin 16) : Statement (.vote g op p) := by cases op <;> rfl
theorem redux (g : Guard) (op : ReduxOp) (d : Dst) (a : Opnd) : Statement (.redux g op d a) := rfl
theorem scan (g : Guard) (op : ScanOp) (excl : Bool) (d : Fin 768) (a : Opnd) : Statement (.scan g op excl d a) := rfl
theorem matchOp (g : Guard) (w : Bool) (d : Fin 768) (a : Opnd) : Statement (.matchOp g w d a) := rfl
theorem rand (g : Guard) (k23 x4 : Bool) (d : Fin 768) (a b : Opnd) : Statement (.rand g k23 x4 d a b) := rfl
theorem randNext (g : Guard) (k23 x4 : Bool) (d : Fin 768) (b : Opnd) : Statement (.randNext g k23 x4 d b) := rfl
theorem ld (g : Guard) (sz : MSize) (ap : Aper) (o : Order) (sc : Scope) (d : Dst) (m : MemOp) : Statement (.ld g sz ap o sc d m) := rfl
theorem st (g : Guard) (sz : MSize) (ap : Aper) (o : Order) (sc : Scope) (d : Opnd) (m : MemOp) : Statement (.st g sz ap o sc d m) := rfl
theorem ldx (g : Guard) (sz : MSize) (ap : Aper) (o : Order) (d : Fin 768) (base : Opnd) (idx : Dst) (n : Fin 16) : Statement (.ldx g sz ap o d base idx n) := rfl
theorem stx (g : Guard) (sz : MSize) (ap : Aper) (o : Order) (d : Dst) (base : Opnd) (idx : Dst) (n : Fin 16) : Statement (.stx g sz ap o d base idx n) := rfl
theorem atom (g : Guard) (op : AOp) (t : ATy) (ap : Aper) (o : Order) (sc : Scope) (d : Fin 768) (base b : Opnd) : Statement (.atom g op t ap o sc d base b) := rfl
theorem red (g : Guard) (op : AOp) (t : ATy) (ap : Aper) (o : Order) (sc : Scope) (base b : Opnd) : Statement (.red g op t ap o sc base b) := rfl
theorem fence (g : Guard) (o : Order) (sc : Scope) : Statement (.fence g o sc) := rfl
theorem sealOp (g : Guard) (team : Bool) : Statement (.sealOp g team) := rfl
theorem prefetch (g : Guard) (near : Bool) (m : MemOp) : Statement (.prefetch g near m) := rfl
theorem cinv (g : Guard) (m : Option MemOp) : Statement (.cinv g m) := by cases m <;> rfl
theorem cwb (g : Guard) (m : MemOp) : Statement (.cwb g m) := rfl
theorem own (g : Guard) (shr : Bool) (a : Fin 128) (b : Opnd) : Statement (.own g shr a b) := rfl
theorem memoryAccessComplete (log lane : Nat) : Statement (.memoryAccessComplete log lane) := rfl
theorem presenceRelease (team line : Nat) : Statement (.presenceRelease team line) := rfl
theorem cp (g : Guard) (dir : CpDir) (x : CpXform) (d a : Fin 16) (ring : Option (Fin 16)) (b : Option Opnd) : Statement (.cp g dir x d a ring b) := rfl
theorem copyEnterEngine (core : Nat) : Statement (.copyEnterEngine core) := rfl
theorem copyLineLanded (copy : Nat) : Statement (.copyLineLanded copy) := rfl
theorem copyComplete (copy : Nat) : Statement (.copyComplete copy) := rfl
theorem copyPageFault (copy : Nat) : Statement (.copyPageFault copy) := rfl
theorem tdset (g : Guard) (d : Fin 16) (a : Fin 128) : Statement (.tdset g d a) := rfl
theorem tdmov (g : Guard) (d a : Fin 16) : Statement (.tdmov g d a) := rfl
theorem tdmovGet (g : Guard) (d : Fin 128) (a : Fin 16) : Statement (.tdmovGet g d a) := rfl
theorem tdmovBase (g : Guard) (d : Fin 16) (a : Fin 128) : Statement (.tdmovBase g d a) := rfl
theorem tdmovAdd (g : Guard) (d : Fin 16) (a : Opnd) : Statement (.tdmovAdd g d a) := rfl
theorem ringadvInit (g : Guard) (r : Fin 16) (a : Opnd) : Statement (.ringadvInit g r a) := rfl
theorem ringadv (g : Guard) (r : Fin 16) : Statement (.ringadv g r) := rfl
theorem ringadvCons (g : Guard) (r : Fin 16) : Statement (.ringadvCons g r) := rfl
theorem ringwait (g : Guard) (r : Fin 16) (ph : Bool) : Statement (.ringwait g r ph) := rfl
theorem sign (g : Guard) (cv : Fin 8) (a : Opnd) : Statement (.sign g cv a) := rfl
theorem mma (g : Guard) (f32 : Bool) (fa fb : Fin 8) (d : Fin 256) (a b : Fin 768) (sct : Fin 16) (cv : Fin 8) : Statement (.mma g f32 fa fb d a b sct cv) := rfl
theorem mmaSp (g : Guard) (f32 : Bool) (fa fb : Fin 8) (d : Fin 256) (a b : Fin 768) (sct : Fin 16) (cv : Fin 8) : Statement (.mmaSp g f32 fa fb d a b sct cv) := rfl
theorem mmaw (g : Guard) (slot : Fin 8) (d : Fin 256) (a b : Fin 768) (m : Fin 16) (cv : Fin 8) : Statement (.mmaw g slot d a b m cv) := rfl
theorem acclr (g : Guard) (d : Fin 256) (a : Opnd) : Statement (.acclr g d a) := rfl
theorem accld (g : Guard) (d : Fin 256) (t : Fin 16) : Statement (.accld g d t) := rfl
theorem accst (g : Guard) (t : Fin 16) (a : Fin 256) : Statement (.accst g t a) := rfl
theorem accrd (g : Guard) (d : Fin 768) (a : Fin 256) (h : Bool) : Statement (.accrd g d a h) := rfl
theorem acccvt (g : Guard) (f64 : Bool) (slot : Fin 8) (d : Fin 768) (a : Fin 256) (e : Fin 768) (h : Bool) : Statement (.acccvt g f64 slot d a e h) := rfl
theorem mwait (g : Guard) (a : Opnd) : Statement (.mwait g a) := rfl
theorem mmaDn (g : Guard) (fin : Bool) (slot : Fin 8) (d : Fin 256) (a b : Fin 768) (sct : Fin 16) (cv : Fin 8) : Statement (.mmaDn g fin slot d a b sct cv) := rfl
theorem mmaDnb (g : Guard) (db : Bool) (slot : Fin 8) (d : Fin 256) (frag : Fin 768) (t : Fin 256) (sct : Fin 16) (cv : Fin 8) : Statement (.mmaDnb g db slot d frag t sct cv) := rfl
theorem dntap (g : Guard) (m : TapMode) (slot : Fin 8) (d : Fin 768) (t : Fin 256) (h : Bool) (b : Fin 16) : Statement (.dntap g m slot d t h b) := rfl
theorem dnload (g : Guard) (slot : Fin 8) : Statement (.dnload g slot) := rfl
theorem matrixOpStart (op : Nat) : Statement (.matrixOpStart op) := rfl
theorem matrixCommit (op : Nat) : Statement (.matrixCommit op) := rfl
theorem residueRetry (op : Nat) : Statement (.residueRetry op) := rfl
theorem residueFallback (op : Nat) : Statement (.residueFallback op) := rfl
theorem curvePassEnd (op : Nat) : Statement (.curvePassEnd op) := rfl
theorem matrixFetchFault (op : Nat) (kind : Fin 3) (hard content : Bool) (addr : Word64) : Statement (.matrixFetchFault op kind hard content addr) := rfl
theorem tkissue (g : Guard) (d : Fin 128) (a : Opnd) : Statement (.tkissue g d a) := rfl
theorem tkredeem (g : Guard) (d a b : Fin 128) : Statement (.tkredeem g d a b) := rfl
theorem tkstateGet (g : Guard) (d a : Fin 128) : Statement (.tkstateGet g d a) := rfl
theorem tkstateVoid (g : Guard) (d a : Fin 128) : Statement (.tkstateVoid g d a) := rfl
theorem tkstateFree (g : Guard) (d a : Fin 128) : Statement (.tkstateFree g d a) := rfl
theorem wvcommitOpen (g : Guard) (d : Fin 128) : Statement (.wvcommitOpen g d) := rfl
theorem wvcommitCow (g : Guard) (d : Fin 128) (a : Opnd) : Statement (.wvcommitCow g d a) := rfl
theorem wvcommitFin (g : Guard) (d : Fin 128) : Statement (.wvcommitFin g d) := rfl
theorem wvcommitDrop (g : Guard) (d : Fin 128) : Statement (.wvcommitDrop g d) := rfl
theorem taskResultReturn (op : Nat) : Statement (.taskResultReturn op) := rfl
theorem launchStatusReturn (log lane : Nat) : Statement (.launchStatusReturn log lane) := rfl
theorem selection (team crew : Nat) : Statement (.selection team crew) := rfl
theorem clauseHeaderIssue (team crew : Nat) : Statement (.clauseHeaderIssue team crew) := rfl
theorem coreIssueCycle (core : Nat) : Statement (.coreIssueCycle core) := rfl
theorem crossLaneCompletion (op : Nat) : Statement (.crossLaneCompletion op) := rfl
theorem trapTaken (team crew : Nat) (cls : Fin 14) (lanes : Mask) (tinfo : Word32) : Statement (.trapTaken team crew cls lanes tinfo) := rfl
theorem teamKill (team crew : Nat) (cls : Fin 14) (lanes : Mask) (pc : Word64) (tinfo : Word32) : Statement (.teamKill team crew cls lanes pc tinfo) := rfl
theorem driverResumeGrid (grid : Nat) : Statement (.driverResumeGrid grid) := rfl
theorem driverKillGrid (grid : Nat) : Statement (.driverKillGrid grid) := rfl
theorem uncorrectableError (team : Nat) (storage : Fin 4) : Statement (.uncorrectableError team storage) := rfl
theorem crewRetire (team crew : Nat) : Statement (.crewRetire team crew) := rfl
theorem teamRetire (team : Nat) : Statement (.teamRetire team) := rfl
theorem gridRetire (grid : Nat) : Statement (.gridRetire grid) := rfl
theorem teamPlacement (grid core : Nat) : Statement (.teamPlacement grid core) := rfl
theorem kernelImageLoad (grid core : Nat) : Statement (.kernelImageLoad grid core) := rfl
theorem compactorMove (core block first : Nat) : Statement (.compactorMove core block first) := rfl
theorem priorityPreempt (grid core : Nat) : Statement (.priorityPreempt grid core) := rfl
theorem instructionBoundaryStop (team : Nat) : Statement (.instructionBoundaryStop team) := rfl
theorem teamRestore (team core : Nat) : Statement (.teamRestore team core) := rfl
theorem quantumExpiry (core : Nat) : Statement (.quantumExpiry core) := rfl
theorem bankSpill (core : Nat) : Statement (.bankSpill core) := rfl
theorem coreFailure (core : Nat) : Statement (.coreFailure core) := rfl
theorem coreRestart (core : Nat) : Statement (.coreRestart core) := rfl
theorem stageEntryWaitEnd (log lane : Nat) : Statement (.stageEntryWaitEnd log lane) := rfl
theorem plumbRelease (grid : Nat) : Statement (.plumbRelease grid) := rfl
theorem stagedLoadComplete (log lane : Nat) : Statement (.stagedLoadComplete log lane) := rfl
theorem atsTranslationResponse (die : Nat) (pasid : BitVec 20) (page : BitVec 44) (write : Bool) (grant : Option (Nat × Nat × Bool)) : Statement (.atsTranslationResponse die pasid page write grant) := rfl
theorem atsInvalidateRequest (die : Nat) (pasid : BitVec 20) (range : Option (Nat × Nat)) : Statement (.atsInvalidateRequest die pasid range) := rfl
theorem pageRequestGroupResponse (die entry : Nat) (resp : Fin 4) : Statement (.pageRequestGroupResponse die entry resp) := rfl
theorem fbufValidClear (die entry : Nat) : Statement (.fbufValidClear die entry) := rfl
theorem fstatDropClear (die : Nat) : Statement (.fstatDropClear die) := rfl
theorem replay (die : Nat) : Statement (.replay die) := rfl
theorem replayEnd (die : Nat) : Statement (.replayEnd die) := rfl
theorem ringwrDoorbell (fe : Nat) (w : BitVec 32) : Statement (.ringwrDoorbell fe w) := rfl
theorem ringctlEnable (fe : Nat) (value : BitVec 32) : Statement (.ringctlEnable fe value) := rfl
theorem ringEntryTaken (fe : Nat) : Statement (.ringEntryTaken fe) := rfl
theorem festatStoppedClear (fe : Nat) : Statement (.festatStoppedClear fe) := rfl
theorem recordPost (fe : Nat) : Statement (.recordPost fe) := rfl
theorem recrdWrite (fe : Nat) (value : BitVec 32) : Statement (.recrdWrite fe value) := rfl
theorem recbaseWrite (fe : Nat) (base : Option Word64) (size : Option (BitVec 16)) : Statement (.recbaseWrite fe base size) := rfl
theorem nodeReadyLaunch (sub : Nat) : Statement (.nodeReadyLaunch sub) := rfl
theorem replayGridLaunch (sub block : Nat) : Statement (.replayGridLaunch sub block) := rfl
theorem partWrite (fe : Nat) (value : Word64) : Statement (.partWrite fe value) := rfl
theorem rangeShrinkComplete (fe : Nat) : Statement (.rangeShrinkComplete fe) := rfl
theorem coopDrainPoint (grid : Nat) : Statement (.coopDrainPoint grid) := rfl
theorem redemptionRun (sub : Nat) : Statement (.redemptionRun sub) := rfl
theorem updateNodeReady (sub : Nat) : Statement (.updateNodeReady sub) := rfl
theorem updateNodeRetire (sub : Nat) : Statement (.updateNodeRetire sub) := rfl
theorem exportPerformed (die home : Nat) : Statement (.exportPerformed die home) := rfl
theorem clockAnnouncement (die : Nat) : Statement (.clockAnnouncement die) := rfl
theorem announcementReceived (die src : Nat) (value : Word64) : Statement (.announcementReceived die src value) := rfl
theorem releaseClockWaitEnd (log lane : Nat) : Statement (.releaseClockWaitEnd log lane) := rfl
theorem zeroLengthReadCompletion (log lane : Nat) : Statement (.zeroLengthReadCompletion log lane) := rfl
theorem wenandDataFrame (link : Nat) (incoming : Bool) (frame : List Byte) : Statement (.wenandDataFrame link incoming frame) := rfl
theorem wenandAcknowledgement (link : Nat) (frame : List Byte) : Statement (.wenandAcknowledgement link frame) := rfl
theorem wenandRetryRequest (link : Nat) (frame : List Byte) : Statement (.wenandRetryRequest link frame) := rfl
theorem wenandRetrain (link : Nat) : Statement (.wenandRetrain link) := rfl
theorem wenandLinkTrained (link : Nat) : Statement (.wenandLinkTrained link) := rfl
theorem wenandLinkFailure (link : Nat) : Statement (.wenandLinkFailure link) := rfl
theorem peerAccess (log lane : Nat) (answer : Option (List Byte)) : Statement (.peerAccess log lane answer) := rfl
theorem migctlGoSource (fe : Nat) (peer : BitVec 6) (other : BitVec 4) : Statement (.migctlGoSource fe peer other) := rfl
theorem migctlGoTarget (fe : Nat) (peer : BitVec 6) (other : BitVec 4) : Statement (.migctlGoTarget fe peer other) := rfl
theorem migrationSendComplete (fe : Nat) (parcel : Parcel) : Statement (.migrationSendComplete fe parcel) := rfl
theorem migctlResume (fe : Nat) : Statement (.migctlResume fe) := rfl
theorem migctlAbort (fe : Nat) : Statement (.migctlAbort fe) := rfl
theorem migctlClear (fe : Nat) : Statement (.migctlClear fe) := rfl
theorem pagePull (fe entry : Nat) : Statement (.pagePull fe entry) := rfl
theorem pageLanded (fe entry : Nat) (bytes : List (Nat × Byte)) : Statement (.pageLanded fe entry bytes) := rfl
theorem forwardedAtomic (log lane : Nat) (answer : Option Word64) : Statement (.forwardedAtomic log lane answer) := rfl
theorem forwardingStubAccess (link fe offset : Nat) (access : StubAccess) : Statement (.forwardingStubAccess link fe offset access) := rfl
theorem functionLevelReset (fe : Nat) : Statement (.functionLevelReset fe) := rfl
theorem hostBar2Access (offset size : Nat) (write : Option Word64) (relaxed : Bool) : Statement (.hostBar2Access offset size write relaxed) := rfl
theorem hostBar4Access (offset size : Nat) (write : Option Word64) : Statement (.hostBar4Access offset size write) := rfl
theorem attestationRequest (pf : Fin 2) (vf : Option (Fin 8)) (nonce : List Byte) : Statement (.attestationRequest pf vf nonce) := rfl
theorem fusedMinimumRaise (die : Nat) (svn : BitVec 32) : Statement (.fusedMinimumRaise die svn) := rfl
theorem deviceResetBoot (die : Nat) (input : BootInput) : Statement (.deviceResetBoot die input) := rfl
theorem thermalLimit (die : Nat) (celsius : Nat) : Statement (.thermalLimit die celsius) := rfl
theorem registerWrite (pf : Fin 2) (vf : Option (Fin 8)) (offset : Nat) (value : Option Word64) : Statement (.registerWrite pf vf offset value) := rfl

end Sys2Proof.Laws.Encodes
end

