-- ==== Sys2Proof/Machine/Storage.lean ====
section
/-! DEFINITION. How a vector register is stored in the lane-banks of its bank group, what a read of it delivers, and which
reads a port grants (R102 to R105). Nothing a program computes depends on them. -/

namespace Sys2Proof.Machine

/-- What the lane-banks hold of a vector register (R102). -/
inductive LaneStore where
  | uniform (first : Word32)
  | delta8 (first : Word32) (deltas : List (BitVec 8))
  | full (values : List Word32)
  deriving DecidableEq, Repr

/-- The difference from the first lane, where it is a signed 8-bit number (R102). -/
def smallDelta (first x : Word32) : Bool :=
  decide (-128 ≤ (x - first).toInt) && decide ((x - first).toInt ≤ 127)

/-- The first mode of R102 that the lane values allow. -/
def storedAs : List Word32 → LaneStore
  | [] => .full []
  | v :: vs =>
    if vs.all fun x => x == v then .uniform v
    else if vs.all fun x => smallDelta v x then .delta8 v ((v :: vs).map fun x => (x - v).truncate 8)
    else .full (v :: vs)

/-- What the decompressor of a read path delivers to `n` lanes (R103). -/
def LaneStore.read (n : Nat) : LaneStore → List Word32
  | .uniform v => List.replicate n v
  | .delta8 v ds => ds.map fun d => v + d.signExtend 32
  | .full vs => vs

/-- Lane-banks that a read of the register costs (R102). -/
def LaneStore.laneBanks : LaneStore → Nat
  | .uniform _ => 1
  | .delta8 _ _ => 2
  | .full _ => 4

/-- Register `v<n>` of a crew as it is stored after its last write (R102). -/
def Crew.stored (cr : Crew) (n : Nat) : LaneStore := storedAs ((List.range 16).map fun l => cr.v n l)

/-- The bank group of `v<n>`: the vector base, in registers, plus the register's number, modulo 8 (R104). -/
def Crew.bankGroup (cr : Crew) (n : Nat) : Nat := (16 * cr.vbase + n) % 8

/-- The read port, 0 or 1, of the collector of an issue slot (R104). -/
def readPortOf (slot : Nat) : Nat := slot / 4

/-- Vector registers among the sources of an instruction, in the order A, B, C: uniform, predicate and constant operands need
no read port (R104). -/
def vectorReads (srcs : List Res) : List Nat :=
  srcs.filterMap fun r => match r with
    | .v n => some n
    | _ => none

/-- The operand collector of an issue slot: the vector sources of its instruction that it has still to read, one by one (R104). -/
structure Collector where
  slot : Nat
  todo : List Nat
  deriving DecidableEq, Repr

/-- The collector of a slot as its instruction comes to it. -/
def Collector.start (slot : Nat) (i : Instr) : Collector := ⟨slot, vectorReads (((info i).map Info.srcs).getD [])⟩

/-- The request that a collector has pending, at most one: bank group, read port and register (R104). -/
def Collector.pending (k : Collector) (cr : Crew) : Option (Nat × Nat × Nat) :=
  k.todo.head?.map fun n => (cr.bankGroup n, readPortOf k.slot, n)

/-- A granted read delivers its register, and the collector asks for its next source. -/
def Collector.granted (k : Collector) : Collector := { k with todo := k.todo.drop 1 }

/-- The collectors whose pending requests stand at a port of a bank group. -/
def atPort (ks : List (Collector × Crew)) (group port : Nat) : List Nat :=
  ks.filterMap fun k => (k.1.pending k.2).bind fun q => if q.1 = group ∧ q.2.1 = port then some k.1.slot else none

/-- A read pending at a port: its issue slot, the cycles it has waited, the consecutive arbitrations that its crew has lost
there, and the lane-banks it reads (R105). -/
structure ReadRequest where
  slot : Nat
  waited : Nat
  lost : Nat
  banks : BitVec 4
  deriving DecidableEq, Repr

/-- `a` is granted before `b`: it has waited longer; then its crew has lost three in a row; then its slot is lower (R105). -/
def ReadRequest.before (a b : ReadRequest) : Bool :=
  decide (b.waited < a.waited) ||
    (a.waited == b.waited &&
      ((decide (3 ≤ a.lost) && decide (b.lost < 3)) ||
        (decide (3 ≤ a.lost) == decide (3 ≤ b.lost) && decide (a.slot < b.slot))))

/-- The request that a port grants in a cycle (R105). -/
def grant : List ReadRequest → Option ReadRequest
  | [] => none
  | r :: rs =>
    match grant rs with
    | none => some r
    | some b => if b.before r then some b else some r

/-- The one further request that the port may grant in the same cycle: the longest-waiting one whose lane-banks are disjoint
from those of the first (R105). -/
def alsoGrant (first : ReadRequest) (rs : List ReadRequest) : Option ReadRequest :=
  grant (rs.filter fun r => r.slot != first.slot && (r.banks &&& first.banks) == 0)

end Sys2Proof.Machine
end

