-- ==== Sys2Proof/Laws/Storage.lean ====
section
/-! SUPPORT. Every mode of R102 reads back the values written, and a collector reads its sources one by one. -/

namespace Sys2Proof.Machine

theorem delta_read (v x : Word32) (h : smallDelta v x = true) : v + ((x - v).truncate 8).signExtend 32 = x := by
  simp only [smallDelta, Bool.and_eq_true, decide_eq_true_eq] at h
  have hd : (((x - v).truncate 8).signExtend 32) = x - v := by
    apply BitVec.eq_of_toInt_eq
    rw [BitVec.toInt_signExtend_of_le (by omega), BitVec.truncate_eq_setWidth, BitVec.toInt_setWidth]
    have := BitVec.toInt_eq_toNat_bmod (x - v)
    generalize hz : (x - v).toInt = z at *
    simp only [Int.bmod_def] at *
    omega
  rw [hd, BitVec.add_comm, BitVec.sub_add_cancel]

/-- A read delivers the values written, whatever the mode (R103). -/
theorem stored_read (vs : List Word32) : (storedAs vs).read vs.length = vs := by
  cases vs with
  | nil => rfl
  | cons v vs =>
    by_cases hu : (vs.all fun x => x == v) = true
    · simp only [storedAs, hu, if_true, LaneStore.read, List.length_cons, List.replicate_succ]
      congr 1
      symm
      exact List.eq_replicate_iff.mpr ⟨rfl, fun b hb => by simpa using List.all_eq_true.mp hu b hb⟩
    · by_cases hd : (vs.all fun x => smallDelta v x) = true
      · simp only [storedAs, hu, hd, if_true, LaneStore.read, List.map_map, Bool.false_eq_true, if_false]
        have hall : ∀ x ∈ v :: vs, ((fun d : BitVec 8 => v + d.signExtend 32) ∘ fun x => (x - v).truncate 8) x = x := by
          intro x hx
          apply delta_read
          rcases List.mem_cons.mp hx with rfl | hx
          · simp [smallDelta]
          · exact List.all_eq_true.mp hd x hx
        rw [List.map_congr_left hall, List.map_id']
      · simp [storedAs, hu, hd, LaneStore.read]

/-- What a crew's stored register delivers is the register (R103). -/
theorem Crew.stored_read (cr : Crew) (n : Nat) :
    (cr.stored n).read 16 = (List.range 16).map fun l => cr.v n l := by
  have h := Machine.stored_read ((List.range 16).map fun l => cr.v n l)
  simpa [Crew.stored] using h

/-- A collector asks for its sources in order, each once (R104). -/
theorem Collector.pending_granted (k : Collector) (cr : Crew) (n : Nat) (r : List Nat) (h : k.todo = n :: r) :
    k.pending cr = some (cr.bankGroup n, readPortOf k.slot, n) ∧ k.granted.todo = r := by
  simp [Collector.pending, Collector.granted, h]

/-- No collector has two requests pending: at a port stand no more than there are collectors (R104). -/
theorem atPort_length (ks : List (Collector × Crew)) (group port : Nat) : (atPort ks group port).length ≤ ks.length :=
  List.length_filterMap_le ..

/-- Uniform operands need no read port (R104). -/
theorem vectorReads_uniform (ns : List Nat) : vectorReads (ns.map Res.s) = [] := by
  induction ns with
  | nil => rfl
  | cons n ns ih => simp [vectorReads]

end Sys2Proof.Machine
end

