-- ==== Sys2Proof/Laws/Write.lean ====
section
/-! SUPPORT. The one lemma about writing a destination (R134, R137): `Crew.write` gives what `Wrote` says. -/

namespace Sys2Proof.Machine

theorem Crew.v_setV64 (cr : Crew) (n l k j : Nat) (x : Word64) (hl : l < 16) (hj : j < 16) :
    (cr.setV64 n l x).v k j = if k = n + 1 ∧ j = l then x.extractLsb' 32 32
      else if k = n ∧ j = l then x.extractLsb' 0 32 else cr.v k j := by
  simp only [Crew.setV64, Crew.v_setV _ _ _ _ _ _ hl hj]

theorem Crew.s_setS64 (cr : Crew) (n k : Nat) (x : Word64) :
    (cr.setS64 n x).s k = if k = n + 1 then x.extractLsb' 32 32 else if k = n then x.extractLsb' 0 32 else cr.s k := by
  simp only [Crew.setS64, Crew.s_setS]

theorem joinHalves (x : Word64) : x.extractLsb' 32 32 ++ x.extractLsb' 0 32 = x := by
  apply BitVec.eq_of_getLsbD_eq
  intro i hi
  simp only [BitVec.getLsbD_append, BitVec.getLsbD_extractLsb']
  by_cases h : i < 32
  · simp [h]
  · have : i - 32 < 32 := by omega
    have e : 32 + (i - 32) = i := by omega
    simp [h, this, e]

/-- A vector register after a destination has been written in some lanes. -/
theorem Crew.v_foldl_setD (n : Fin 768) (w : Bool) (f : Nat → Nat) (ls : List Nat) (hls : ∀ l ∈ ls, l < 16) (cr : Crew)
    (k j : Nat) (hj : j < 16) :
    (ls.foldl (fun cr l => cr.setD (.v n) w l (f l)) cr).v k j =
      if j ∈ ls ∧ w = true ∧ k = n.val + 1 then (BitVec.ofNat 64 (f j)).extractLsb' 32 32
      else if j ∈ ls ∧ k = n.val then (if w then (BitVec.ofNat 64 (f j)).extractLsb' 0 32 else BitVec.ofNat 32 (f j))
      else cr.v k j := by
  induction ls generalizing cr with
  | nil => simp
  | cons a r ih =>
    rw [List.foldl_cons, ih (fun l h => hls l (List.mem_cons_of_mem _ h))]
    have ha : a < 16 := hls a (by simp)
    cases w with
    | false =>
      simp only [Crew.setD, Bool.false_eq_true, if_false, Crew.v_setV _ _ _ _ _ _ ha hj]
      by_cases h : j = a
      · subst h
        by_cases hk : k = n.val <;> by_cases hr : j ∈ r <;> simp [hk, hr]
      · by_cases hk : k = n.val <;> by_cases hr : j ∈ r <;> simp [h, hk, hr]
    | true =>
      simp only [Crew.setD, if_true, Crew.v_setV64 _ _ _ _ _ _ ha hj]
      by_cases h : j = a
      · subst h
        by_cases h1 : k = n.val + 1 <;> by_cases hk : k = n.val <;> by_cases hr : j ∈ r <;> simp [h1, hk, hr]
      · by_cases h1 : k = n.val + 1 <;> by_cases hk : k = n.val <;> by_cases hr : j ∈ r <;> simp [h, h1, hk, hr]

/-- Only the vector registers change. -/
theorem Crew.foldl_setD_rest (n : Fin 768) (w : Bool) (f : Nat → Nat) (ls : List Nat) (cr : Crew) :
    { ls.foldl (fun cr l => cr.setD (.v n) w l (f l)) cr with vregs := cr.vregs } = cr := by
  suffices h : ∃ vr, ls.foldl (fun cr l => cr.setD (.v n) w l (f l)) cr = { cr with vregs := vr } by
    obtain ⟨vr, h⟩ := h
    rw [h]
  induction ls generalizing cr with
  | nil => exact ⟨cr.vregs, rfl⟩
  | cons a r ih =>
    obtain ⟨vr, h⟩ := ih (cr.setD (.v n) w a (f a))
    refine ⟨vr, ?_⟩
    rw [List.foldl_cons, h]
    cases w <;> rfl

/-- Writing a destination gives each lane of the mask its value, and changes nothing else of the crew (R134, R137). -/
theorem Crew.wrote_write (cr : Crew) (d : Dst) (w : Bool) (m : Mask) (f : Nat → Nat)
    (hf : ∀ l, l < 16 → f l < if w then 2 ^ 64 else 2 ^ 32) : Wrote cr (cr.write d w m f) d w m f := by
  have low : ∀ l, lowestLane m = l → m ≠ 0 → l < 16 := by
    intro l hl hm
    by_contra hge
    unfold lowestLane at hl
    cases hls : lanesOf m with
    | nil => rw [hls] at hl; simp at hl; omega
    | cons a r =>
      have : a ∈ lanesOf m := by rw [hls]; simp
      rw [hls] at hl
      simp at hl
      have := (mem_lanesOf m a).mp this
      omega
  cases d with
  | v n =>
    have hv : ∀ k j, j < 16 → (cr.write (.v n) w m f).v k j =
        if (m.getLsbD j = true) ∧ w = true ∧ k = n.val + 1 then (BitVec.ofNat 64 (f j)).extractLsb' 32 32
        else if (m.getLsbD j = true) ∧ k = n.val then
          (if w then (BitVec.ofNat 64 (f j)).extractLsb' 0 32 else BitVec.ofNat 32 (f j))
        else cr.v k j := by
      intro k j hj
      have := Crew.v_foldl_setD n w f (lanesOf m) (fun l h => ((mem_lanesOf m l).mp h).1) cr k j hj
      simpa [Crew.write, mem_lanesOf, hj] using this
    refine ⟨?_, ?_, Crew.foldl_setD_rest n w f (lanesOf m) cr⟩
    · intro l hl hm
      cases w with
      | false =>
        simp only [Bool.false_eq_true, if_false]
        rw [hv _ _ hl]
        simpa [hm] using Nat.mod_eq_of_lt (hf l hl)
      | true =>
        simp only [if_true]
        have e : (cr.write (.v n) true m f).v64 n.val l = BitVec.ofNat 64 (f l) := by
          unfold Crew.v64
          rw [hv _ _ hl, hv _ _ hl]
          simp only [hm, and_self, if_true, true_and]
          rw [if_neg (by omega)]
          exact joinHalves _
        rw [e]
        simpa using Nat.mod_eq_of_lt (hf l hl)
    · intro k l hl h
      rw [hv _ _ hl, if_neg, if_neg]
      · rintro ⟨hm, hk⟩
        rcases h with h | h | h
        · simp [hm] at h
        · omega
        · cases w <;> simp [two] at h <;> omega
      · rintro ⟨hm, hw, hk⟩
        subst hw
        rcases h with h | h | h
        · simp [hm] at h
        · omega
        · simp [two] at h; omega
  | s n =>
    simp only [Wrote]
    split
    · rename_i h; simp [Crew.write, h]
    · rename_i h
      have hf' := hf _ (low _ rfl h)
      simp only [Crew.write, h, if_false]
      cases w with
      | false =>
        refine ⟨?_, ?_, rfl⟩
        · simpa [Crew.setD, Crew.s_setS] using Nat.mod_eq_of_lt hf'
        · intro k hk
          have : k ≠ n.val := by simp [two] at hk; omega
          simp [Crew.setD, Crew.s_setS, this]
      | true =>
        refine ⟨?_, ?_, rfl⟩
        · simp only [if_true, Crew.setD]
          have e : (cr.setS64 n.val (BitVec.ofNat 64 (f (lowestLane m)))).s64 n.val = BitVec.ofNat 64 (f (lowestLane m)) := by
            unfold Crew.s64
            rw [Crew.s_setS64, Crew.s_setS64]
            simp only [if_true]
            rw [if_neg (by omega)]
            exact joinHalves _
          rw [e]
          simpa using Nat.mod_eq_of_lt hf'
        · intro k hk
          have h1 : k ≠ n.val := by simp [two] at hk; omega
          have h2 : k ≠ n.val + 1 := by simp [two] at hk; omega
          simp [Crew.setD, Crew.s_setS64, h1, h2]

/-- Writing a predicate gives each lane of the mask its bit (R95). -/
theorem Crew.wroteP_setP (cr : Crew) (p : Fin 16) (m v : Mask) : WroteP cr (cr.setP p.val m v) p m fun l => v.getLsbD l := by
  refine ⟨?_, ?_, ?_, Crew.p_fifteen _, ?_⟩
  · intro l _ hm hp
    simp [Crew.p_setP, hp, hm]
  · intro l _ hm
    by_cases hp : p.val = 15
    · simp [hp]
    · simp [Crew.p_setP, hp, hm]
      intro h; exact BitVec.lt_of_getLsbD h
  · intro k hk
    simp [Crew.p_setP, hk]
  · unfold Crew.setP; split <;> rfl

end Sys2Proof.Machine
end

