-- ==== Sys2Proof/Tests/Slice0.lean ====
section
/-! SUPPORT. Tests: words that the spec writes out, ill-formed terms, single steps with results from the spec, and for each
statement with hypotheses a state and operands that meet them. -/

namespace Sys2Proof.Tests

open Sys2Proof.Machine

set_option Elab.async false

/-! ## Decoding: every word is written out in the spec's own tables of encoded words -/

abbrev g0 : Guard := ⟨false, false, 15⟩

theorem test_decode_shl : decode 0x0D7801C078400100 = .ok (.shl g0 false (.v 0) (.sp .lane) (.con 2)) := by decide
theorem test_decode_ld_sw :
    decode 0xE478038000000200 = .ok (.ld ⟨true, false, 15⟩ .b32 .generic .none .none (.v 1) ⟨.s 0, .v 0, 0⟩) := by decide
theorem test_decode_fadd : decode 0x20080200FE000700 = .ok (.fadd ⟨false, false, 1⟩ .f32 .rne 1 (.v 1) (.con 48)) := by decide
theorem test_decode_brx : decode 0x4178018280007800 = .ok (.brx g0 (.s 5) 15) := by decide
theorem test_decode_bra : decode 0x4078000000003800 = .ok (.bra g0 7) := by decide
theorem test_decode_bra_not : decode 0x409000000000D800 = .ok (.bra ⟨false, true, 2⟩ 27) := by decide
theorem test_decode_icmp : decode 0x117803C079000303 = .ok (.icmp g0 .s32 false .lt 1 (.sp .lane) (.con 8)) := by decide
theorem test_decode_iadd_w : decode 0x01780C0360000340 = .ok (.iadd g0 .s32 true false (.v 6) (.v 6) (.s 0)) := by decide
theorem test_decode_iadd_uniform : decode 0x017E158578200500 = .ok (.iadd g0 .n32 false false (.s 10) (.s 10) (.con 1)) := by
  decide
theorem test_decode_iadd_imm : decode 0x187805C0801F4500 = .ok (.iaddImm g0 .n32 false false (.v 2) (.sp .tid) 1000) := by
  decide
theorem test_decode_and_imm : decode 0x197804017F800100 = .ok (.andImm g0 false (.v 2) (.v 2) 0xFF000) := by decide
theorem test_decode_movi : decode 0x1478122468ACF000 = .ok (.movi g0 false (.v 9) 0x12345678) := by decide
theorem test_decode_lea : decode 0x15780D80001E0502 = .ok (.lea g0 false 2 (.v 6) (.s 0) (.v 0) (.con 0)) := by decide
theorem test_decode_pand : decode 0x1778040080600000 = .ok (.pand g0 2 1 3) := by decide
theorem test_decode_fadd_rz : decode 0x2078020100600701 = .ok (.fadd g0 .f32 .rz 1 (.v 2) (.v 3)) := by decide
theorem test_decode_fcmp : decode 0x29780400FE000703 = .ok (.fcmp g0 .f32 .lt 2 (.v 1) (.con 48)) := by decide
theorem test_decode_fcvt : decode 0x2C780A0080007604 = .ok (.fcvt g0 (.wide .f16 .f32 .rne true) 5 (.v 1)) := by decide
theorem test_decode_dp4 : decode 0x32780E0280C04702 = .ok (.dp4 g0 true 2 7 (.v 5) (.v 6) (.v 8)) := by decide
theorem test_decode_loop : decode 0x4578018300002800 = .ok (.loop g0 (.s 6) 5) := by decide
theorem test_decode_ldarg_pair : decode 0x4D7E000000000180 = .ok (.ldarg g0 .b64 (.s 0) 0) := by decide
theorem test_decode_ldarg : decode 0x4D7E080000008100 = .ok (.ldarg g0 .b32 (.s 4) 16) := by decide
theorem test_decode_join : decode 0x4478018100000000 = .ok (.join g0 (.s 2)) := by decide
theorem test_decode_exit : decode 0x4778000000000000 = .ok (.exit g0) := by decide
theorem test_decode_mfs : decode 0x4E7809C680000000 = .ok (.mfs g0 (.v 4) .tinfo) := by decide
theorem test_decode_mts : decode 0x4F7F13E000000000 = .ok (.mts g0 .fptrap (.con 0)) := by decide
theorem test_decode_rft : decode 0x7E78000000000000 = .ok (.rft g0) := by decide
theorem test_decode_bfly : decode 0x58780A02783E0100 = .ok (.bfly g0 false 5 (.v 4) (.con 1) (.con 0)) := by decide
theorem test_decode_shfl : decode 0x59780C02783E0101 = .ok (.shfl g0 false .up 6 (.v 4) (.con 1) (.con 0)) := by decide
theorem test_decode_redux : decode 0x5D7E0E0180000706 = .ok (.redux g0 .fadd (.s 7) (.v 3)) := by decide
theorem test_decode_redux_max : decode 0x5D0E0E0100000502 = .ok (.redux ⟨false, false, 1⟩ (.max false) (.s 7) (.v 2)) := by
  decide
theorem test_decode_rand : decode 0x6078100178A00002 = .ok (.rand g0 false true 8 (.v 2) (.con 5)) := by decide
theorem test_decode_rand_next : decode 0x6078120078000008 = .ok (.randNext g0 false false 9 (.con 0)) := by decide
theorem test_decode_st : decode 0x6578038100000200 = .ok (.st g0 .b32 .generic .none .none (.v 1) ⟨.s 2, .v 0, 0⟩) := by
  decide
/-- R56: a special register stands as a memory index. -/
theorem test_decode_ld_special :
    decode 0x6478018070000200 = .ok (.ld g0 .b32 .generic .none .none (.v 0) ⟨.s 0, .sp .lane, 0⟩) := by decide
theorem test_decode_ld_acq :
    decode 0x64780D80005FF314 = .ok (.ld g0 .b64 .generic .acq .dev (.v 6) ⟨.s 0, .v 2, 0x3FE⟩) := by decide
theorem test_decode_st_peer :
    decode 0x65780202F8101A80 = .ok (.st g0 .b32 (.peer 2) .none .none (.v 1) ⟨.v 5, .con 0, 3⟩) := by decide
theorem test_decode_atom : decode 0x68780580006E0300 = .ok (.atom g0 .add .s32 .generic .rel .dev 2 (.s 0) (.v 3)) := by decide
theorem test_decode_atom_rank : decode 0x68780580006E1B00 = .ok (.atom g0 .add .s32 .generic .rel .dev 2 (.s 0) (.v 3)) := by decide
theorem test_decode_red : decode 0x6978018000200748 = .ok (.red g0 .fmaxAbs .f32 .generic .none .none (.s 0) (.v 1)) := by
  decide
theorem test_decode_ldx : decode 0x6678818A001E8240 = .ok (.ldx g0 .b32 .pad .none 64 (.s 20) (.v 0) 15) := by decide
theorem test_decode_fence : decode 0x6A7800000000002C = .ok (.fence g0 .sc .dev) := by decide
theorem test_decode_cp_ring : decode 0x7078020000048000 = .ok (.cp g0 .g2s .plain 1 0 (some 2) none) := by decide
theorem test_decode_cp_scale : decode 0x7078060160D00001 = .ok (.cp g0 .s2g .q 3 2 none (some (.s 6))) := by decide
theorem test_decode_cp_mc : decode 0x7078080000000003 = .ok (.cp g0 .mc .plain 4 0 none none) := by decide
theorem test_decode_tdset : decode 0x7178038400000000 = .ok (.tdset g0 1 8) := by decide
theorem test_decode_ringadv_init : decode 0x737805E200000002 = .ok (.ringadvInit g0 2 (.con 4)) := by decide
theorem test_decode_ringwait : decode 0x7378040000000009 = .ok (.ringwait g0 2 true) := by decide
theorem test_decode_sign : decode 0x7478058600000000 = .ok (.sign g0 2 (.s 12)) := by decide
theorem test_decode_mma : decode 0x757800200C005701 = .ok (.mma g0 true 1 1 0 64 96 0 2) := by decide
theorem test_decode_mmaw : decode 0x777820200C00C803 = .ok (.mmaw g0 3 16 64 96 3 1) := by decide
theorem test_decode_acclr : decode 0x787821E800000000 = .ok (.acclr g0 16 (.con 16)) := by decide
theorem test_decode_accld : decode 0x7878000100000008 = .ok (.accld g0 0 2) := by decide
theorem test_decode_acccvt : decode 0x78790008191E07A3 = .ok (.acccvt g0 true 3 128 16 200 false) := by decide
theorem test_decode_mwait : decode 0x797801E000000000 = .ok (.mwait g0 (.con 0)) := by decide
theorem test_decode_mma_dn : decode 0x7A7810200C010F02 = .ok (.mmaDn g0 true 2 8 64 96 0 1) := by decide
theorem test_decode_mma_dnb : decode 0x7A78503001000F0A = .ok (.mmaDnb g0 false 2 40 96 8 0 1) := by decide
theorem test_decode_dntap : decode 0x7B78100678010802 = .ok (.dntap g0 .slope 2 8 12 false 1) := by decide
theorem test_decode_dnload : decode 0x7B7800000000000A = .ok (.dnload g0 2) := by decide
theorem test_decode_tkissue : decode 0x7C7E15E000000000 = .ok (.tkissue g0 10 (.con 0)) := by decide
theorem test_decode_tkredeem : decode 0x7C7E098361000008 = .ok (.tkredeem g0 4 6 8) := by decide
theorem test_decode_wvcommit_cow : decode 0x7D7E158580000001 = .ok (.wvcommitCow g0 10 (.s 11)) := by decide
/-- R59: major 0x00 is unassigned; R66: an unused field that is not zero. -/
theorem test_decode_unassigned : decode 0 = .error .unassignedMajor := by decide
theorem test_decode_reserved : decode 0x4778000000000800 = .error .reservedBits := by decide
/-- R52, R53: nop with no field set. -/
theorem test_decode_table_word : decodeTableWord 64 0x5278000000000000 = some (.nop g0) := by decide

/-! ## Ill-formed terms, one for each check -/

theorem test_ill_sat_b32 : Instr.wf (.iadd g0 .b32 false true (.v 0) (.v 1) (.v 2)) = false := by decide
theorem test_ill_odd_pair : Instr.wf (.iadd g0 .s32 true false (.v 1) (.v 2) (.v 4)) = false := by decide
theorem test_ill_odd_source : Instr.wf (.isub g0 .s32 true false (.v 0) (.v 3) (.v 4)) = false := by decide
theorem test_ill_special_pair : Instr.wf (.mov g0 true (.v 0) (.sp .lane)) = false := by decide
theorem test_ill_wait_counter_source : Instr.wf (.mov g0 false (.v 0) (.sp (.wctr 0))) = false := by decide
theorem test_ill_uniform_form : Instr.wf (.mov g0 false (.s 0) (.v 1)) = false := by decide
theorem test_ill_uniform_special : Instr.wf (.mov g0 false (.s 0) (.sp .lane)) = false := by decide
theorem test_ill_icmp_b32 : Instr.wf (.icmp g0 .b32 false .lt 1 (.v 1) (.v 2)) = false := by decide
theorem test_ill_lea_base : Instr.wf (.lea g0 true 0 (.v 0) (.con 0) (.v 2) (.con 0)) = false := by decide
theorem test_ill_sext_b32 : Instr.wf (.sext g0 .b32 false (.v 0) (.v 1)) = false := by decide
theorem test_ill_sext_float8 : Instr.wf (.sext g0 .b8 false (.v 0) (.con 48)) = false := by decide
theorem test_ill_join_special : Instr.wf (.join g0 (.sp .lane)) = false := by decide
theorem test_ill_f64_odd : Instr.wf (.fadd g0 .f64 .rne 1 (.v 2) (.v 4)) = false := by decide
theorem test_ill_fdiv_odd : Instr.wf (.fdiv g0 true .rne 0 (.v 1) (.v 2)) = false := by decide
theorem test_ill_fcvt_same : Instr.wf (.fcvt g0 (.wide .f32 .f32 .rne false) 0 (.v 1)) = false := by decide
theorem test_ill_fcvt_hi : Instr.wf (.fcvt g0 (.wide .f64 .f32 .rne true) 0 (.v 1)) = false := by decide
theorem test_ill_icvt_hi : Instr.wf (.icvt g0 (.toFloat .f32 true false) .rne true 0 (.v 1)) = false := by decide
theorem test_ill_packed_float : Instr.wf (.dp4 g0 true 0 0 (.con 48) (.v 1) (.v 2)) = false := by decide
theorem test_ill_fslice : Instr.wf (.fslice g0 0 0 (.v 1) (.v 2) (.v 3)) = false := by decide
theorem test_ill_call : Instr.wf (.call g0 (.s 1) 0) = false := by decide
theorem test_ill_ret : Instr.wf (.ret g0 (.v 3)) = false := by decide
theorem test_ill_join : Instr.wf (.join g0 (.v 1)) = false := by decide
theorem test_ill_bar : Instr.wf (.bar g0 false 0 (.v 1)) = false := by decide
theorem test_ill_launch : Instr.wf (.launch g0 (.s 0) (.s 1)) = false := by decide
theorem test_ill_ldarg_aligned : Instr.wf (.ldarg g0 .b32 (.s 0) 2) = false := by decide
theorem test_ill_ldarg_end : Instr.wf (.ldarg g0 .b64 (.s 0) 124) = false := by decide
theorem test_ill_mfs : Instr.wf (.mfs g0 (.s 0) .tinfo) = false := by decide
theorem test_ill_mts : Instr.wf (.mts g0 (.wctr 6) (.v 0)) = false := by decide
theorem test_ill_ctxsave : Instr.wf (.ctxsave g0 (.s 1) (.s 2)) = false := by decide
theorem test_ill_bfly : Instr.wf (.bfly g0 false 0 (.v 1) (.v 2) (.con 0)) = false := by decide
theorem test_ill_stload : Instr.wf (.stload g0 0 1) = false := by decide
theorem test_ill_vote : Instr.wf (.vote g0 (.quorum 1 (.v 0)) 2) = false := by decide
theorem test_ill_rand_x4 : Instr.wf (.rand g0 false true 2 (.v 0) (.con 0)) = false := by decide
theorem test_ill_ld_order : Instr.wf (.ld g0 .b32 .generic .rel .dev (.v 0) ⟨.s 0, .con 0, 0⟩) = false := by decide
theorem test_ill_ld_scope : Instr.wf (.ld g0 .b32 .generic .rlx .dev (.v 0) ⟨.s 0, .con 0, 0⟩) = false := by decide
theorem test_ill_ld_base : Instr.wf (.ld g0 .b32 .generic .none .none (.v 0) ⟨.s 1, .con 0, 0⟩) = false := by decide
theorem test_ill_ld_index : Instr.wf (.ld g0 .b32 .generic .none .none (.v 0) ⟨.s 0, .con 48, 0⟩) = false := by decide
theorem test_ill_ld_peer_offset : Instr.wf (.ld g0 .b32 (.peer 0) .none .none (.v 0) ⟨.s 0, .con 0, 200⟩) = false := by decide
theorem test_ill_ld_uniform : Instr.wf (.ld g0 .b32 .generic .none .none (.s 0) ⟨.v 0, .con 0, 0⟩) = false := by decide
theorem test_ill_st_signed : Instr.wf (.st g0 .s8 .generic .none .none (.v 0) ⟨.s 0, .con 0, 0⟩) = false := by decide
theorem test_ill_st_float8 : Instr.wf (.st g0 .b8 .generic .none .none (.con 48) ⟨.s 0, .con 0, 0⟩) = false := by decide
theorem test_ill_ldx_overlap : Instr.wf (.ldx g0 .b32 .pad .none 0 (.s 0) (.v 3) 3) = false := by decide
theorem test_ill_ldx_peer : Instr.wf (.ldx g0 .b32 (.peer 0) .none 0 (.s 0) (.v 8) 3) = false := by decide
theorem test_ill_ldx_range : Instr.wf (.ldx g0 .b32 .pad .none 760 (.s 0) (.v 8) 15) = false := by decide
theorem test_ill_stx_signed : Instr.wf (.stx g0 .s16 .pad .none (.v 0) (.s 0) (.v 8) 0) = false := by decide
theorem test_ill_atom_type : Instr.wf (.atom g0 .add .b32 .generic .none .none 0 (.s 0) (.v 1)) = false := by decide
theorem test_ill_cas_group : Instr.wf (.atom g0 .cas .b32 .generic .none .none 0 (.s 0) (.v 1)) = false := by decide
theorem test_ill_red_exch : Instr.wf (.red g0 .exch .b32 .generic .none .none (.s 0) (.v 1)) = false := by decide
theorem test_ill_red_order : Instr.wf (.red g0 .add .s32 .generic .acq .dev (.s 0) (.v 1)) = false := by decide
theorem test_ill_fence : Instr.wf (.fence g0 .rlx .none) = false := by decide
theorem test_ill_own : Instr.wf (.own g0 false 1 (.s 0)) = false := by decide
theorem test_ill_cp_scale : Instr.wf (.cp g0 .g2s .plain 0 1 none (some (.s 0))) = false := by decide
theorem test_ill_tdset : Instr.wf (.tdset g0 0 4) = false := by decide
theorem test_ill_tdmov_base : Instr.wf (.tdmovBase g0 0 1) = false := by decide
theorem test_ill_ring : Instr.wf (.ringadvInit g0 0 (.v 0)) = false := by decide
theorem test_ill_sign : Instr.wf (.sign g0 0 (.con 48)) = false := by decide
theorem test_ill_acccvt : Instr.wf (.acccvt g0 true 0 1 0 0 false) = false := by decide
theorem test_ill_mwait : Instr.wf (.mwait g0 (.v 0)) = false := by decide
theorem test_ill_tkissue : Instr.wf (.tkissue g0 1 (.con 0)) = false := by decide
theorem test_ill_tkredeem : Instr.wf (.tkredeem g0 0 1 2) = false := by decide
theorem test_ill_wvcommit : Instr.wf (.wvcommitCow g0 0 (.v 1)) = false := by decide

/-! ## Single steps. The expected results are those of the spec's tables of worked values (chapters 7, 8 and 10), or follow from
the rule named by hand. -/

/-- Registers in lanes 0 and 1. -/
def put (vs : List (Nat × Word32)) (cr : Crew) : Crew :=
  vs.foldl (fun cr p => (cr.setV p.1 0 p.2).setV p.1 1 p.2) cr

/-- The device with the instruction as the next to issue and registers set. -/
def ready (i : Instr) (f : Crew → Crew) : State :=
  (State.reset.withFetchWord 64 (((encode i).getD 0).toNat)).modCrew 0 0 f

def outcome (r : Result) : State :=
  match r with
  | .next s => s
  | _ => State.reset

/-- The crew after one step. -/
def after (i : Instr) (vs : List (Nat × Word32)) : Crew := (outcome (step (ready i (put vs)))).crew 0 0

theorem test_iadd_wraps : (after (.iadd g0 .s32 false false (.v 1) (.v 2) (.v 3)) [(2, 0x7FFFFFF0), (3, 0x20)]).v 1 0 = 0x80000010 := by
  decide +kernel
theorem test_iadd_sat : (after (.iadd g0 .s32 false true (.v 1) (.v 2) (.v 3)) [(2, 0x7FFFFFF0), (3, 0x20)]).v 1 0 = 0x7FFFFFFF := by
  decide +kernel
theorem test_isub_sat : (after (.isub g0 .n32 false true (.v 1) (.v 2) (.v 3)) [(2, 5), (3, 9)]).v 1 0 = 0 := by decide +kernel
theorem test_imulhi_s32 : (after (.imulhi g0 true false (.v 1) (.v 2) (.con 4)) [(2, 0x80000000)]).v 1 0 = 0xFFFFFFFE := by
  decide +kernel
theorem test_imulhi_n32 : (after (.imulhi g0 false false (.v 1) (.v 2) (.con 4)) [(2, 0x80000000)]).v 1 0 = 2 := by decide +kernel
theorem test_idiv_s32 : (after (.idiv g0 true false (.v 1) (.v 2) (.con 2)) [(2, 0xFFFFFFF9)]).v 1 0 = 0xFFFFFFFD := by
  decide +kernel
theorem test_irem_s32 : (after (.irem g0 true false (.v 1) (.v 2) (.con 2)) [(2, 0xFFFFFFF9)]).v 1 0 = 0xFFFFFFFF := by
  decide +kernel
theorem test_idiv_zero : (after (.idiv g0 false false (.v 1) (.v 2) (.con 0)) [(2, 9)]).v 1 0 = 0xFFFFFFFF := by decide +kernel
theorem test_irem_zero : (after (.irem g0 false false (.v 1) (.v 2) (.con 0)) [(2, 9)]).v 1 0 = 9 := by decide +kernel
theorem test_idiv_least : (after (.idiv g0 true false (.v 1) (.v 2) (.con 47)) [(2, 0x80000000)]).v 1 0 = 0x80000000 := by
  decide +kernel
theorem test_irem_least : (after (.irem g0 true false (.v 1) (.v 2) (.con 47)) [(2, 0x80000000)]).v 1 0 = 0 := by decide +kernel
theorem test_imul : (after (.imul g0 .b32 false (.v 1) (.v 2) (.v 2)) [(2, 0x10001)]).v 1 0 = 0x20001 := by decide +kernel
theorem test_imad : (after (.imad g0 .n32 false false (.v 1) (.v 2) (.con 3) (.v 1)) [(1, 5), (2, 7)]).v 1 0 = 26 := by decide +kernel
theorem test_imin : (after (.imin g0 true false (.v 1) (.v 2) (.con 1)) [(2, 0xFFFFFFFF)]).v 1 0 = 0xFFFFFFFF := by decide +kernel
theorem test_imax : (after (.imax g0 false false (.v 1) (.v 2) (.con 1)) [(2, 0xFFFFFFFF)]).v 1 0 = 0xFFFFFFFF := by decide +kernel
theorem test_ineg_sat : (after (.ineg g0 false true (.v 1) (.v 2)) [(2, 0x80000000)]).v 1 0 = 0x7FFFFFFF := by decide +kernel
theorem test_iabs : (after (.iabs g0 false false (.v 1) (.v 2)) [(2, 0x80000000)]).v 1 0 = 0x80000000 := by decide +kernel
theorem test_iadd_imm : (after (.iaddImm g0 .s32 false false (.v 1) (.v 2) 0xFFFFF) [(2, 5)]).v 1 0 = 4 := by decide +kernel
theorem test_iaddc :
    let cr := after (.iaddc g0 false (.v 1) (.v 2) (.v 3) 3) [(2, 0xFFFFFFFF), (3, 1)]
    cr.v 1 0 = 0 ∧ (cr.p 3).getLsbD 0 = true ∧ (cr.p 3).getLsbD 2 = false := by decide +kernel
theorem test_isubb :
    let cr := after (.isubb g0 false (.v 1) (.v 2) (.v 3) 3) [(2, 3), (3, 5)]
    cr.v 1 0 = 0xFFFFFFFE ∧ (cr.p 3).getLsbD 0 = true := by decide +kernel
theorem test_andn : (after (.andnL g0 false (.v 1) (.v 2) (.v 3)) [(2, 0xFF), (3, 0x0F)]).v 1 0 = 0xF0 := by decide +kernel
theorem test_and_imm : (after (.andImm g0 false (.v 1) (.v 2) 0xFF000) [(2, 0x12345678)]).v 1 0 = 0x12345000 := by decide +kernel
theorem test_or : (after (.orL g0 false (.v 1) (.v 2) (.v 3)) [(2, 0xF0), (3, 0x0F)]).v 1 0 = 0xFF := by decide +kernel
theorem test_xor : (after (.xorL g0 false (.v 2) (.v 2) (.v 3)) [(2, 0xFF), (3, 0x0F)]).v 2 0 = 0xF0 := by decide +kernel
theorem test_not : (after (.notL g0 false (.v 1) (.v 2)) [(2, 0xFF)]).v 1 0 = 0xFFFFFF00 := by decide +kernel
theorem test_sar : (after (.sar g0 false (.v 1) (.v 2) (.v 3)) [(2, 0x80000000), (3, 40)]).v 1 0 = 0xFFFFFFFF := by decide +kernel
theorem test_shr : (after (.shr g0 false (.v 1) (.v 2) (.v 3)) [(2, 0x80000000), (3, 40)]).v 1 0 = 0 := by decide +kernel
theorem test_rotl : (after (.rotl g0 false (.v 1) (.v 2) (.v 3)) [(2, 0x80000000), (3, 40)]).v 1 0 = 0x80 := by decide +kernel
theorem test_rotr : (after (.rotr g0 false (.v 1) (.v 2) (.con 1)) [(2, 1)]).v 1 0 = 0x80000000 := by decide +kernel
theorem test_shl : (after (.shl g0 false (.v 1) (.sp .lane) (.con 2)) []).v 1 3 = 12 := by decide +kernel
theorem test_clz : (after (.clz g0 false (.v 1) (.v 2)) [(2, 0x1000)]).v 1 0 = 19 := by decide +kernel
theorem test_ctz : (after (.ctz g0 false (.v 1) (.v 2)) [(2, 0x1000)]).v 1 0 = 12 := by decide +kernel
theorem test_popc : (after (.popc g0 false (.v 1) (.v 2)) [(2, 0xF0F00001)]).v 1 0 = 9 := by decide +kernel
theorem test_brev : (after (.brev g0 false (.v 1) (.v 2)) [(2, 1)]).v 1 0 = 0x80000000 := by decide +kernel
theorem test_bfe_s32 : (after (.bfe g0 true false (.v 1) (.v 2) (.con 8) (.con 4)) [(2, 0xF00)]).v 1 0 = 0xFFFFFFFF := by
  decide +kernel
theorem test_bfe_n32 : (after (.bfe g0 false false (.v 1) (.v 2) (.con 30) (.con 8)) [(2, 0xFFFFFFFF)]).v 1 0 = 3 := by
  decide +kernel
theorem test_bfi :
    (after (.bfi g0 false (.v 1) (.v 2) (.con 4) (.con 4)) [(1, 0xFFFFFFFF), (2, 5)]).v 1 0 = 0xFFFFFF5F := by decide +kernel
theorem test_prmt :
    (after (.prmt g0 (.v 4) (.v 1) (.v 2) (.v 3)) [(1, 0x44332211), (2, 0x88776655), (3, 0xBA981032)]).v 4 0 = 0x66551122 := by
  decide +kernel
theorem test_lea_n32 :
    (after (.lea g0 false 2 (.v 6) (.v 2) (.v 4) (.con 32)) [(2, 0x1000), (3, 0x40), (4, 0xFFFFFFFF)]).v64 6 0 =
      0x4400000FEC := by decide +kernel
theorem test_lea_s32 :
    (after (.lea g0 true 2 (.v 6) (.v 2) (.v 4) (.con 32)) [(2, 0x1000), (3, 0x40), (4, 0xFFFFFFFF)]).v64 6 0 =
      0x4000000FEC := by decide +kernel
theorem test_icmp : (after (.icmp g0 .s32 false .lt 1 (.sp .lane) (.con 8)) []).p 1 = 0x00FF := by decide +kernel
theorem test_icmp_imm : (after (.icmpImm g0 .n32 false .ge 1 (.sp .lane) 12) []).p 1 = 0xF000 := by decide +kernel
theorem test_icmp_p15 : (after (.icmp g0 .s32 false .lt 15 (.sp .lane) (.con 8)) []).p 15 = 0xFFFF := by decide +kernel
theorem test_isel : (after (.isel g0 false (.v 1) (.v 2) (.con 7) 0) [(2, 1)]).v 1 0 = 7 := by decide +kernel
theorem test_mov_lane : (after (.mov g0 false (.v 1) (.sp .lane)) []).v 1 15 = 15 := by decide +kernel
theorem test_movi_pair : (after (.movi g0 true (.v 2) 0x80000000) []).v64 2 9 = 0xFFFFFFFF80000000 := by decide +kernel
theorem test_sext : (after (.sext g0 .b8 false (.v 1) (.v 2)) [(2, 0x180)]).v 1 0 = 0xFFFFFF80 := by decide +kernel
theorem test_zext : (after (.zext g0 .b16 false (.v 1) (.v 2)) [(2, 0x12348000)]).v 1 0 = 0x8000 := by decide +kernel
theorem test_pand : (after (.pand g0 2 15 15) []).p 2 = 0xFFFF := by decide +kernel
theorem test_pnot : (after (.pnot g0 2 1) []).p 2 = 0xFFFF := by decide +kernel
theorem test_pmov_pack : (after (.pmovPack g0 (.v 1) 15) []).v 1 3 = 0xFFFF := by decide +kernel
theorem test_pmov_unpack : (after (.pmovUnpack g0 2 (.v 1)) [(1, 3)]).p 2 = 3 &&& 3 := by decide +kernel

theorem test_fadd_even : (after (.fadd g0 .f32 .rne 1 (.con 49) (.v 2)) [(2, 0x33800000)]).v 1 0 = 0x3F800000 := by decide +kernel
theorem test_fadd_up :
    let cr := after (.fadd g0 .f32 .ru 1 (.con 49) (.v 2)) [(2, 0x33800000)]
    cr.v 1 0 = 0x3F800001 ∧ (cr.th 0).fpflags = 0x10 := by decide +kernel
theorem test_fadd_down_zero : (after (.fadd g0 .f32 .rd 1 (.con 49) (.con 53)) []).v 1 0 = 0x80000000 := by decide +kernel
theorem test_fmul_tiny :
    let cr := after (.fmul g0 .f32 .rne 1 (.v 2) (.con 48)) [(2, 3)]
    cr.v 1 0 = 2 ∧ (cr.th 0).fpflags = 0x18 := by decide +kernel
theorem test_fdiv : (after (.fdiv g0 false .rne 1 (.con 49) (.v 2)) [(2, 0x40400000)]).v 1 0 = 0x3EAAAAAB := by decide +kernel
theorem test_frcp : (after (.frcp g0 false 1 (.v 2)) [(2, 0x40400000)]).v 1 0 = 0x3EAAAAAA := by decide +kernel
theorem test_flog2_zero : (after (.flog2 g0 false 1 (.v 2)) [(2, 0)]).v 1 0 = 0xFF800000 := by decide +kernel
theorem test_fsqrt_negative : (after (.fsqrt g0 false .rne 1 (.con 53)) []).v 1 0 = 0x7FC00000 := by decide +kernel
theorem test_fmin : (after (.fmin g0 .f32 false 1 (.v 2) (.con 50)) [(2, 0x7FA00000)]).v 1 0 = 0x40000000 := by decide +kernel
theorem test_fmin_nan : (after (.fmin g0 .f32 true 1 (.v 2) (.con 50)) [(2, 0x7FA00000)]).v 1 0 = 0x7FE00000 := by decide +kernel
theorem test_fcmp_un : ((after (.fcmp g0 .f32 .un 2 (.v 1) (.con 49)) [(1, 0x7FC00000)]).p 2).getLsbD 0 = true := by decide +kernel
theorem test_fcmp_lt_invalid :
    let cr := after (.fcmp g0 .f32 .lt 2 (.v 1) (.con 49)) [(1, 0x7FC00000)]
    (cr.p 2).getLsbD 0 = false ∧ (cr.th 0).fpflags = 1 := by decide +kernel
theorem test_frint : (after (.frint g0 .f32 .rne true 1 (.v 2)) [(2, 0x40200000)]).v 1 0 = 0x40000000 := by decide +kernel
theorem test_fscale : (after (.fscale g0 .f32 .rne 1 (.v 2) (.v 3)) [(2, 0x3FC00000), (3, 0xFFFFFF7E)]).v 1 0 = 0xC0000 := by
  decide +kernel
theorem test_fgetexp : (after (.fgetexp g0 .f32 1 (.v 2)) [(2, 1)]).v 1 0 = 0xFFFFFF6B := by decide +kernel
theorem test_fcvt_f16 : (after (.fcvt g0 (.wide .f16 .f32 .rne false) 1 (.v 2)) [(2, 0x477FF000)]).v 1 0 = 0x7C00 := by
  decide +kernel
theorem test_fcvt_f16_rz : (after (.fcvt g0 (.wide .f16 .f32 .rz false) 1 (.v 2)) [(2, 0x47800000)]).v 1 0 = 0x7BFF := by
  decide +kernel
theorem test_fcvt_bf16_hi :
    (after (.fcvt g0 (.wide .bf16 .f32 .rne true) 1 (.v 2)) [(2, 0x3DCCCCCD)]).v 1 0 = 0x3DCD0000 := by decide +kernel
theorem test_icvt_rd : (after (.icvt g0 (.toInt true false .f32) .rd false 1 (.v 2)) [(2, 0xC0200000)]).v 1 0 = 0xFFFFFFFD := by
  decide +kernel
theorem test_icvt_clamps :
    let cr := after (.icvt g0 (.toInt true false .f32) .rne false 1 (.v 2)) [(2, 0x4F32D05E)]
    cr.v 1 0 = 0x7FFFFFFF ∧ (cr.th 0).fpflags = 1 := by decide +kernel

theorem test_mfs_tid : (after (.mfs g0 (.v 1) .tid) []).v 1 9 = 9 := by decide +kernel
/-- R203: only bits [4:0] are kept. -/
theorem test_mts_fptrap : ((after (.mts g0 .fptrap (.v 1)) [(1, 0xFF)]).th 0).fptrap = 0x1F := by decide +kernel
/-- R204: the class with SW, the code with bit 31. -/
theorem test_trap :
    let th := (after (.trap g0 10 0x1234) []).th 5
    th.state = .parked ∧ th.tcause = 0x1A ∧ th.tinfo = 0x80001234 ∧ th.pc = 0x10010 := by decide +kernel
theorem test_brk : let th := (after (.brk g0 7) []).th 5; th.state = .parked ∧ th.pc = 0x10008 := by decide +kernel
/-- R207: rft outside a handler is an illegal instruction. -/
theorem test_rft_outside : ((after (.rft g0) []).th 0).tcause = 3 := by decide +kernel
/-- R62: a privileged instruction in a kernel takes the privilege trap. -/
theorem test_hlt_privileged : ((after (.hlt g0) []).th 0).tcause = 4 := by decide +kernel
theorem test_accsw_privileged : ((after (.accsw g0) []).th 0).tinfo = 0x7E := by decide +kernel
theorem test_exit : (after (.exit g0) []).exited = 0xFFFF := by decide +kernel
/-- R184: the branch lands on the header one word on. -/
theorem test_bra : ((after (.bra g0 2) []).th 4).pc = 0x10010 := by decide +kernel
theorem test_call : (after (.call g0 (.v 2) 2) []).v64 2 0 = 0x10010 := by decide +kernel
theorem test_elect : (after (.elect g0 1) []).p 1 = 1 := by decide +kernel
theorem test_vote_count : (after (.vote g0 (.count (.s 3)) 15) []).s 3 = 16 := by decide +kernel
theorem test_vote_agree : (after (.vote g0 (.agree 2) 1) []).p 2 = 0xFFFF := by decide +kernel
/-- R211: a crossbar result is outstanding until it returns. -/
theorem test_bfly_issue :
    let s := outcome (step (ready (.bfly g0 false 5 (.sp .lane) (.con 1) (.con 0)) id))
    (s.crew 0 0).counter 4 = 1 ∧ (s.crew 0 0).v 5 3 = 0 ∧ s.cross.map CrossOp.d = [.v 5] := by decide +kernel
theorem test_bfly_result :
    let s := outcome (step (ready (.bfly g0 false 5 (.sp .lane) (.con 1) (.con 0)) id))
    (outcome (exec (.crossLaneCompletion 1) s)).crew 0 0 |>.v 5 3 = 2 := by decide +kernel
/-- R10 and R13: a store is counted until it is performed, and its bytes stand in ascending order (R4). -/
def storing : State := ready (.st g0 .b32 .pad .none .none (.v 1) ⟨.v 2, .con 0, 0⟩) (put [(1, 0x11223344), (2, 64)])
theorem test_st_issue : ((outcome (step storing)).crew 0 0).counter 1 = 1 := by decide +kernel
theorem test_st_performed :
    (State.readPad (outcome (exec (.memoryAccessComplete 1 0) (outcome (step storing)))) 0 64 4) = [0x44, 0x33, 0x22, 0x11] := by
  decide +kernel
/-- R227: a misaligned address is in %tinfo. -/
theorem test_ld_misaligned :
    let th := (after (.ld g0 .b32 .pad .none .none (.v 1) ⟨.v 2, .con 0, 0⟩) [(2, 66)]).th 0
    th.state = .parked ∧ th.tcause = 5 ∧ th.tinfo = 66 := by decide +kernel
theorem test_fence_logged : (outcome (step (ready (.fence g0 .sc .dev) id))).log.map LogEntry.kind = [.fence, .fence] := by
  decide +kernel
/-- The descriptor of chapter 19 (64 x 64, BF16), written from s8 to s15. -/
def descRegs (cr : Crew) : Crew :=
  ((((cr.setS 8 0x100000).setS 9 0x40).setS 10 0x100).setS 11 0x400040).setS 12 1
theorem test_tdset :
    nth ((outcome (step (ready (.tdset g0 1 8) descRegs))).team 0).tregs 1 =
      0x100400040000001000000004000100000 := by decide +kernel
theorem test_nop : ((after (.nop g0) []).th 0).pc = 0x10010 := by decide +kernel
/-- R24, R25: a vector crew that issues to the matrix engine takes the role trap. -/
theorem test_role :
    let s := (ready (.mwait g0 (.con 0)) id).modGrid 0 fun g => { g with record := { g.record with roles := 2 } }
    (((outcome (step s)).crew 0 0).th 0).tcause = 2 := by decide +kernel
/-- R309, R315: a replay in a device without faults ends at once. -/
theorem test_replay : ((outcome (exec (.replay 0) State.reset)).die 0).replaying = true := by decide +kernel
theorem test_doorbell : ((outcome (exec (.ringwrDoorbell 3 5) State.reset)).fe 3).ringWr = 5 := by decide +kernel
/-- R401: a size that is no power of two rejects the ring. -/
theorem test_ringctl :
    let f := (outcome (exec (.ringctlEnable 0 0x80000003) State.reset)).fe 0
    f.stopped = true ∧ f.pending.length = 1 := by decide +kernel
/-- R474: above the placement limit the die's THERM bit is set. -/
theorem test_thermal : (outcome (exec (.thermalLimit 2 96) State.reset)).therm = 4 := by decide +kernel
/-- R469: bytes go to HBM in ascending order. -/
theorem test_bar2 : Sparse.getList (outcome (exec (.hostBar2Access 256 4 (some 0x01020304) false) State.reset)).mem 256 4 =
    [4, 3, 2, 1] := by decide +kernel
theorem test_bar2_beyond : (outcome (exec (.hostBar2Access 640000000000 1 (some 1) false) State.reset)).mem = [] := by decide +kernel
theorem test_migration_go : ((outcome (exec (.migctlGoTarget 1 2 3) State.reset)).fe 1).migState = .receiving := by decide +kernel

/-- The three registers of the table of R103: uniform, delta8 with deltas 0 to 60, full because 0xF00 exceeds 127. -/
theorem test_storage_modes :
    (storedAs (List.replicate 16 0x3FC00000)).laneBanks = 1 ∧
      (storedAs ((List.range 16).map fun l => BitVec.ofNat 32 (4 * l))).laneBanks = 2 ∧
      (storedAs ((List.range 16).map fun l => BitVec.ofNat 32 (256 * l))).laneBanks = 4 := by decide

/-! ## Witnesses: for each statement with hypotheses, a state and operands that meet all of them. -/

/-- An issue of no instruction, for a state in which nothing issues. -/
def spare : Issue := ⟨0, 0, 0, 0, 0, 0, 0, (info (.nop g0)).get rfl⟩

def issueOf (s : State) (i : Instr) : Issue := (s.issuing i).getD spare

/-- The decidable form of Runs. -/
def canRun (s : State) (i : Instr) : Bool :=
  match s.issuing i with
  | some x => decide (x.t < s.teams.length) && decide (x.c < (s.team x.t).crews.length) && !s.outOfRange x &&
      !s.roleRefused x && (s.sealHit x []).isNone
  | none => false

theorem runs_of {s : State} {i : Instr} (h : canRun s i = true) : Runs s i (issueOf s i) := by
  unfold canRun at h
  split at h
  · rename_i x hx
    have e : issueOf s i = x := by simp [issueOf, hx]
    simp only [Bool.and_eq_true, decide_eq_true_eq, Bool.not_eq_true', Option.isNone_iff_eq_none] at h
    rw [e]
    exact ⟨hx, ⟨h.1.1.1.1, h.1.1.1.2⟩, h.1.1.2, h.1.2, h.2⟩
  · exact absurd h (by simp)

/-- The device at the issue of the instruction, with its only crew changed. -/
def stands (i : Instr) (f : Crew → Crew) : State := (ready i f).enter 0 0

/-- The issue there. -/
abbrev at0 (i : Instr) (f : Crew → Crew) : Issue := issueOf (stands i f) i

theorem witness_IntegerArithmetic_R140 : ∃ s i x d w f, Runs s i x ∧ arithSpec s x i = some (d, w, f) :=
  ⟨_, .iadd g0 .s32 false true (.v 1) (.v 2) (.v 3), at0 _ (put [(2, 0x7FFFFFFF), (3, 1)]), _, _, _,
    runs_of (by decide +kernel), rfl⟩
theorem witness_IntegerArithmetic_R142 : ∃ s i x d w f, Runs s i x ∧ divSpec s x i = some (d, w, f) :=
  ⟨_, .idiv g0 true false (.v 1) (.v 2) (.con 0), at0 _ id, _, _, _, runs_of (by decide +kernel), rfl⟩
theorem witness_LogicMovesShifts_R145 : ∃ s i x d w f, Runs s i x ∧ moveSpec s x i = some (d, w, f) :=
  ⟨_, .isel g0 true (.s 2) (.s 4) (.s 6) 0, at0 _ id, _, _, _, runs_of (by decide +kernel), rfl⟩
theorem witness_LogicMovesShifts_R146 : ∃ s i x d w f, Runs s i x ∧ shiftSpec s x i = some (d, w, f) :=
  ⟨_, .sar g0 false (.v 1) (.v 2) (.v 3), at0 _ (put [(2, 0x80000000), (3, 32)]), _, _, _, runs_of (by decide +kernel), rfl⟩
theorem witness_BitCountsAndFields : ∃ s i x d w, Runs s i x ∧ fieldDst i = some (d, w) :=
  ⟨_, .clz g0 false (.v 1) (.v 2), at0 _ id, _, _, runs_of (by decide +kernel), rfl⟩
theorem witness_CarryAndBorrow :
    (∃ s x, Runs s (.iaddc g0 false (.v 1) (.v 2) (.v 3) 3) x) ∧ ∃ s x, Runs s (.isubb g0 true (.s 2) (.s 4) (.s 6) 3) x :=
  ⟨⟨_, at0 _ id, runs_of (by decide +kernel)⟩, _, at0 _ id, runs_of (by decide +kernel)⟩
theorem witness_ComparesAndPredicates :
    (∃ s i x p, Runs s i x ∧ ∃ a, predSpec s x 0 i = some (p, a)) ∧ ∃ s x, Runs s (.pmovPack g0 (.v 1) 15) x :=
  ⟨⟨_, .icmp g0 .s32 false .lt 15 (.sp .lane) (.con 8), at0 _ id, _, runs_of (by decide +kernel), _, rfl⟩,
    _, at0 _ id, runs_of (by decide +kernel)⟩

/-- The decidable form of Parks. -/
theorem parks_of {s : State} {x : Issue} {cls : Nat} (h : (s.team x.t).status = .resident ∧
    (s.gridOf x.t).record.disposition cls = 0 ∧ (s.crew x.t x.c).inState Thread.inh = 0 ∧
    x.lanes &&& (s.crew x.t x.c).exited = 0 ∧ s.effected x.t x.c x.lanes = true) : Parks s x cls :=
  ⟨h.1, h.2.1, h.2.2.1, h.2.2.2.1, h.2.2.2.2⟩

/-- What an action gives, or `d` where it gives nothing. -/
def got {ε α : Type} (d : α) (r : Except ε α) : α :=
  match r with
  | .ok a => a
  | .error _ => d

def gives {ε α : Type} (r : Except ε α) : Bool :=
  match r with
  | .ok _ => true
  | .error _ => false

theorem got_of {ε α : Type} {d : α} {r : Except ε α} (h : gives r = true) : r = .ok (got d r) := by
  cases r with
  | ok a => rfl
  | error e => cases h

theorem some_getD {α : Type} {o : Option α} (d : α) (h : o.isSome = true) : o = some (o.getD d) := by
  cases o with
  | none => cases h
  | some a => rfl

/-- No lane traps where none enables a flag (R116). -/
theorem quiet_of (s : State) (x : Issue) (r : Nat → Rounded)
    (h : (List.range 16).all (fun l => !(r l).traps ((s.crew x.t x.c).th l).fptrap) = true) : s.Quiet x r := by
  intro l hl _
  have := List.all_eq_true.mp h l (List.mem_range.mpr hl)
  simpa using this


theorem witness_FloatArithmetic_R164 : ∃ s i x d w r, Runs s i x ∧ (∀ l, floatArith s x l i = some (d, w, r l)) ∧ s.Quiet x r :=
  ⟨_, .fadd g0 .f32 .rne 1 (.con 49) (.v 2), at0 _ (put [(2, 0x33800000)]), _, _, _, runs_of (by decide +kernel),
    fun _ => rfl, quiet_of _ _ _ (by decide +kernel)⟩
theorem witness_FloatArithmetic_R172 : ∃ s i x d w r, Runs s i x ∧ (∀ l, floatApprox s x l i = some (d, w, r l)) ∧ s.Quiet x r :=
  ⟨_, .frcp g0 false 1 (.v 2), at0 _ (put [(2, 0)]), _, _, _, runs_of (by decide +kernel),
    fun _ => rfl, quiet_of _ _ _ (by decide +kernel)⟩
theorem witness_FloatArithmetic_R173 : ∃ s i x d w r, Runs s i x ∧ (∀ l, floatConvert s x l i = some (d, w, r l)) ∧ s.Quiet x r :=
  ⟨_, .fcvt g0 (.wide .bf16 .f32 .rne true) 1 (.v 2), at0 _ (put [(2, 0x3DCCCCCD)]), _, _, _, runs_of (by decide +kernel),
    fun _ => rfl, quiet_of _ _ _ (by decide +kernel)⟩
theorem witness_FloatCompare :
    ∃ s g t c p a b x, Runs s (.fcmp g t c p a b) x ∧ s.Quiet x fun l => compareF c (s.fval x t a l 0) (s.fval x t b l 0) :=
  ⟨_, _, _, _, _, _, _, at0 (.fcmp g0 .f32 .lt 2 (.v 1) (.con 49)) (put [(1, 0x7FC00000)]), runs_of (by decide +kernel),
    quiet_of _ _ _ (by decide +kernel)⟩
/-- Lane 0 divides 1 by 0 with divide-by-zero enabled. -/
def divides : State := stands (.fdiv g0 false .rne 1 (.con 49) (.v 2)) fun cr => cr.modTh 0 fun th => { th with fptrap := 2 }
theorem witness_FloatTrapParksLane : ∃ (s : State) (i : Instr) (x : Issue) (d : Fin 768) (w : Bool) (r : Nat → Rounded) (l : Nat),
    Runs s i x ∧ (∀ l, floatArith s x l i = some (d, w, r l)) ∧ Parks s x 0 ∧ (s.gridOf x.t).fe < s.fes.length ∧
    l < 16 ∧ l < (s.crew x.t x.c).threads.length ∧ x.act.getLsbD l = true ∧
    (r l).traps ((s.crew x.t x.c).th l).fptrap = true :=
  ⟨divides, .fdiv g0 false .rne 1 (.con 49) (.v 2), issueOf divides _, _, _, _, 0, runs_of (by decide +kernel),
    fun _ => rfl, parks_of (by decide +kernel), by decide +kernel⟩

/-- Lift a check of the sixteen lanes. -/
theorem all16 {p : Nat → Bool} (h : (List.range 16).all p = true) (l : Nat) (hl : l < 16) : p l = true :=
  List.all_eq_true.mp h l (List.mem_range.mpr hl)

def joinsWait (cr : Crew) : Bool :=
  (List.range 16).all (fun l => !cr.joinDone l) && decide (0 < cr.threads.length) && decide ((cr.th 0).state ≠ .exited) &&
    !decide ((cr.th 0).state = .held ∧ (cr.th 0).holdAt = .join) &&
    decide (cr.matrixTraps (cr.inState fun th => th.state == .held && th.holdAt == .join) = 0)

theorem joinsWait_of {cr : Crew} (h : joinsWait cr = true) : cr.JoinsWait := by
  simp only [joinsWait, Bool.and_eq_true, decide_eq_true_eq, Bool.not_eq_true', decide_eq_false_iff_not] at h
  refine ⟨h.2, fun l hl => ?_, .inr ⟨0, by decide, h.1.1.1.2, h.1.1.2, h.1.2⟩⟩
  simpa using all16 h.1.1.1.1 l hl

/-- The same with lane 15 as the one that is not held. -/
theorem joinsWait_of' {cr : Crew} (h : ((List.range 16).all fun l => !cr.joinDone l) = true ∧ 15 < cr.threads.length ∧
    (cr.th 15).state ≠ .exited ∧ ¬((cr.th 15).state = .held ∧ (cr.th 15).holdAt = .join) ∧
    cr.matrixTraps (cr.inState fun th => th.state == .held && th.holdAt == .join) = 0) : cr.JoinsWait :=
  ⟨h.2.2.2.2, fun l hl => by simpa using all16 h.1 l hl, .inr ⟨15, by decide, h.2.1, h.2.2.1, h.2.2.2.1⟩⟩

theorem plainFall_of {th : Thread} {p : Word64} (h : th.loopSkip = none ∧ th.loops = []) : th.plainFall p :=
  ⟨h.1, fun e he => by rw [h.2] at he; cases he⟩

theorem hasLane_of {cr : Crew} {m : Mask} (h : cr.threads.length = 16 ∧ m.getLsbD 0 = true) : cr.hasLane m :=
  ⟨0, by decide, by rw [h.1]; decide, h.2⟩

def headerAt (im : Image) (p : Word64) : Bool := im.marked p && !(im.header p).isJoin

theorem header_of {im : Image} {p : Word64} (h : headerAt im p = true) : im.plainHeaderAt p := by
  simpa [headerAt, Image.plainHeaderAt] using h

/-- The image of core 0 with two words in its first clause and two more clauses behind it. -/
def longer (i : Instr) (f : Crew → Crew) : State :=
  (stands i f).modCore 0 fun c => { c with images := c.images.map fun im => { im with
    codelen := 56
    words := [nth im.words 0 + 0x200000000000000, nth im.words 1, 0x5278000000000000, plainHeader 0, 0x5278000000000000,
      plainHeader 0, 0x5278000000000000]
    marks := [0, 3, 5] } }

abbrev atLong (i : Instr) (f : Crew → Crew) : Issue := issueOf (longer i f) i

/-- Lanes 0 to 3 branch under p1, the others fall through. -/
def some4 (cr : Crew) : Crew := cr.setP 1 0xFFFF 0x000F

abbrev g1 : Guard := ⟨false, false, 1⟩

theorem witness_BranchesTransferLanes : ∃ (s : State) (i : Instr) (x : Issue) (T : Nat → Word64) (unwind : Bool) (link : Option Dst),
    Runs s i x ∧ branchSpec s x i = some (T, unwind, link) ∧
    (∀ l, l < 16 → x.act.getLsbD l = true → (s.image x.t).plainHeaderAt (T l)) ∧
    (∀ l, l < 16 → x.outside.getLsbD l = true → (s.image x.t).plainHeaderAt ((s.image x.t).nextClause x.header) ∧
      ((s.crew x.t x.c).th l).plainFall ((s.image x.t).nextClause x.header)) ∧
    (s.crew x.t x.c).JoinsWait ∧ (s.crew x.t x.c).hasLane x.lanes ∧ (s.crew x.t x.c).bundle = x.lanes ∧ x.outside ≠ 0 := by
  refine ⟨_, .call g1 (.v 2) 0, at0 _ some4, _, _, _, runs_of (by decide +kernel), rfl, fun _ _ _ => header_of (by decide +kernel),
    fun l hl _ => ⟨header_of (by decide +kernel), ?_, ?_⟩, joinsWait_of (by decide +kernel), hasLane_of (by decide +kernel),
    by decide +kernel⟩
  · have := all16 (p := fun l => decide ((((stands (.call g1 (.v 2) 0) some4).crew 0 0).th l).loopSkip = none)) (by decide +kernel) l hl
    exact of_decide_eq_true this
  · have h := of_decide_eq_true (all16 (p := fun l => decide ((((stands (.call g1 (.v 2) 0) some4).crew 0 0).th l).loops = []))
      (by decide +kernel) l hl)
    intro e he
    have : (((stands (.call g1 (.v 2) 0) some4).crew (at0 (.call g1 (.v 2) 0) some4).t (at0 (.call g1 (.v 2) 0) some4).c).th l).loops = [] := h
    rw [this] at he
    cases he

/-- Every lane holds four loops. -/
def fullLoops (cr : Crew) : Crew :=
  (List.range 16).foldl (fun cr l => cr.modTh l fun th => { th with loops := List.replicate 4 ⟨0, 0, 1⟩ }) cr

theorem witness_LoopPushesAndPops :
    (∃ (s : State) (g : Guard) (a : Opnd) (off : BitVec 20) (x : Issue), Runs s (.loop g a off) x ∧
      s.badLoop x (branchTarget x.header off) = false ∧ (s.image x.t).marked (branchTarget x.header off) = true ∧
      (∀ l, l < 16 → x.act.getLsbD l = true → ((s.crew x.t x.c).th l).loops.length < 4)) ∧
    (∃ (s : State) (g : Guard) (a : Opnd) (off : BitVec 20) (x : Issue), Runs s (.loop g a off) x ∧
      s.badLoop x (branchTarget x.header off) = false ∧ x.act ≠ 0 ∧ Parks s x 3 ∧
      ∀ l, l < 16 → x.act.getLsbD l = true → s.rd32 x.t x.c a l ≠ 0 ∧ 4 ≤ ((s.crew x.t x.c).th l).loops.length) ∧
    ∃ (s : State) (g : Guard) (n : Fin 4) (x : Issue), Runs s (.lbrk g n) x := by
  refine ⟨⟨longer (.loop g0 (.con 0) 5) id, g0, .con 0, 5, atLong _ id, runs_of (by decide +kernel), by decide +kernel,
    by decide +kernel, fun l hl _ => ?_⟩,
    ⟨longer (.loop g0 (.con 1) 5) fullLoops, g0, .con 1, 5, atLong _ fullLoops, runs_of (by decide +kernel), by decide +kernel,
      by decide +kernel, parks_of (by decide +kernel), by decide +kernel⟩,
    stands (.lbrk g0 1) id, g0, 1, at0 _ id, runs_of (by decide +kernel)⟩
  exact of_decide_eq_true (all16 (p := fun l => decide ((((longer (.loop g0 (.con 0) 5) id).crew 0 0).th l).loops.length < 4))
    (by decide +kernel) l hl)

theorem changed_of {cr cr' : Crew} {m : Mask} {f : Nat → Thread → Thread} {b : Mask} (h : cr'.threads.length = cr.threads.length ∧
    (∀ l, l < cr.threads.length → cr'.th l = if m.getLsbD l then f l (cr.th l) else cr.th l) ∧ cr'.bundle = b ∧
    { cr' with threads := cr.threads, bundle := cr.bundle } = cr) : ChangedThreads cr cr' m f b := h

/-- The crew after the instruction itself, before the step moves it on. -/
def crewAfter (i : Instr) (f : Crew → Crew) : Crew := (outcome (exec i (stands i f))).crew 0 0

theorem witness_JoinAndExit :
    (∃ (s : State) (a : Opnd) (x : Issue), Runs s (.join g0 a) x ∧ x.act &&& BitVec.ofNat 16 (s.rd32 x.t x.c a (lowestLane x.act)) = 0) ∧
    (∃ (s : State) (a : Opnd) (x : Issue) (cr : Crew), Runs s (.join g1 a) x ∧
      let set := BitVec.ofNat 16 (s.rd32 x.t x.c a (lowestLane x.act))
      x.act &&& set ≠ 0 ∧ ChangedThreads (s.crew x.t x.c) cr (x.act &&& set)
        (fun _ th => { th with state := .held, holdAt := .join, joinSet := set, awaits := th.awaits })
        ((s.crew x.t x.c).bundle &&& ~~~(x.act &&& set)) ∧ cr.JoinsWait) ∧
    ∃ (s : State) (x : Issue) (cr : Crew), Runs s (.exit g1) x ∧ (s.crew x.t x.c).bundle = x.lanes ∧
      (∀ l, l < 16 → x.outside.getLsbD l = true → (s.image x.t).plainHeaderAt ((s.image x.t).nextClause x.header) ∧
        ((s.crew x.t x.c).th l).plainFall ((s.image x.t).nextClause x.header)) ∧
      (∀ tm ∈ s.teams, ∀ br ∈ tm.bars, br.tset = false ∧ br.teamArr = false) ∧ (∀ k ∈ (s.team x.t).conv, k.state ≠ .armed) ∧
      ChangedThreads (s.crew x.t x.c) cr x.lanes
        (fun l th => if x.act.getLsbD l then { th with state := .exited, loops := [] }
          else { th with state := .active, pc := (s.image x.t).nextClause x.header }) 0 ∧ cr.JoinsWait := by
  refine ⟨⟨stands (.join g0 (.con 0)) id, .con 0, at0 _ id, runs_of (by decide +kernel), by decide +kernel⟩,
    ⟨stands (.join g1 (.con 31)) some4, .con 31, at0 _ some4, crewAfter (.join g1 (.con 31)) some4, runs_of (by decide +kernel),
      by decide +kernel, changed_of (by decide +kernel), joinsWait_of' (by decide +kernel)⟩,
    stands (.exit g1) some4, at0 _ some4, crewAfter (.exit g1) some4, runs_of (by decide +kernel), by decide +kernel,
    fun l hl _ => ⟨header_of (by decide +kernel), ?_⟩, by decide +kernel, by decide +kernel, changed_of (by decide +kernel),
    joinsWait_of' (by decide +kernel)⟩
  have h := all16 (p := fun l => decide ((((stands (.exit g1) some4).crew 0 0).th l).loopSkip = none ∧
    (((stands (.exit g1) some4).crew 0 0).th l).loops = [])) (by decide +kernel) l hl
  exact plainFall_of (of_decide_eq_true h)

/-- The arguments of the grid are there. -/
def argued (i : Instr) : State :=
  (stands i id).modGrid 0 fun g => { g with record := { g.record with args := List.replicate 128 1 } }

theorem witness_ArgumentsAndSpecialReads :
    (∃ (s : State) (g : Guard) (t : ArgTy) (d : Dst) (off : Fin 128) (x : Issue), Runs s (.ldarg g t d off) x ∧
      (s.gridOf x.t).record.args.length = 128 ∧ off.val + ArgTy.bytes t ≤ 128) ∧
    ∃ (s : State) (g : Guard) (d : Dst) (r : SpecReg) (x : Issue), Runs s (.mfs g d r) x :=
  ⟨⟨argued (.ldarg g0 .b64 (.v 2) 120), g0, .b64, .v 2, 120, issueOf (argued (.ldarg g0 .b64 (.v 2) 120)) _,
    runs_of (by decide +kernel), by decide +kernel⟩, _, _, _, _, at0 (.mfs g0 (.v 1) .tid) id, runs_of (by decide +kernel)⟩

theorem witness_SpecialWrites :
    (∃ s r x f, Runs s (.mts g0 r (.v 1)) x ∧ specialWrite s x (.v 1) r = some f ∧ (r = .mflags → (s.crew x.t x.c).counter 3 = 0)) ∧
    (∃ s x, Runs s (.mts g0 .mflags (.v 1)) x ∧ x.act ≠ 0 ∧ (s.crew x.t x.c).counter 3 ≠ 0) ∧
    (∃ s a x, Runs s (.mts g0 (.wctr 6) a) x ∧ s.rd32 x.t x.c a 0 ≤ 63 ∧ a.uniformSrc = true ∧ x.act ≠ 0) ∧
    (∃ s a x, Runs s (.mts g0 (.wctr 7) a) x ∧ s.rd32 x.t x.c a 0 ≤ 63 ∧ a.uniformSrc = true ∧ x.act = 0) ∧
    (∃ s a x, Runs s (.mts g0 (.wctr 6) a) x ∧ 63 < s.rd32 x.t x.c a 0 ∧ x.lanes ≠ 0 ∧ Parks s x 3) ∧
    (∃ s a x, Runs s (.mts g0 (.wctr 5) a) x ∧ specialWrite s x a (.wctr 5) = none ∧ x.act ≠ 0 ∧ Parks s x 4) ∧
    ∃ s a x, Runs s (.mts g0 .tid a) x ∧ specialWrite s x a .tid = none ∧ x.act ≠ 0 ∧ Parks s x 4 :=
  ⟨⟨stands (.mts g0 .mflags (.v 1)) id, .mflags, at0 _ id, _, runs_of (by decide +kernel), rfl, fun _ => by decide +kernel⟩,
    ⟨stands (.mts g0 .mflags (.v 1)) (fun cr => { cr with counted := [⟨1, 3, false⟩] }), at0 _ _, runs_of (by decide +kernel),
      by decide +kernel⟩,
    ⟨stands (.mts g0 (.wctr 6) (.s 1)) (fun cr => cr.setS 1 63), .s 1, at0 _ _, runs_of (by decide +kernel), by decide +kernel⟩,
    ⟨stands (.mts g0 (.wctr 7) (.con 0)) (fun cr => { cr with bundle := 0 }), .con 0, at0 _ _, runs_of (by decide +kernel),
      by decide +kernel⟩,
    ⟨stands (.mts g0 (.wctr 6) (.s 1)) (fun cr => cr.setS 1 64), .s 1, at0 _ _, runs_of (by decide +kernel), by decide +kernel,
      by decide +kernel, parks_of (by decide +kernel)⟩,
    ⟨stands (.mts g0 (.wctr 5) (.con 0)) id, .con 0, at0 _ id, runs_of (by decide +kernel), rfl, by decide +kernel,
      parks_of (by decide +kernel)⟩,
    stands (.mts g0 .tid (.v 1)) id, .v 1, at0 _ id, runs_of (by decide +kernel), rfl, by decide +kernel,
    parks_of (by decide +kernel)⟩

theorem witness_HintsAndWaits :
    (∃ s x, Runs s (.nop g0) x) ∧ (∃ s x, Runs s (.yield ⟨false, true, 15⟩) x ∧ x.act = 0) ∧
    (∃ s a x, Runs s (.waitChild ⟨false, true, 15⟩ a) x ∧ s.rd32 x.t x.c a 0 ≤ 63 ∧ x.act = 0) ∧
    (∃ s x, (∀ l, l < 16 → x.lanes.getLsbD l = true → ((s.crew x.t x.c).th l).pc = x.pc) ∧
      x.pc + 8 ≠ (s.image x.t).nextClause ((s.image x.t).headerOf x.pc) ∧ (s.image x.t).marked (x.pc + 8) = false ∧
      (s.crew x.t x.c).JoinsWait ∧ (s.crew x.t x.c).hasLane x.lanes ∧ x.act ≠ 0 ∧ Runs s (.yield g0) x) ∧
    ∃ s x a, (∀ l, l < 16 → x.lanes.getLsbD l = true → ((s.crew x.t x.c).th l).pc = x.pc) ∧
      x.pc + 8 ≠ (s.image x.t).nextClause ((s.image x.t).headerOf x.pc) ∧ (s.image x.t).marked (x.pc + 8) = false ∧
      (s.crew x.t x.c).JoinsWait ∧ (s.crew x.t x.c).hasLane x.lanes ∧ x.act ≠ 0 ∧ Runs s (.waitChild g0 a) x ∧
      s.rd32 x.t x.c a 0 ≤ 63 ∧ a.uniformSrc = true := by
  refine ⟨⟨_, at0 _ id, runs_of (by decide +kernel)⟩, ⟨_, at0 _ id, runs_of (by decide +kernel), by decide +kernel⟩,
    ⟨stands (.waitChild _ (.con 5)) id, .con 5, at0 _ id, runs_of (by decide +kernel), by decide +kernel⟩,
    ⟨longer (.yield g0) id, atLong _ id, fun l hl _ => ?_, by decide +kernel, by decide +kernel, joinsWait_of (by decide +kernel),
      hasLane_of (by decide +kernel), by decide +kernel, runs_of (by decide +kernel)⟩,
    longer (.waitChild g0 (.con 0)) id, atLong _ id, .con 0, fun l hl _ => ?_, by decide +kernel, by decide +kernel,
    joinsWait_of (by decide +kernel), hasLane_of (by decide +kernel), by decide +kernel, runs_of (by decide +kernel),
    by decide +kernel⟩
  · exact of_decide_eq_true (all16 (p := fun l => decide ((((longer (.yield g0) id).crew 0 0).th l).pc = 0x10008)) (by decide +kernel) l hl)
  · exact of_decide_eq_true (all16 (p := fun l => decide ((((longer (.waitChild g0 (.con 0)) id).crew 0 0).th l).pc = 0x10008))
      (by decide +kernel) l hl)

theorem witness_SoftwareTrapsAndBreakpoints :
    (∃ s cls code x, Runs s (.trap g0 cls code) x ∧ x.act ≠ 0 ∧ Parks s x cls.val) ∧
    ∃ s code x, Runs s (.brk g0 code) x ∧ x.act ≠ 0 ∧ s.effected x.t x.c x.lanes = true :=
  ⟨⟨stands (.trap g0 13 0xFFFF) id, 13, 0xFFFF, at0 _ id, runs_of (by decide +kernel), by decide +kernel, parks_of (by decide +kernel)⟩,
    stands (.brk g0 0) id, 0, at0 _ id, runs_of (by decide +kernel), by decide +kernel⟩

/-- Class 3 goes to the handler. -/
def handling (i : Instr) (f : Crew → Crew) : State :=
  (stands i f).modGrid 0 fun g => { g with record := { g.record with disp := 0x40 } }

theorem witness_TrapEntry :
    (∃ (s : State) (t c : Nat) (cls : Fin 14) (lanes : Mask),
      s.hasCrew t c ∧ (s.team t).status = .resident ∧ (s.gridOf t).record.disposition cls.val = 1 ∧ cls.val ≠ 12 ∧
      (s.crew t c).long = none ∧
      lanes &&& (s.crew t c).inState (fun th => th.state == .active) ≠ 0 ∧ (s.crew t c).inState Thread.inh = 0) ∧
    ∃ (s : State) (t c : Nat) (lanes : Mask), s.hasCrew t c ∧ (s.team t).status = .resident ∧ (s.crew t c).long = none ∧
      lanes &&& (s.crew t c).inState (fun th => th.state == .active) ≠ 0 ∧
      ∀ l, l < 16 → (lanes &&& (s.crew t c).inState fun th => th.state == .active).getLsbD l = true →
        ((s.crew t c).th l).inh = true :=
  ⟨⟨handling (.nop g0) id, 0, 0, 3, 1, ⟨by decide +kernel, by decide +kernel⟩, by decide +kernel⟩,
    stands (.nop g0) fun cr => cr.modTh 0 fun th => { th with inh := true }, 0, 0, 1, ⟨by decide +kernel, by decide +kernel⟩,
    by decide +kernel⟩

/-- Lane 0 runs the handler; p1 names it alone. -/
def inHandler (cr : Crew) : Crew := (cr.modTh 0 fun th => { th with inh := true, hpc := 0x10008 }).setP 1 0xFFFF 1

theorem witness_ReturnFromHandler : ∃ (s : State) (g : Guard) (x : Issue), Runs s (.rft g) x ∧
    (∀ l, l < 16 → x.act.getLsbD l = true →
      ((s.crew x.t x.c).th l).inh = true ∧ (s.image x.t).inside ((s.crew x.t x.c).th l).hpc = true ∧
        l < (s.crew x.t x.c).threads.length) ∧
    (s.crew x.t x.c).hasLane x.act ∧ (s.crew x.t x.c).JoinsWait :=
  ⟨stands (.rft g1) inHandler, g1, at0 _ inHandler, runs_of (by decide +kernel), by decide +kernel, hasLane_of (by decide +kernel),
    joinsWait_of (by decide +kernel)⟩

/-- A second crew of the team, which has not arrived. -/
def twoCrews (i : Instr) : State :=
  (stands i id).modTeam 0 fun tm => { tm with crews := tm.crews ++ [Crew.start 0x10008 0] }

theorem witness_BarrierArrival :
    (∃ s x, x.act ≠ 0 ∧ (s.crew x.t x.c).hasLane x.act ∧ x.c < 64 ∧ Runs s (.bar g0 false 3 (.con 1)) x ∧
      s.rd32 x.t x.c (.con 1) (lowestLane x.act) ≤ (s.team x.t).crews.length ∧ 3 < (s.team x.t).bars.length ∧
      (nth (s.team x.t).bars 3).arrived.getLsbD x.c = false ∧ (nth (s.team x.t).bars 3).tset = false ∧
      1 ≤ BitVec.popcount (setBit (nth (s.team x.t).bars 3).arrived x.c) ∧ (s.team x.t).guard = none ∧
      (s.gridOf x.t).record.disposition 10 ≠ 2 ∧ (s.gridOf x.t).record.disposition 0 ≠ 2 ∧ s.imageHere x.t = true ∧
      ∀ c, c < (s.team x.t).crews.length → s.clocksHold x.t c = true) ∧
    (∃ s x, x.act ≠ 0 ∧ (s.crew x.t x.c).hasLane x.act ∧ x.c < 64 ∧ Runs s (.bar g0 true 0 (.con 2)) x ∧
      s.rd32 x.t x.c (.con 2) (lowestLane x.act) ≤ (s.team x.t).crews.length ∧ 0 < (s.team x.t).bars.length ∧
      s.sealReady x.t x.c = true ∧ (nth (s.team x.t).bars 0).arrived.getLsbD x.c = false ∧
      (nth (s.team x.t).bars 0).tset = false ∧ BitVec.popcount (setBit (nth (s.team x.t).bars 0).arrived x.c) < 2 ∧
      2 ≤ BitVec.popcount ((nth (s.team x.t).bars 0).arrived ||| setBit (s.team x.t).liveCrews x.c)) ∧
    (∃ s x, x.act ≠ 0 ∧ (s.crew x.t x.c).hasLane x.act ∧ x.c < 64 ∧ Runs s (.cbar g0) x ∧ 4 < (s.team x.t).bars.length ∧
      (s.team x.t).status = .resident ∧ (nth (s.team x.t).bars 4).arrived.getLsbD x.c = false ∧
      (nth (s.team x.t).bars 4).tset = false ∧
      setBit (s.team x.t).liveCrews x.c &&& ~~~setBit (nth (s.team x.t).bars 4).arrived x.c ≠ 0) ∧
    ∃ s x, x.act ≠ 0 ∧ (s.crew x.t x.c).hasLane x.act ∧ x.c < 64 ∧ Runs s (.cbar g0) x ∧ 4 < (s.team x.t).bars.length ∧
      (s.team x.t).status = .resident ∧ (nth (s.team x.t).bars 4).arrived.getLsbD x.c = false ∧
      (nth (s.team x.t).bars 4).tset = false ∧
      setBit (s.team x.t).liveCrews x.c &&& ~~~setBit (nth (s.team x.t).bars 4).arrived x.c = 0 ∧ s.cohort x.t = [x.t] ∧
      (s.team x.t).guard = none ∧ (s.gridOf x.t).record.disposition 10 ≠ 2 ∧
      (s.gridOf x.t).record.disposition 0 ≠ 2 ∧ s.imageHere x.t = true ∧
      ∀ c, c < (s.team x.t).crews.length → s.clocksHold x.t c = true :=
  ⟨⟨stands (.bar g0 false 3 (.con 1)) id, at0 _ id, by decide +kernel, hasLane_of (by decide +kernel), by decide +kernel,
      runs_of (by decide +kernel), by decide +kernel⟩,
    ⟨twoCrews (.bar g0 true 0 (.con 2)), issueOf (twoCrews (.bar g0 true 0 (.con 2))) (.bar g0 true 0 (.con 2)), by decide +kernel,
      hasLane_of (by decide +kernel), by decide +kernel, runs_of (by decide +kernel), by decide +kernel⟩,
    ⟨twoCrews (.cbar g0), issueOf (twoCrews (.cbar g0)) (.cbar g0), by decide +kernel, hasLane_of (by decide +kernel),
      by decide +kernel, runs_of (by decide +kernel), by decide +kernel⟩,
    stands (.cbar g0) id, at0 _ id, by decide +kernel, hasLane_of (by decide +kernel), by decide +kernel,
    runs_of (by decide +kernel), by decide +kernel⟩

/-- Barrier 0 with its target set to 0 by an earlier arrival. -/
def barSet (i : Instr) : State :=
  (stands i id).modTeam 0 fun tm => { tm with bars := upd tm.bars 0 fun b => { b with tset := true } }

theorem witness_ControlTraps :
    (∃ s a off x, Runs s (.brx g0 a off) x ∧ x.act = x.lanes ∧ x.lanes ≠ 0 ∧ (s.crew x.t x.c).bundle = x.lanes ∧
      (∀ l, l < 16 → x.act.getLsbD l = true → (s.image x.t).tableCount (branchTarget x.header off) ≤ s.rd32 x.t x.c a l) ∧
      Parks s x 9 ∧ (s.crew x.t x.c).JoinsWait) ∧
    (∃ s a off x, Runs s (.loop g0 a off) x ∧ s.badLoop x (branchTarget x.header off) = true ∧ x.lanes ≠ 0 ∧ Parks s x 3) ∧
    (∃ s x, Runs s (.rft g0) x ∧ x.act ≠ 0 ∧ Parks s x 3 ∧ (s.crew x.t x.c).JoinsWait) ∧
    (∃ s id b x, Runs s (.bar g0 false id b) x ∧ x.act ≠ 0 ∧
      (s.team x.t).crews.length < s.rd32 x.t x.c b (lowestLane x.act) ∧ Parks s x 3) ∧
    ∃ s id b x, Runs s (.bar g0 false id b) x ∧ x.act ≠ 0 ∧
      s.rd32 x.t x.c b (lowestLane x.act) ≤ (s.team x.t).crews.length ∧
      (nth (s.team x.t).bars id.val).arrived.getLsbD x.c = false ∧ (nth (s.team x.t).bars id.val).tset = true ∧
      (nth (s.team x.t).bars id.val).target ≠ s.rd32 x.t x.c b (lowestLane x.act) ∧ Parks s x 10 :=
  ⟨⟨stands (.brx g0 (.con 0) 100) id, .con 0, 100, at0 _ id, runs_of (by decide +kernel), by decide +kernel, by decide +kernel,
      by decide +kernel, by decide +kernel, parks_of (by decide +kernel), joinsWait_of (by decide +kernel)⟩,
    ⟨stands (.loop g0 (.con 1) 0) id, .con 1, 0, at0 _ id, runs_of (by decide +kernel), by decide +kernel, by decide +kernel,
      parks_of (by decide +kernel)⟩,
    ⟨stands (.rft g0) id, at0 _ id, runs_of (by decide +kernel), by decide +kernel, parks_of (by decide +kernel),
      joinsWait_of (by decide +kernel)⟩,
    ⟨stands (.bar g0 false 0 (.con 2)) id, 0, .con 2, at0 _ id, runs_of (by decide +kernel), by decide +kernel, by decide +kernel,
      parks_of (by decide +kernel)⟩,
    barSet (.bar g0 false 0 (.con 1)), 0, .con 1, issueOf (barSet (.bar g0 false 0 (.con 1))) _, runs_of (by decide +kernel),
    by decide +kernel, by decide +kernel, by decide +kernel, by decide +kernel, by decide +kernel, parks_of (by decide +kernel)⟩

/-- w4 stands at its bound. -/
def crowded (cr : Crew) : Crew := { cr with counted := List.replicate 63 ⟨1, 4, false⟩ }

/-- A crossbar result in flight. -/
def crossing : State := { stands (.nop g0) id with cross := [⟨7, 0, 0, .v 5, true, [(0, 1), (15, 2)]⟩] }

theorem witness_CrossLaneIssue :
    (∃ s i x d w, Runs s i x ∧ crossDst i = some (d, w) ∧ x.act = 0) ∧
    (∃ s i x d w, Runs s i x ∧ crossDst i = some (d, w) ∧ x.act ≠ 0 ∧ 63 ≤ (s.crew x.t x.c).counter 4) ∧
    (∃ s i x d w, Runs s i x ∧ crossDst i = some (d, w) ∧ x.act ≠ 0 ∧ (s.crew x.t x.c).counter 4 < 63 ∧ crossFloat i = false) ∧
    ∃ s i x d, Runs s i x ∧ crossDst i = some (d, false) ∧ crossFloat i = true ∧ x.act ≠ 0 ∧
      (s.crew x.t x.c).counter 4 < 63 ∧ ∀ l, l < 16 → x.act.getLsbD l = true → ((s.crew x.t x.c).th l).fptrap = 0 :=
  ⟨⟨stands (.bfly g1 false 5 (.v 4) (.con 1) (.con 0)) id, .bfly g1 false 5 (.v 4) (.con 1) (.con 0), at0 _ id, _, _,
      runs_of (by decide +kernel), rfl, by decide +kernel⟩,
    ⟨stands (.xbar g0 5 (.v 4) 1 (.con 0)) crowded, .xbar g0 5 (.v 4) 1 (.con 0), at0 _ crowded, _, _,
      runs_of (by decide +kernel), rfl, by decide +kernel⟩,
    ⟨stands (.shfl g0 true .up 6 (.v 4) (.con 15) (.con 0)) id, .shfl g0 true .up 6 (.v 4) (.con 15) (.con 0), at0 _ id, _, _,
      runs_of (by decide +kernel), rfl, by decide +kernel⟩,
    stands (.redux g0 .fadd (.s 7) (.v 3)) id, .redux g0 .fadd (.s 7) (.v 3), at0 _ id, _, runs_of (by decide +kernel), rfl, rfl,
    by decide +kernel⟩

theorem witness_CrossLaneResultWritten : ∃ (s : State) (op : Nat) (k : CrossOp), s.cross.find? (fun j => j.id == op) = some k ∧
    s.hasCrew k.team k.crew ∧ (k.vals.map Prod.fst).Nodup ∧ ∀ p ∈ k.vals, p.1 < 16 :=
  ⟨crossing, 7, _, rfl, ⟨by decide +kernel, by decide +kernel⟩, by decide⟩

theorem witness_VotesAndRandomBlocks_votes :
    (∃ s d x, Runs s (.vote g0 (.mask d) 2) x) ∧ (∃ s d x, Runs s (.vote g0 (.count d) 2) x) ∧
    (∃ s d k x, Runs s (.vote g0 (.quorum d k) 2) x ∧ s.rd32 x.t x.c k 0 ≤ 31) ∧ ∃ s d x, Runs s (.vote g0 (.agree d) 2) x :=
  ⟨⟨_, _, at0 (.vote g0 (.mask (.v 1)) 2) id, runs_of (by decide +kernel)⟩,
    ⟨_, _, at0 (.vote g0 (.count (.s 1)) 2) id, runs_of (by decide +kernel)⟩,
    ⟨stands (.vote g0 (.quorum 1 (.con 31)) 2) id, 1, .con 31, at0 _ id, runs_of (by decide +kernel), by decide +kernel⟩,
    _, _, at0 (.vote g0 (.agree 15) 2) id, runs_of (by decide +kernel)⟩

theorem witness_VotesAndRandomBlocks_random :
    (∃ s x, Runs s (.rand g0 true true 8 (.v 2) (.con 5)) x) ∧ ∃ s x, Runs s (.randNext g0 false false 767 (.con 0)) x :=
  ⟨⟨_, at0 _ id, runs_of (by decide +kernel)⟩, _, at0 _ id, runs_of (by decide +kernel)⟩

/-! ### Memory -/

/-- A store to the scratchpad of the last four bytes. -/
abbrev stPad : Instr := .st g0 .b32 .pad .none .none (.v 1) ⟨.v 2, .con 0, 0⟩

/-- What lane `l` of it is checked for. -/
def padCheck (l : Nat) : Except (Nat × Nat) Word64 :=
  (stands stPad (put [(2, 65532)])).checkAddr 0 0 .pad 4 ((stands stPad (put [(2, 65532)])).formed 0 0 .pad (.v 2) (.con 0) 0 l) l

/-- What lane `l` of a gather of zeros is checked for at element `j`. -/
def gatherCheck (l j : Nat) : Except (Nat × Nat) Word64 :=
  (stands (.ldx g0 .b32 .pad .none 64 (.con 0) (.v 8) 15) id).checkAddr 0 0 .pad 4
    ((stands (.ldx g0 .b32 .pad .none 64 (.con 0) (.v 8) 15) id).formed 0 0 .pad (.con 0) (dstAt (.v 8) j) 0 l) l

/-- A gather of sixteen elements, all from address 0 of the scratchpad. -/
abbrev gather : Instr := .ldx g0 .b32 .pad .none 64 (.con 0) (.v 8) 15

theorem witness_MemoryInstructionsIssue :
    (∃ (s : State) (i : Instr) (x : Issue) (r : MemAsk) (addr : Nat → Word64) (ctr : Nat),
      Runs s i x ∧ memAsk s x i = some r ∧ x.act ≠ 0 ∧ r.kind.counter = some ctr ∧
      (∀ l ∈ r.lanes x, s.checkAddr x.t x.c r.aper r.size (r.addr l) l = .ok (addr l)) ∧
      s.logUsed (s.team x.t).core < 64 ∧ (s.crew x.t x.c).counter ctr < 63 ∧ (∀ e ∈ s.log, e.id < s.nextId) ∧
      (s.crew x.t x.c).long = none) ∧
    ∃ (s : State) (i : Instr) (x : Issue) (k : MemKind) (ap : Aper) (n ctr : Nat) (form : Nat → Nat → Nat)
      (addr : Nat → Nat → Word64), Runs s i x ∧ elemAsk s x i = some (k, ap, n, form) ∧ x.act ≠ 0 ∧ k.counter = some ctr ∧
      (∀ l ∈ lanesOf x.act, ∀ j, j < k.count → s.checkAddr x.t x.c ap n (form l j) l = .ok (addr l j)) ∧
      (∀ l ∈ lanesOf x.act, ((s.crew x.t x.c).th l).pix = 0) ∧ (s.crew x.t x.c).long = none ∧
      s.logUsed (s.team x.t).core < 64 ∧ (s.crew x.t x.c).counter ctr < 63 ∧ ∀ e ∈ s.log, e.id < s.nextId := by
  refine ⟨⟨stands stPad (put [(2, 65532)]), stPad, at0 _ _, _, fun l => got 0 (padCheck l), 1, runs_of (by decide +kernel), rfl,
      by decide +kernel, rfl, fun l hl => ?_, by decide +kernel⟩,
    stands gather id, gather, at0 _ id, _, .pad, 4, 0, _, fun l j => got 0 (gatherCheck l j), runs_of (by decide +kernel), rfl,
    by decide +kernel, rfl, fun l hl j hj => ?_, by decide +kernel⟩
  · have e : (List.range 16).all (fun l => gives (padCheck l)) = true ∧
        lanesOf (at0 stPad (put [(2, 65532)])).act = List.range 16 := by decide +kernel
    have hl : l ∈ lanesOf (at0 stPad (put [(2, 65532)])).act := hl
    rw [e.2] at hl
    exact got_of (all16 (p := fun l => gives (padCheck l)) e.1 l (List.mem_range.mp hl))
  · have e : (List.range 16).all (fun l => (List.range 16).all fun j => gives (gatherCheck l j)) = true ∧
        lanesOf (at0 gather id).act = List.range 16 := by decide +kernel
    rw [e.2] at hl
    exact got_of (all16 (p := fun j => gives (gatherCheck l j)) (all16 e.1 l (List.mem_range.mp hl)) j hj)

theorem witness_MisalignedAccessTraps : ∃ (s : State) (i : Instr) (x : Issue) (r : MemAsk), Runs s i x ∧ memAsk s x i = some r ∧
    r.once = false ∧ x.act ≠ 0 ∧ (∀ l, l < 16 → x.act.getLsbD l = true → r.addr l % r.size ≠ 0) ∧ Parks s x 5 ∧
    (s.crew x.t x.c).long = none ∧ ∀ e ∈ s.log, e.id < s.nextId :=
  ⟨stands (.st g0 .b32 .pad .none .none (.v 1) ⟨.con 1, .con 0, 0⟩) id, .st g0 .b32 .pad .none .none (.v 1) ⟨.con 1, .con 0, 0⟩,
    at0 _ id, _, runs_of (by decide +kernel), rfl, rfl, by decide +kernel, by decide +kernel, parks_of (by decide +kernel),
    by decide +kernel⟩

/-- One lane's access in the operand log. -/
def accAt (st : AccStatus) : LaneAcc := ⟨0, 0, 64, 7, 9, 0, false, .none, .none, st, [], [], false, 0, false⟩
def entryAt (k : MemKind) (st : AccStatus) : LogEntry := ⟨0, 0, 0, 0, 0x10008, 0, k, false, 1, [accAt st], false⟩
def logged (k : MemKind) (st : AccStatus) : State := { stands (.nop g0) id with log := [entryAt k st], nextId := 1 }

theorem may_pad (k : MemKind) (o : Nat) (h : (logged k (.ready (.spad 0 o))).canPerform (entryAt k (.ready (.spad 0 o)))
      (accAt (.ready (.spad 0 o))) = true)
    (r : (logged k (.ready (.spad 0 o))).releaseWait (entryAt k (.ready (.spad 0 o))) (accAt (.ready (.spad 0 o))) (.spad 0 o) = none)
    (m : (logged k (.ready (.spad 0 o))).mapped (entryAt k (.ready (.spad 0 o))) (accAt (.ready (.spad 0 o))) (.spad 0 o) = false)
    (n : (logged k (.ready (.spad 0 o))).stagedAhead (entryAt k (.ready (.spad 0 o))) (accAt (.ready (.spad 0 o))) (.spad 0 o) =
      false) :
    MayPerform (logged k (.ready (.spad 0 o))) 0 0 (entryAt k (.ready (.spad 0 o))) (accAt (.ready (.spad 0 o))) (.spad 0 o) where
  entry := rfl
  acc := rfl
  ready := rfl
  free := h
  noWait := r
  unmapped := m
  ahead := n
  going := rfl
  here := by show 0 < (stands (.nop g0) id).teams.length; decide +kernel

theorem witness_LoadPerformed :
    (∃ (s : State) (id lane : Nat) (e : LogEntry) (a : LaneAcc) (t o : Nat) (sz : MSize) (d : Fin 768),
      MayPerform s id lane e a (.spad t o) ∧ e.kind = .ld sz (.v d) ∧ s.hasCrew e.team e.crew ∧ lane < 16) ∧
    ∃ (s : State) (id lane : Nat) (e : LogEntry) (a : LaneAcc) (pa : Nat) (d : Fin 768),
      MayPerform s id lane e a (.phys pa) ∧ e.kind = .ld .b32 (.v d) ∧ s.hasCrew e.team e.crew ∧ lane < 16 ∧
      ∀ r ∈ (s.core e.core).rcache, r.line ∉ linesAt pa 4 :=
  ⟨⟨_, 0, 0, _, _, 0, 64, .s8, 5, may_pad (.ld .s8 (.v 5)) 64 (by decide +kernel) (by decide +kernel) (by decide +kernel) (by decide +kernel),
      rfl,
      ⟨by decide +kernel, by decide +kernel⟩, by decide⟩,
    logged (.ld .b32 (.v 5)) (.ready (.phys 256)), 0, 0, entryAt _ _, accAt _, 256, 5,
    ⟨rfl, rfl, rfl, by decide +kernel, by decide +kernel, by decide +kernel, by decide +kernel, rfl, by decide +kernel⟩,
    rfl, ⟨by decide +kernel, by decide +kernel⟩, by decide, by decide +kernel⟩

theorem witness_StoreAndAtomicPerformed :
    (∃ (s : State) (id lane : Nat) (e : LogEntry) (a : LaneAcc) (p : Place) (sz : MSize), MayPerform s id lane e a p ∧ e.kind = .st sz) ∧
    ∃ (s : State) (id lane : Nat) (e : LogEntry) (a : LaneAcc) (p : Place) (op : AOp) (t : ATy) (d : Fin 768),
      MayPerform s id lane e a p ∧ (e.kind = .atom op t (.v d) ∨ e.kind = .red op t) ∧ s.hasCrew e.team e.crew ∧
      lane < 16 ∧ op ≠ .fadd ∧ atomTypes op t = true ∧ a.data.toNat < 256 ^ ATy.bytes t ∧ a.data2.toNat < 256 ^ ATy.bytes t :=
  ⟨⟨_, 0, 0, _, _, _, .b64, may_pad (.st .b64) 64 (by decide +kernel) (by decide +kernel) (by decide +kernel) (by decide +kernel), rfl⟩,
    _, 0, 0, _, _, _, .cas, .b32, 5, may_pad (.atom .cas .b32 (.v 5)) 64 (by decide +kernel) (by decide +kernel) (by decide +kernel)
      (by decide +kernel),
    .inl rfl, ⟨by decide +kernel, by decide +kernel⟩, by decide, by decide, by decide, by decide⟩

theorem witness_FencesAndSeals :
    (∃ s x, Runs s (.fence g1 .ar .team) x ∧ x.act = 0) ∧ (∃ s x, Runs s (.fence g0 .ar .none) x ∧ x.act ≠ 0) ∧
    (∃ s x, Runs s (.sealOp g1 false) x ∧ x.act = 0) ∧
    (∃ s x, Runs s (.sealOp g0 false) x ∧ x.act ≠ 0 ∧ s.sealReady x.t x.c = false) ∧
    ∃ s x, Runs s (.sealOp g0 true) x ∧ x.act ≠ 0 ∧ s.sealReady x.t x.c = true :=
  ⟨⟨_, at0 _ id, runs_of (by decide +kernel), by decide +kernel⟩, ⟨_, at0 _ id, runs_of (by decide +kernel), by decide +kernel⟩,
    ⟨_, at0 _ id, runs_of (by decide +kernel), by decide +kernel⟩,
    ⟨stands (.sealOp g0 false) fun cr => { cr with outs := [⟨9, [.v 3], some 2, 0⟩] }, at0 _ _, runs_of (by decide +kernel), by decide +kernel⟩,
    _, at0 (.sealOp g0 true) id, runs_of (by decide +kernel), by decide +kernel⟩

/-- The grid is ordered. -/
def ordered (i : Instr) (f : Crew → Crew) : State :=
  (stands i f).modGrid 0 fun g => { g with record := { g.record with mode := 1 } }

abbrev zeroOp : MemOp := ⟨.con 0, .con 0, 0⟩

theorem witness_CacheAndOwnership :
    (∃ s x, Runs s (.prefetch g0 true ⟨.v 2, .con 0, 0⟩) x) ∧ (∃ s x, Runs s (.cinv g1 none) x ∧ x.act = 0) ∧
    (∃ s x, Runs s (.cinv g0 none) x ∧ x.act ≠ 0 ∧ (s.crew x.t x.c).counter 1 < 63 ∧ ∀ e ∈ s.log, e.id < s.nextId) ∧
    (∃ (s : State) (e : LogEntry) (a : LaneAcc), s.logEntry 0 = some e ∧ e.acc 0 = some a ∧ e.kind = .cinv ∧ a.parked = false ∧
      a.status = .ready (.guard 0 false 0) ∧ s.canPerform e a = true) ∧
    (∃ s x, x.act ≠ 0 ∧ (∀ l, l < 16 → x.act.getLsbD l = true → globalAddr (s.formed x.t x.c .generic (.con 0) (.con 0) 0 l) = true ∧
        s.formed x.t x.c .generic (.con 0) (.con 0) 0 l < 2 ^ 56) ∧
      (s.crew x.t x.c).counter 1 < 63 ∧ (∀ e ∈ s.log, e.id < s.nextId) ∧ Runs s (.cinv g0 (some zeroOp)) x) ∧
    (∃ s x, x.act ≠ 0 ∧ (∀ l, l < 16 → x.act.getLsbD l = true → globalAddr (s.formed x.t x.c .generic (.con 0) (.con 0) 0 l) = true ∧
        s.formed x.t x.c .generic (.con 0) (.con 0) 0 l < 2 ^ 56) ∧
      (s.crew x.t x.c).counter 1 < 63 ∧ (∀ e ∈ s.log, e.id < s.nextId) ∧ Runs s (.cwb g0 zeroOp) x) ∧
    (∃ s x, Runs s (.own g0 true 0 (.con 1)) x ∧ s.rd32 x.t x.c (.con 1) 0 ≤ 65536 ∧ windowInfo (s.rd64 x.t x.c (.s 0) 0) = none ∧
      (s.gridOf x.t).record.ord = false) ∧
    ∃ s x, Runs s (.own g0 false 0 (.con 1)) x ∧ s.rd32 x.t x.c (.con 1) 0 ≤ 65536 ∧ windowInfo (s.rd64 x.t x.c (.s 0) 0) = none ∧
      (s.gridOf x.t).record.ord = true ∧ s.mapPending x.t s.nextAcc = false ∧ x.act ≠ 0 ∧ (s.team x.t).grid < s.grids.length :=
  ⟨⟨_, at0 _ id, runs_of (by decide +kernel)⟩, ⟨_, at0 _ id, runs_of (by decide +kernel), by decide +kernel⟩,
    ⟨_, at0 _ id, runs_of (by decide +kernel), by decide +kernel⟩,
    ⟨logged .cinv (.ready (.guard 0 false 0)), entryAt _ _, accAt _, rfl, rfl, rfl, rfl, rfl, by decide +kernel⟩,
    ⟨_, at0 (.cinv g0 (some zeroOp)) id, by decide +kernel, by decide +kernel, by decide +kernel, by decide +kernel,
      runs_of (by decide +kernel)⟩,
    ⟨_, at0 (.cwb g0 zeroOp) id, by decide +kernel, by decide +kernel, by decide +kernel, by decide +kernel, runs_of (by decide +kernel)⟩,
    ⟨stands (.own g0 true 0 (.con 1)) id, at0 _ id, runs_of (by decide +kernel), by decide +kernel⟩,
    ordered (.own g0 false 0 (.con 1)) id, issueOf (ordered (.own g0 false 0 (.con 1)) id) _, runs_of (by decide +kernel),
    by decide +kernel⟩

/-- The grid is firmware's. -/
def firmware (i : Instr) (f : Crew → Crew) : State := (stands i f).modGrid 0 fun g => { g with origin := .firmware }

/-- Beside it a second team of a small grid. -/
def twoTeams (i : Instr) (st : TeamStatus) : State :=
  let s := firmware i fun cr => cr.setS 2 1
  let s := s.modGrid 0 fun g => { g with
    record := { g.record with partition := 4244 }, needs := { g.needs with vregs := 16, spadb := 0, atiles := 0 } }
  { s with teams := s.teams ++ [{ s.team 0 with status := st, index := 1, tilesAt := .area }] }

/-- A check of every entry of a list and of what lies past its end. -/
theorem nth_idx {α : Type} [Inhabited α] {l : List α} {p : Nat → α → Bool}
    (h : (List.range l.length).all (fun i => p i (nth l i)) = true) (d : ∀ i, p i default = true) (i : Nat) : p i (nth l i) = true := by
  rcases Nat.lt_or_ge i l.length with k | k
  · exact List.all_eq_true.mp h i (List.mem_range.mpr k)
  · rw [nth_beyond k]; exact d i

theorem longs_of {s : State} {t : Nat}
    (h : (List.range (s.team t).crews.length).all (fun c => (nth (s.team t).crews c).long == none) = true) (c : Nat) :
    (s.crew t c).long = none := by
  have := nth_idx (p := fun _ (cr : Crew) => cr.long == none) h (fun _ => rfl) c
  simpa [State.crew] using this

theorem witness_PrivilegedInstructions :
    (∃ s i x, Runs s i x ∧ isPrivileged i = true ∧ x.act ≠ 0 ∧ (s.gridOf x.t).origin ≠ .firmware ∧ Parks s x 4) ∧
    (∃ s x, x.act ≠ 0 ∧ (s.gridOf x.t).origin = .firmware ∧ Runs s (.hlt g0) x) ∧
    (∃ s x, x.act ≠ 0 ∧ (s.gridOf x.t).origin = .firmware ∧ Runs s (.accsw g0) x) ∧
    (∃ s x a b t w, x.act ≠ 0 ∧ (s.gridOf x.t).origin = .firmware ∧ Runs s (.ctxload g0 a b) x ∧
      s.rd32 x.t x.c b (lowestLane x.act) = t ∧ t < s.teams.length ∧ t ≠ x.t ∧ (s.team t).status = .saved ∧
      (s.gridOf t).record.coop = false ∧ s.backUnitOf t = some w ∧ w.members = [(t, (s.team t).index)] ∧
      (s.placeUnit w (s.team x.t).core).isSome = true) ∧
    (∃ s x a b, x.act ≠ 0 ∧ (s.gridOf x.t).origin = .firmware ∧ Runs s (.ctxsave g0 a b) x ∧
      s.rd32 x.t x.c b (lowestLane x.act) = x.t) ∧
    ∃ s x a b t, x.act ≠ 0 ∧ (s.gridOf x.t).origin = .firmware ∧ Runs s (.ctxsave g0 a b) x ∧
      s.rd32 x.t x.c b (lowestLane x.act) = t ∧ t < s.teams.length ∧ t ≠ x.t ∧ (s.team t).status = .resident ∧
      (∀ k, k < s.teams.length → k ≠ t → s.takesAlong t k = false) ∧
      (s.modTeam t fun tm => { tm with saveAt := s.rd64 x.t x.c (dstOpnd a) (lowestLane x.act), saving := true }).saveReady t = true ∧
      (∀ e ∈ s.log, e.team ≠ t) ∧ (∀ k ∈ s.copies, k.team ≠ t) ∧ (∀ m ∈ s.mops, m.team ≠ t) ∧ (∀ k ∈ s.tasks, k.team ≠ t) ∧
      ∀ c, (s.crew t c).long = none :=
  ⟨⟨stands (.hlt g0) id, .hlt g0, at0 _ id, runs_of (by decide +kernel), rfl, by decide +kernel, by decide +kernel,
      parks_of (by decide +kernel)⟩,
    ⟨firmware (.hlt g0) id, issueOf (firmware (.hlt g0) id) (.hlt g0), by decide +kernel, by decide +kernel, runs_of (by decide +kernel)⟩,
    ⟨firmware (.accsw g0) id, issueOf (firmware (.accsw g0) id) (.accsw g0), by decide +kernel, by decide +kernel,
      runs_of (by decide +kernel)⟩,
    ⟨twoTeams (.ctxload g0 (.s 4) (.s 2)) .saved, issueOf (twoTeams (.ctxload g0 (.s 4) (.s 2)) .saved) (.ctxload g0 (.s 4) (.s 2)),
      .s 4, .s 2, 1, ((twoTeams (.ctxload g0 (.s 4) (.s 2)) .saved).backUnitOf 1).getD ⟨0, true, []⟩, by decide +kernel,
      by decide +kernel, runs_of (by decide +kernel), by decide +kernel, by decide +kernel, by decide +kernel, by decide +kernel,
      by decide +kernel, some_getD _ (by decide +kernel), by decide +kernel, by decide +kernel⟩,
    ⟨firmware (.ctxsave g0 (.s 4) (.con 0)) id, issueOf (firmware (.ctxsave g0 (.s 4) (.con 0)) id) (.ctxsave g0 (.s 4) (.con 0)),
      .s 4, .con 0, by decide +kernel, by decide +kernel, runs_of (by decide +kernel), by decide +kernel⟩,
    twoTeams (.ctxsave g0 (.s 4) (.s 2)) .resident, issueOf (twoTeams (.ctxsave g0 (.s 4) (.s 2)) .resident) (.ctxsave g0 (.s 4) (.s 2)),
    .s 4, .s 2, 1, by decide +kernel, by decide +kernel, runs_of (by decide +kernel), by decide +kernel, by decide +kernel,
    by decide +kernel, by decide +kernel, by decide +kernel, by decide +kernel, by decide +kernel, by decide +kernel,
    by decide +kernel, by decide +kernel, longs_of (by decide +kernel)⟩

/-! ### Launches -/

/-- Map the first 2 MiB of global addresses to the first 2 MiB of HBM. -/
def mapped (s : State) : State := s.modDie 0 fun d => { d with tlb := [⟨0, 0, 2097152, 0, true, none, []⟩] }

abbrev la : Instr := .launch g0 (.v 5) (.v 2)

def launching (f : Grid → Grid) : State := mapped ((stands la (put [(2, 4096)])).modGrid 0 f)

def launchCheck (s : State) (l : Nat) : Except (Nat × Nat) Word64 := s.checkAddr 0 0 .generic 256 (s.rd64 0 0 (.v 2) l) l

theorem launch_checks (s : State) (h : (List.range 16).all (fun l => gives (launchCheck s l)) = true) (m : Mask)
    (hm : lanesOf m = List.range 16) : ∀ l ∈ lanesOf m, launchCheck s l = .ok (got 0 (launchCheck s l)) := by
  intro l hl
  rw [hm] at hl
  exact got_of (all16 (p := fun l => gives (launchCheck s l)) h l (List.mem_range.mp hl))

/-- A kernel stands at 0x100000: sixteen vector registers, nothing else. A record that names it stands in the scratchpad:
one team of one crew and the partition (20, 4, 4). -/
def launchable (entry : Byte) : State :=
  let s := mapped { logged (.launch (.v 5)) (.ready (.spad 0 0)) with mem := [(0xFFFF0, 16)] }
  s.modTeam 0 fun tm => { tm with
    spad := [(2, entry), (8, 1), (12, 1), (14, 1), (16, 1), (40, 0x94), (41, 0x10)] }

def answerOf (s : State) : Checked22 :=
  let e := entryAt (.launch (.v 5)) (.ready (.spad 0 0))
  let r := (s.orderAt e (accAt (.ready (.spad 0 0)))).readRecord e (accAt (.ready (.spad 0 0))) (.spad 0 0)
  r.2.validate (s.feOf 0) .frontEnd (r.2.childRecord 0 r.1) false (s.gridOf 0).curves.length (s.gridOf 0).bmaps.length

def isMalformed (r : Checked22) : Bool :=
  match r with
  | .malformed _ => true
  | _ => false

def depth9 (g : Grid) : Grid := { g with record := { g.record with mode := 9 * 8192 } }

/-- Lane 0's launch stands with its record in the scratchpad, and its answer may be given. -/
structure Answerable (s : State) : Prop where
  waits : Waits s 0 0 (entryAt (.launch (.v 5)) (.ready (.spad 0 0))) (accAt (.ready (.spad 0 0)))
  ready : s.launchReady (entryAt (.launch (.v 5)) (.ready (.spad 0 0))) (accAt (.ready (.spad 0 0))) = true
  noWait : s.releaseWait (entryAt (.launch (.v 5)) (.ready (.spad 0 0))) (accAt (.ready (.spad 0 0))) (.spad 0 0) = none
  resident : (s.team 0).status = .resident
  unshared : s.recordShared (entryAt (.launch (.v 5)) (.ready (.spad 0 0))) (accAt (.ready (.spad 0 0))) (.spad 0 0) = (false, s)
  crew : s.hasCrew 0 0

/-- No record in the scratchpad is shared where none of the thread's staged writes overlaps it. -/
theorem unshared_of {s : State} {e : LogEntry} {a : LaneAcc} {p : Place} (m : s.mapped e a p = false)
    (h : s.stagedAhead e a p = false) : s.recordShared e a p = (false, s) := by simp [State.recordShared, m, h]

theorem witness_LaunchIssueAndAnswer_issue (deep : Bool) :
    ∃ (s : State) (x : Issue) (addr : Nat → Word64), Runs s la x ∧ x.act ≠ 0 ∧
      (∀ l ∈ lanesOf x.act, s.checkAddr x.t x.c .generic 256 (s.rd64 x.t x.c (.v 2) l) l = .ok (addr l)) ∧
      (s.crew x.t x.c).long = none ∧ s.logUsed (s.team x.t).core < 64 ∧ (∀ e ∈ s.log, e.id < s.nextId) ∧
      (s.crew x.t x.c).counter 5 + (lanesOf x.act).length ≤ 63 ∧
      (deep = true ↔ (s.gridOf x.t).record.depth = 9) ∧ (s.crew x.t x.c).bundle &&& x.act ≠ 0 := by
  cases deep with
  | false =>
    exact ⟨launching id, issueOf (launching id) la, fun l => got 0 (launchCheck (launching id) l), runs_of (by decide +kernel),
      by decide +kernel, launch_checks _ (by decide +kernel) _ (by decide +kernel), by decide +kernel⟩
  | true =>
    exact ⟨launching depth9, issueOf (launching depth9) la, fun l => got 0 (launchCheck (launching depth9) l),
      runs_of (by decide +kernel), by decide +kernel, launch_checks _ (by decide +kernel) _ (by decide +kernel), by decide +kernel⟩

theorem witness_LaunchIssueAndAnswer_answer :
    (∃ s, Answerable s ∧ (s.gridOf 0).record.depth = 9 ∧ (s.gridOf 0).record.disposition 8 = 0 ∧
      (s.crew 0 0).inState Thread.inh = 0 ∧ 0 < (s.crew 0 0).threads.length ∧ ((s.crew 0 0).th 0).state ≠ .exited ∧
      s.earlierDone (entryAt (.launch (.v 5)) (.ready (.spad 0 0))) (accAt (.ready (.spad 0 0))) = true ∧
      ∀ b ∈ (entryAt (.launch (.v 5)) (.ready (.spad 0 0))).lanes,
        b = accAt (.ready (.spad 0 0)) ∨ (b.lane ≠ 0 ∧ b.status = .done)) ∧
    (∃ s, Answerable s ∧ (s.gridOf 0).record.ord = false ∧ (s.gridOf 0).record.depth ≠ 9 ∧ (s.team 0).grid < s.grids.length ∧
      ∃ n, answerOf s = .fine n) ∧
    ∃ s, Answerable s ∧ (s.gridOf 0).record.ord = false ∧ (s.gridOf 0).record.depth ≠ 9 ∧ (s.team 0).grid < s.grids.length ∧
      isMalformed (answerOf s) = true :=
  ⟨⟨(launchable 16).modGrid 0 depth9, ⟨⟨rfl, rfl, rfl, by decide +kernel, by decide +kernel⟩, by decide +kernel, by decide +kernel,
      by decide +kernel, unshared_of (by decide +kernel) (by decide +kernel), by decide +kernel, by decide +kernel⟩,
      by decide +kernel⟩,
    ⟨launchable 16, ⟨⟨rfl, rfl, rfl, by decide +kernel, by decide +kernel⟩, by decide +kernel, by decide +kernel, by decide +kernel,
      unshared_of (by decide +kernel) (by decide +kernel), by decide +kernel, by decide +kernel⟩, by decide +kernel, by decide +kernel, by decide +kernel, ⟨16, 0, 0, 0, 0, 0, 0⟩, by decide +kernel⟩,
    launchable 0, ⟨⟨rfl, rfl, rfl, by decide +kernel, by decide +kernel⟩, by decide +kernel, by decide +kernel, by decide +kernel,
      unshared_of (by decide +kernel) (by decide +kernel), by decide +kernel, by decide +kernel⟩,
    by decide +kernel⟩

/-! ### Waits, exports, clocks -/

/-- A staged store of four bytes at global address 64, whose home is die 0. -/
def stagedStore : Staged := ⟨0, .store, 0, 0, 64, .b32, .b32, .add, 7, 0, none, 0, 0, false, none, [0, 0, 0, 0], false⟩

/-- The head team has retired with one staged entry. -/
def releasing (k : Staged) : State :=
  (mapped (ordered (.nop g0) id)).modTeam 0 fun tm => { tm with status := .retired, staged := [k] }

/-- A load of the shared line 0 in an ordered grid waits for its team's turn. -/
def orderedLoad : State :=
  (logged (.ld .b32 (.v 5)) (.ordered (.phys 64))).modGrid 0 fun g => { g with
    record := { g.record with mode := 1 }, owners := [(0, .shared)] }

/-- An exported store of die 0 to home 1. -/
def exporting : State := logged (.st .b32) (.exported 1 1 (.phys 0x2040))

theorem witness_WaitsExportsClocks :
    (∃ (s : State) (team line : Nat), (s.team team).absent.contains line = false) ∧
    (∃ (s : State) (e : LogEntry) (a : LaneAcc), s.logEntry 0 = some e ∧ e.acc 0 = some a ∧ a.status = .presence 0 64 ∧
      0 ∈ linesAt 64 e.kind.bytes ∧ ∀ k ∈ linesAt 64 e.kind.bytes, k ∉ (s.team 0).absent) ∧
    (∃ s e a p, Waits s 0 0 e a ∧ a.status = .clock p ∧ s.clocksHold e.team e.crew = true) ∧
    (∃ s e a p, Waits s 0 0 e a ∧ a.status = .clock p ∧ s.clocksHold e.team e.crew = false) ∧
    (∃ s e a p, Waits s 0 0 e a ∧ a.status = .hostRead p) ∧
    (∃ s e a n p sz, Waits s 0 0 e a ∧ a.status = .stageWait n p ∧ e.kind = .st sz ∧ (s.team e.team).status = .resident ∧
      s.entryTaken e.core e.team n = false ∧ s.bufferFull e.core e.team n = false) ∧
    (∃ s e a pa d, Waits s 0 0 e a ∧ a.status = .ordered (.phys pa) ∧ e.kind = .ld .b32 (.v d) ∧ s.loadReady e a = true ∧
      s.ownDie e pa ∧ s.onShared e a (.phys pa) = true) ∧
    (∀ far : Bool, ∃ (s : State) (g t pa : Nat) (k : Staged) (r : List Staged), s.headTeam g = some t ∧ s.releaseDue t = true ∧
      (s.team t).staged = k :: r ∧ k.kind = .store ∧
      s.walkRefused (s.dieOf t) (s.feOf t) (s.team t).core k.addr.toNat true (.plumb t) = false ∧
      (s.walk (s.dieOf t) (s.feOf t) (s.team t).core k.addr.toNat true (.plumb t)).1 = some pa ∧
      s.redirect (s.feOf t) pa = pa ∧ isPeer pa = false ∧ (k.sys = false ∨ (s.crew t k.crew).ports = []) ∧
      (∀ e ∈ s.log, e.id < s.nextId) ∧ (far = true ↔ homeDie pa ≠ (s.team t).core / 64)) ∧
    (∃ (s : State) (die home : Nat) (e : LogEntry) (a : LaneAcc) (pa : Nat) (sz : MSize),
      s.oldestExport die home = some (e, a, .phys pa) ∧ Waits s e.id a.lane e a ∧ e.kind = .st sz ∧ die < s.dies.length ∧
      die < (s.die die).vector.length) ∧
    (∃ (s : State) (die src : Nat) (value : Word64), (nth (s.die die).vector src).toNat ≤ value.toNat ∧
      value.toNat ≤ (s.die src).performed.toNat ∧ die < s.dies.length ∧ src < (s.die die).vector.length) ∧
    ∃ (s : State) (die src : Nat) (value : Word64),
      value.toNat < (nth (s.die die).vector src).toNat ∨ (s.die src).performed.toNat < value.toNat :=
  ⟨⟨State.reset, 0, 0, by decide +kernel⟩,
    ⟨logged (.st .b32) (.presence 0 64), entryAt _ _, accAt _, rfl, rfl, rfl, by decide +kernel⟩,
    ⟨logged (.st .b32) (.clock (.phys 64)), entryAt _ _, accAt _, .phys 64, ⟨rfl, rfl, rfl, by decide +kernel, by decide +kernel⟩,
      rfl, by decide +kernel⟩,
    ⟨(logged (.st .b32) (.clock (.phys 64))).modCrew 0 0 fun cr => { cr with clock := [0, 1, 0, 0] }, entryAt _ _, accAt _, .phys 64,
      ⟨rfl, rfl, rfl, by decide +kernel, by decide +kernel⟩, rfl, by decide +kernel⟩,
    ⟨logged (.st .b32) (.hostRead (.phys 64)), entryAt _ _, accAt _, .phys 64, ⟨rfl, rfl, rfl, by decide +kernel, by decide +kernel⟩, rfl⟩,
    ⟨logged (.st .b32) (.stageWait 3 (.phys 64)), entryAt _ _, accAt _, 3, .phys 64, .b32,
      ⟨rfl, rfl, rfl, by decide +kernel, by decide +kernel⟩, rfl, rfl, by decide +kernel⟩,
    ⟨orderedLoad, entryAt _ _, accAt _, 64, 5, ⟨rfl, rfl, rfl, by decide +kernel, by decide +kernel⟩,
      rfl, rfl, by decide +kernel, ⟨by decide +kernel, by decide +kernel, by decide +kernel⟩, by decide +kernel⟩,
    fun far => match far with
      | false => ⟨releasing stagedStore, 0, 0, 64, stagedStore, [], by decide +kernel, by decide +kernel, by decide +kernel, rfl,
        by decide +kernel⟩
      | true => ⟨releasing { stagedStore with addr := 0x2040, sys := true }, 0, 0, 0x2040, _, [], by decide +kernel,
        by decide +kernel, rfl, rfl, by decide +kernel⟩,
    ⟨exporting, 0, 1, _, _, 0x2040, .b32, rfl, ⟨rfl, rfl, rfl, by decide +kernel, by decide +kernel⟩, rfl, by decide +kernel,
      by decide +kernel⟩,
    ⟨State.reset, 0, 3, 0, by decide +kernel⟩,
    State.reset, 0, 3, 1, by decide +kernel⟩

/-! ### Descriptors, rings, copies -/

/-- A tensor of one row of one FP32 element in the team's own scratchpad. -/
def tile1 : BitVec 256 := 0x000100010000000400FE000000000000
def tile2 : BitVec 256 := tile1 + 64

/-- Tiles 1 and 2, ring 0 of two stages with one free, ring 3 of depth two. -/
def tiled (i : Instr) (f : Crew → Crew) : State :=
  (stands i f).modTeam 0 fun tm => { tm with
    tregs := upd (upd tm.tregs 1 fun _ => tile1) 2 fun _ => tile2
    rings := upd tm.rings 3 fun _ => ⟨1, 0, 1, 1, 1⟩ }

abbrev atTile (i : Instr) (f : Crew → Crew) : Issue := issueOf (tiled i f) i

/-- s8 to s15 hold tile1. -/
def desc8 (cr : Crew) : Crew := (((cr.setS 8 0).setS 9 0x00FE0000).setS 10 4).setS 11 0x00010001

theorem next_word {i : Instr} {f : Crew → Crew} (t : (atLong i f).t = 0 ∧ (atLong i f).c = 0 ∧ (atLong i f).pc = 0x10008)
    (p : (List.range 16).all (fun l => decide ((((longer i f).crew 0 0).th l).pc = 0x10008)) = true)
    (w : (0x10008 : Word64) + 8 ≠ ((longer i f).image 0).nextClause (((longer i f).image 0).headerOf 0x10008))
    (m : ((longer i f).image 0).marked (0x10008 + 8) = false) (j : joinsWait ((longer i f).crew 0 0) = true)
    (h : ((longer i f).crew 0 0).threads.length = 16 ∧ (atLong i f).lanes.getLsbD 0 = true) :
    NextWord (longer i f) (atLong i f) where
  at_ := fun l hl _ => by rw [t.1, t.2.1, t.2.2]; exact of_decide_eq_true (all16 p l hl)
  within := by rw [t.1, t.2.2]; exact w
  plain := by rw [t.1, t.2.2]; exact m
  joins := by rw [t.1, t.2.1]; exact joinsWait_of j
  lanes := by rw [t.1, t.2.1]; exact hasLane_of h

def withRing (s : State) : State := s.modTeam 0 fun tm => { tm with rings := upd tm.rings 3 fun _ => ⟨1, 0, 1, 1, 1⟩ }

theorem witness_DescriptorsAndRings_tiles :
    (∃ s d a x w, x.act ≠ 0 ∧ Runs s (.tdset g0 d a) x ∧ s.sealHit x [.tile d.val] = none ∧
      (∀ i, i < 8 → BitVec.extractLsb' (32 * i) 32 w = (s.crew x.t x.c).s (a.val + i)) ∧
      (Desc.of w).reserved = false ∧ (Desc.of w).sparse < 2 ∧ (Desc.of w).rows ≠ 0 ∧ (Desc.of w).cols ≠ 0) ∧
    (∃ s d a x, x.act ≠ 0 ∧ Runs s (.tdmov g0 d a) x ∧ s.sealHit x [.tile d.val] = none) ∧
    (∃ s d a x, x.act ≠ 0 ∧ Runs s (.tdmovGet g0 d a) x) ∧
    (∃ s d a x, x.act ≠ 0 ∧ Runs s (.tdmovBase g0 d a) x ∧ s.sealHit x [.tile d.val] = none ∧ s.rd64 x.t x.c (.s a) 0 < 2 ^ 56) ∧
    ∃ s d a x, x.act ≠ 0 ∧ Runs s (.tdmovAdd g0 d a) x ∧ s.sealHit x [.tile d.val] = none :=
  ⟨⟨stands (.tdset g0 15 8) desc8, 15, 8, at0 _ desc8, tile1, by decide +kernel, runs_of (by decide +kernel), by decide +kernel⟩,
    ⟨tiled (.tdmov g0 3 1) id, 3, 1, atTile _ id, by decide +kernel, runs_of (by decide +kernel), by decide +kernel⟩,
    ⟨tiled (.tdmovGet g0 8 1) id, 8, 1, atTile _ id, by decide +kernel, runs_of (by decide +kernel)⟩,
    ⟨tiled (.tdmovBase g0 1 8) id, 1, 8, atTile _ id, by decide +kernel, runs_of (by decide +kernel), by decide +kernel⟩,
    tiled (.tdmovAdd g0 1 (.con 63)) id, 1, .con 63, atTile _ id, by decide +kernel, runs_of (by decide +kernel), by decide +kernel⟩

theorem witness_DescriptorsAndRings_rings :
    (∃ s r x a, x.act ≠ 0 ∧ Runs s (.ringadvInit g0 r a) x ∧ 2 ≤ s.rd32 x.t x.c a 0 ∧ s.rd32 x.t x.c a 0 ≤ 16 ∧
      ((nth (s.team x.t).rings r.val).stages = 0 ∨
        (nth (s.team x.t).rings r.val).stages + 1 ≤ (nth (s.team x.t).rings r.val).free)) ∧
    (∃ s r x a, x.act ≠ 0 ∧ Runs s (.ringadvInit g0 r a) x ∧ (s.rd32 x.t x.c a 0 < 2 ∨ 16 < s.rd32 x.t x.c a 0) ∧
      Parks s x 3) ∧
    (∃ (s : State) (r : Fin 16) (x : Issue), x.act ≠ 0 ∧ Runs s (.ringadv g0 r) x ∧ (nth (s.team x.t).rings r.val).stages ≠ 0 ∧
      (nth (s.team x.t).rings r.val).free ≠ 0 ∧ s.sealReady x.t x.c = true ∧
      r.val < (s.team x.t).rings.length) ∧
    (∃ (s : State) (r : Fin 16) (x : Issue), x.act ≠ 0 ∧ Runs s (.ringadvCons g0 r) x ∧ (nth (s.team x.t).rings r.val).stages ≠ 0 ∧
      (nth (s.team x.t).rings r.val).free ≠ (nth (s.team x.t).rings r.val).stages + 1 ∧ s.consReady x.t x.c r = true) ∧
    ∃ (s : State) (r : Fin 16) (ph : Bool) (x : Issue), x.act ≠ 0 ∧ Runs s (.ringwait g0 r ph) x ∧
      (nth (s.team x.t).rings r.val).stages ≠ 0 ∧ NextWord s x := by
  refine ⟨⟨stands (.ringadvInit g0 0 (.con 16)) id, 0, at0 _ id, .con 16, by decide +kernel, runs_of (by decide +kernel),
      by decide +kernel⟩,
    ⟨stands (.ringadvInit g0 0 (.con 17)) id, 0, at0 _ id, .con 17, by decide +kernel, runs_of (by decide +kernel),
      by decide +kernel, parks_of (by decide +kernel)⟩,
    ⟨tiled (.ringadv g0 3) id, 3, atTile _ id, by decide +kernel, runs_of (by decide +kernel), by decide +kernel⟩,
    ⟨tiled (.ringadvCons g0 3) id, 3, atTile _ id, by decide +kernel, runs_of (by decide +kernel), by decide +kernel⟩,
    withRing (longer (.ringwait g0 3 true) id), 3, true, issueOf (withRing (longer (.ringwait g0 3 true) id)) (.ringwait g0 3 true),
    by decide +kernel, runs_of (by decide +kernel), by decide +kernel, ?_⟩
  have n : NextWord (longer (.ringwait g0 3 true) id) (atLong (.ringwait g0 3 true) id) :=
    next_word (by decide +kernel) (by decide +kernel) (by decide +kernel) (by decide +kernel) (by decide +kernel) (by decide +kernel)
  exact ⟨fun l hl _ => of_decide_eq_true (all16 (p := fun l =>
        decide ((((withRing (longer (.ringwait g0 3 true) id)).crew 0 0).th l).pc = 0x10008)) (by decide +kernel) l hl),
    by decide +kernel, by decide +kernel, joinsWait_of (by decide +kernel), hasLane_of (by decide +kernel)⟩

abbrev cpIn : Instr := .cp g0 .s2s .plain 2 1 (some 3) none

theorem witness_CopyIssue :
    (∃ (s : State) (dir : CpDir) (xf : CpXform) (d a : Fin 16) (r : Option (Fin 16)) (b : Option Opnd) (x : Issue),
      Runs s (.cp g0 dir xf d a r b) x ∧ x.act ≠ 0 ∧
      b.isSome = s.perTensor x.t xf (Desc.of (s.tile x.t d.val)) ∧ (∀ q, r = some q → (s.ring x.t q).free ≠ 0) ∧
      s.copyOk x.t dir xf (Desc.of (s.tile x.t a.val)) (Desc.of (s.tile x.t d.val)) = true ∧
      s.copyTrap x.t dir xf (Desc.of (s.tile x.t a.val)) (Desc.of (s.tile x.t d.val)) = none ∧ (s.crew x.t x.c).counter 2 < 63 ∧
      (s.team x.t).claimAt x.c x.pc = none ∧ s.engineTakes (s.team x.t).core x.t x.c = true) ∧
    ∃ (s : State) (core : Nat) (q : Nat × Nat) (r : List (Nat × Nat)), core < s.cores.length ∧ s.copiesOn core < 8 ∧
      s.granted core = none ∧ (s.core core).cpQueue.filter s.standsAtCp = q :: r := by
  refine ⟨⟨tiled cpIn id, .s2s, .plain, 2, 1, some 3, none, atTile cpIn id, runs_of (by decide +kernel), by decide +kernel,
      by decide +kernel, fun q h => ?_, by decide +kernel⟩,
    (tiled cpIn id).modCore 0 fun c => { c with cpQueue := [(1, 0), (0, 0)] }, 0, (0, 0), [], by decide +kernel⟩
  cases h
  decide +kernel

/-- The copy of tile 1 to tile 2 at its unit `n`. -/
def copyAt (n : Nat) (src : BitVec 256) : Copy :=
  { (default : Copy) with
    id := 4, lanes := 1, pc := 0x10008, dir := .s2s, xform := .plain, dst := tile2, src := src, units := 1, unit := n, ring := some 3 }

def copying (n : Nat) (src : BitVec 256) : State := { tiled (.nop g0) id with copies := [copyAt n src] }

/-- A tensor at global address 4 KiB. -/
def tileOut : BitVec 256 := 0x00010001000000040000000000001000

/-- Its page is faulted, or refused. -/
def faulting (refused : Bool) : State :=
  (copying 0 tileOut).modDie 0 fun d =>
    if refused then { d with refused := [⟨0, pageOf 4096, false, 0, 0, .copy 4⟩] }
    else { d with waiting := [(⟨0, pageOf 4096, false, 0, 0, .copy 4⟩, none)] }

theorem witness_CopyCarriedOut :
    (∃ (s : State) (id a b o p n m : Nat) (c : Copy), s.copyOf id = some c ∧ s.unitFree c = true ∧ c.xform = .plain ∧
      c.dir ≠ .mc ∧ c.long = false ∧ c.srcD.sparse = 0 ∧ s.readSpans c c.unit = [(a, n)] ∧ s.writeSpans c c.unit = [(b, m)] ∧
      decodeAddr a = .ok (.own o) ∧ decodeAddr b = .ok (.own p) ∧ globalAddr a = false ∧ globalAddr b = false ∧
      o + n ≤ (s.gridOf c.team).needs.spadb ∧ p + n ≤ (s.gridOf c.team).needs.spadb ∧ c.team < s.teams.length ∧
      (s.team c.team).unsealed = [] ∧ c.orphan = none) ∧
    (∃ (s : State) (id : Nat) (c : Copy), s.copyOf id = some c ∧ c.units ≤ c.unit ∧ c.xform = .plain ∧ c.orphan = none ∧
      s.hasCrew c.team c.crew ∧ ∀ l, ((s.crew c.team c.crew).th l).runWait ≠ some (.copy id)) ∧
    (∃ (s : State) (id : Nat) (c : Copy), s.copyOf id = some c ∧
      ((s.copyNeeds c).any fun p => (s.spanRefused c.engine p.1 p.2).isSome) = false ∧
      (s.copyNeeds c).any (fun p => (s.spanFaulted c.engine p.1 p.2).isSome) = true) ∧
    (∃ (s : State) (id : Nat) (c : Copy), s.copyOf id = some c ∧
      ((s.copyNeeds c).any fun p => (s.spanRefused c.engine p.1 p.2).isSome) = true ∧ c.orphan = none ∧ c.team < s.teams.length ∧
      (s.team c.team).status = .resident) ∧
    ∃ (s : State) (id : Nat) (c : Copy), s.copyOf id = some c ∧
      ((s.copyNeeds c).any fun p => (s.spanRefused c.engine p.1 p.2).isSome) = true ∧ c.orphan ≠ none := by
  refine ⟨⟨copying 0 tile1, 4, 0xFE000000000000, 0xFE000000000040, 0, 64, 4, 4, copyAt 0 tile1, rfl, by decide +kernel, rfl, by decide,
      rfl, by decide +kernel, by decide +kernel, by decide +kernel, rfl, rfl, by decide +kernel⟩,
    ⟨copying 1 tile1, 4, copyAt 1 tile1, rfl, by decide, rfl, rfl, ⟨by decide +kernel, by decide +kernel⟩, fun l => ?_⟩,
    ⟨faulting false, 4, copyAt 0 tileOut, by decide +kernel⟩, ⟨faulting true, 4, copyAt 0 tileOut, by decide +kernel⟩,
    { faulting true with copies := [{ copyAt 0 tileOut with orphan := some [] }] }, 4, { copyAt 0 tileOut with orphan := some [] },
    by decide +kernel⟩
  show (((copying 1 tile1).crew 0 0).th l).runWait ≠ some (.copy 4)
  exact of_decide_eq_true (nth_idx (l := ((copying 1 tile1).crew 0 0).threads) (p := fun _ th => decide (th.runWait ≠ some (.copy 4)))
    (by decide +kernel) (fun _ => rfl) l)

/-! ### Matrix operations -/

/-- Slot 0 holds INT8, slot 1 the seven-slice element with two slices. -/
def sloted (s : State) : State :=
  s.modGrid 0 fun g => { g with record := { g.record with fslots := [9, 0x200B] } }

abbrev mmaI : Instr := .mma g0 false 0 0 0 16 64 0 2

def arming (st : ConvState) : State :=
  (sloted (stands mmaI id)).modTeam 0 fun tm => { tm with conv := upd tm.conv 2 fun k => { k with state := st } }

/-- That operation armed on its register. -/
def mmaOp (st : MStage) : MatrixOp :=
  { (default : MatrixOp) with id := 4, cv := some 2, kind := .mma false false 0 16 64 0 0 0, stage := st, pc := 0x10008, lanes := 1 }

def signing : State :=
  { (sloted (stands (.sign g0 2 (.con 0)) id)).modTeam 0 (fun tm => { tm with conv := upd tm.conv 2 fun k => { k with state := .armed } })
      with mops := [mmaOp .armed] }

abbrev accrdI : Instr := .accrd g0 0 3 true

theorem witness_MatrixInstructionsIssue :
    (∃ (s : State) (i : Instr) (x : Issue) (cv : Fin 8) (kind : MKind) (ok : Prop), Runs s i x ∧ x.act ≠ 0 ∧
      armSpec s x i = some (cv, kind, ok) ∧ ok ∧ cv.val < (s.team x.t).conv.length ∧
      (nth (s.team x.t).conv cv.val).state = .idle ∧ (s.crew x.t x.c).counter 3 < 63) ∧
    (∃ (s : State) (i : Instr) (x : Issue) (cv : Fin 8) (kind : MKind) (ok : Prop), Runs s i x ∧ x.act ≠ 0 ∧
      armSpec s x i = some (cv, kind, ok) ∧ ok ∧ cv.val < (s.team x.t).conv.length ∧
      (nth (s.team x.t).conv cv.val).state = .armed ∧ Parks s x 10) ∧
    (∃ (s : State) (cv : Fin 8) (a : Opnd) (x : Issue) (m : MatrixOp), Runs s (.sign g0 cv a) x ∧ x.act ≠ 0 ∧
      badSet (s.team x.t).crews.length (s.rd32 x.t x.c a (lowestLane x.act)) = false ∧ cv.val < (s.team x.t).conv.length ∧
      (nth (s.team x.t).conv cv.val).state = .armed ∧ s.armedOn x.t cv = some m ∧
      s.rd32 x.t x.c a (lowestLane x.act) % 64 ≤ x.c ∧
      x.c < s.rd32 x.t x.c a (lowestLane x.act) % 64 + 2 ^ (s.rd32 x.t x.c a (lowestLane x.act) / 64 % 4) ∧
      (nth (s.team x.t).conv cv.val).arrived = 0 ∧
      (∀ l, l < 16 → x.act.getLsbD l = true → (nth (s.team x.t).conv cv.val).arrived.getLsbD
        (16 * (x.c - s.rd32 x.t x.c a (lowestLane x.act) % 64) + l) = false) ∧
      badRanges (s.gridOf x.t).needs.vregs
        (MKind.ranges (s.slotElemOf x.t) m.kind (2 ^ (s.rd32 x.t x.c a (lowestLane x.act) / 64 % 4))) = false ∧
      (s.crew x.t x.c).counter 3 < 63) ∧
    (∃ (s : State) (i : Instr) (x : Issue) (kind : MKind) (tiles : List Nat) (ok : Prop), Runs s i x ∧ x.act ≠ 0 ∧
      directSpec s x i = some (kind, tiles, ok) ∧ ok ∧ s.sealHit x (tiles.map Res.acc) = none ∧ (s.crew x.t x.c).counter 3 < 63) ∧
    ∃ (s : State) (a : Opnd) (x : Issue), Runs s (.mwait g0 a) x ∧ x.act ≠ 0 ∧ a.uniformSrc = true ∧
      s.rd32 x.t x.c a 0 ≤ 63 ∧ NextWord s x :=
  ⟨⟨arming .idle, mmaI, issueOf (arming .idle) mmaI, _, _, _, runs_of (by decide +kernel), by decide +kernel, rfl,
      ⟨by decide +kernel, by decide +kernel, by decide +kernel⟩, by decide +kernel, by decide +kernel, by decide +kernel⟩,
    ⟨arming .armed, mmaI, issueOf (arming .armed) mmaI, _, _, _, runs_of (by decide +kernel), by decide +kernel, rfl,
      ⟨by decide +kernel, by decide +kernel, by decide +kernel⟩, by decide +kernel, by decide +kernel, parks_of (by decide +kernel)⟩,
    ⟨signing, 2, .con 0, issueOf signing (.sign g0 2 (.con 0)), mmaOp .armed, runs_of (by decide +kernel), by decide +kernel⟩,
    ⟨stands accrdI id, accrdI, at0 accrdI id, _, _, _, runs_of (by decide +kernel), by decide +kernel, rfl, by decide +kernel⟩,
    longer (.mwait g0 (.s 1)) (fun cr => cr.setS 1 63), .s 1, atLong (.mwait g0 (.s 1)) (fun cr => cr.setS 1 63), runs_of (by decide +kernel), by decide +kernel, by decide,
    by decide +kernel, next_word (by decide +kernel) (by decide +kernel) (by decide +kernel) (by decide +kernel) (by decide +kernel)
      (by decide +kernel)⟩

def engaged (m : MatrixOp) : State := { sloted (stands (.nop g0) id) with mops := [m] }

/-- Its slots are scaled, and the scale bytes that tile register 0 names lie in the stack window, which the engine cannot
read. -/
def badScales : State :=
  let s := (engaged (mmaOp .issued)).modGrid 0 fun g => { g with record := { g.record with fslots := [0x49] } }
  s.modTeam 0 fun tm => { tm with tregs := upd tm.tregs 0 fun _ => (0xFD000000000000 : BitVec 256) <<< 200 }

def firstFault (r : Option (Fin 3 × Bool × Bool × Nat × Option (Nat × Nat))) : Bool :=
  match r with
  | some (k, hard, content, a, w) => k == 0 && hard && !content && decide (a = 0xFD000000000000) && w.isNone
  | none => false

theorem fault_of {r : Option (Fin 3 × Bool × Bool × Nat × Option (Nat × Nat))} (h : firstFault r = true) :
    r = some (0, true, false, (0xFD000000000000 : Word64).toNat, none) := by
  match r with
  | none => cases h
  | some (k, hard, content, a, w) =>
    simp only [firstFault, Bool.and_eq_true, beq_iff_eq, Bool.not_eq_true', decide_eq_true_eq, Option.isNone_iff_eq_none] at h
    obtain ⟨⟨⟨⟨rfl, rfl⟩, rfl⟩, rfl⟩, rfl⟩ := h
    rfl

theorem witness_MatrixEngineSteps :
    (∃ (s : State) (op : Nat) (m : MatrixOp) (cv : Fin 8) (d a b n : Nat) (slot : Fin 8), s.mop op = some m ∧
      s.canStart m = true ∧ m.cv = some cv ∧ m.kind = .mmaw d a b slot n ∧
      ∀ j, j < 2 ^ (nth (s.team m.team).conv cv.val).setcnt →
        (s.crew m.team ((nth (s.team m.team).conv cv.val).setbase + j)).stale = []) ∧
    (∃ (s : State) (op : Nat) (m : MatrixOp) (d n : Nat), s.mop op = some m ∧ s.canCommit m = true ∧ m.team < s.teams.length ∧
      m.kind = .acclr d n ∧ splitsWide (s.gridOf m.team).needs.wblocks d n = false) ∧
    (∃ (s : State) (op : Nat) (m : MatrixOp) (v a h : Nat), s.mop op = some m ∧ s.canCommit m = true ∧ m.team < s.teams.length ∧
      m.kind = .accrd v a h ∧ m.crew < (s.team m.team).crews.length) ∧
    (∃ (s : State) (op : Nat) (m : MatrixOp), s.mop op = some m ∧ m.stage = .started ∧ m.tries < 2) ∧
    (∃ (s : State) (op : Nat) (m : MatrixOp), s.mop op = some m ∧ m.stage = .pass ∧ m.tries < 2) ∧
    (∃ (s : State) (op : Nat) (m : MatrixOp), s.mop op = some m ∧ m.stage = .started ∧ 2 ≤ m.tries ∧ m.core < s.cores.length ∧
      m.core / 64 < s.dies.length) ∧
    (∃ (s : State) (op : Nat) (m : MatrixOp), s.mop op = some m ∧ m.stage = .started ∧
      (∃ d a b slot sct, m.kind = .dn d a b slot sct true) ∧
      (∀ k ∈ s.mops, k.core = m.core → k.kind.needsPass = true → k.stage = .started → m.began ≤ k.began) ∧
      (∀ k ∈ s.mops, k.core = m.core → k.stage ≠ .pass) ∧ s.commitBehind m = false) ∧
    ∃ (s : State) (op : Nat) (m : MatrixOp) (kind : Fin 3) (hard content : Bool) (addr : Word64) (w : Option (Nat × Nat)),
      s.mop op = some m ∧ s.fetchFault m = some (kind, hard, content, addr.toNat, w) ∧ m.team < s.teams.length ∧
      (s.team m.team).status = .resident :=
  ⟨⟨engaged { mmaOp .issued with kind := .mmaw 0 16 32 1 2 }, 4, { mmaOp .issued with kind := .mmaw 0 16 32 1 2 }, 2, 0, 16, 32, 2, 1,
      rfl, by decide +kernel, rfl, rfl, by decide +kernel⟩,
    ⟨engaged { mmaOp .started with kind := .acclr 0 256 }, 4, { mmaOp .started with kind := .acclr 0 256 }, 0, 256, rfl,
      by decide +kernel, by decide +kernel, rfl, by decide +kernel⟩,
    ⟨engaged { mmaOp .started with kind := .accrd 0 3 1 }, 4, { mmaOp .started with kind := .accrd 0 3 1 }, 0, 3, 1, rfl,
      by decide +kernel, by decide +kernel, rfl, by decide +kernel⟩,
    ⟨engaged (mmaOp .started), 4, mmaOp .started, rfl, rfl, by decide⟩,
    ⟨engaged (mmaOp .pass), 4, mmaOp .pass, rfl, rfl, by decide⟩,
    ⟨engaged { mmaOp .started with tries := 2 }, 4, { mmaOp .started with tries := 2 }, rfl, rfl, by decide +kernel⟩,
    ⟨engaged { mmaOp .started with kind := .dn 0 16 32 0 0 true }, 4, { mmaOp .started with kind := .dn 0 16 32 0 0 true }, rfl, rfl,
      ⟨0, 16, 32, 0, 0, rfl⟩, by decide +kernel⟩,
    badScales, 4, mmaOp .issued, 0, true, false, 0xFD000000000000, none, rfl, fault_of (by decide +kernel), by decide +kernel⟩

theorem witness_MatrixMultiplyInteger : ∃ (s : State) (op : Nat) (m : MatrixOp) (d a b : Nat) (fa fb : Fin 8), s.mop op = some m ∧
    s.canCommit m = true ∧ m.kind = .mma false false d a b fa fb 0 ∧ m.team < s.teams.length ∧
    slotElem (s.slot m.team fa) = .int8 ∧ slotElem (s.slot m.team fb) = .int8 ∧
    slotScaled (s.slot m.team fa) = false ∧ m.scales = [] :=
  ⟨engaged (mmaOp .started), 4, mmaOp .started, 0, 16, 64, 0, 0, rfl, by decide +kernel, rfl, by decide +kernel, by decide +kernel,
    by decide +kernel, by decide +kernel, rfl⟩

/-! ### Task instructions, scheduling, retirement, placement -/

def quietTeam (tm : Team) : Bool := (List.range tm.bars.length).all fun b => !(nth tm.bars b).tset

theorem noBarriers_of {s : State} (h : (List.range s.teams.length).all (fun t => quietTeam (nth s.teams t)) = true) :
    s.noBarriers := by
  intro t b
  have q := nth_idx (p := fun _ tm => quietTeam tm) h (fun _ => by decide) t
  have r := nth_idx (p := fun _ (k : Barrier) => !k.tset) q (fun _ => by decide) b
  show (nth (nth s.teams t).bars b).tset = false
  simpa using r

/-- Ordered, with a ticket table at 8 KiB, all of it mapped. -/
def tabled (s : State) (table region : Word64) : State :=
  mapped (s.modGrid 0 fun g => { g with record := { g.record with mode := 1, tkTable := table, vregion := region } })

abbrev issueI : Instr := .tkissue g0 2 (.con 0)

def taskAt (k : TaskKind) : TaskOp := ⟨4, 0, 0, 0x10008, 0xFFFF, .s 2, k, none, false⟩

def tasking (k : TaskKind) (table region : Word64) (m : Sparse 8) : State :=
  { tabled (longer (.nop g0) id) table region with tasks := [taskAt k], mem := m }

def acted (r : Except NoPage (TaskAnswer × State)) : State :=
  match r with
  | .ok p => p.2
  | .error _ => State.reset

def answered (r : Except NoPage (TaskAnswer × State)) : Option TaskAnswer :=
  match r with
  | .ok p => some p.1
  | .error _ => none

theorem acted_of {r : Except NoPage (TaskAnswer × State)} {a : TaskAnswer} (h : answered r = some a) : r = .ok (a, acted r) := by
  cases r with
  | ok p => cases h; rfl
  | error e => cases h

/-- Cells of the bytes of `v` from address `a`, zero bytes left out. -/
def cells (a n v : Nat) : Sparse 8 :=
  ((List.range n).map fun i => (a + i, BitVec.ofNat 8 (v / 256 ^ i))).filter fun p => p.2 != 0

/-- Ticket 0 of a table whose header is zero: pending, with version 2. -/
def ticket0 (version : Nat) : Nat := sealTicket (1 + version * 2 ^ 448)

/-- At address 0 the header of a region whose oldest version is 3; the ticket in slot 0 of the table at 8 KiB. -/
def retiredMem : Sparse 8 := cells 0 64 (3 * 2 ^ 64 + 5) ++ cells 8256 64 (ticket0 2)

/-- A ticket under redemption: state 2. -/
def freedMem : Sparse 8 := cells 8256 64 (sealTicket 2)

def redeeming : State :=
  { (tasking (.redeem 0 0) 8192 1 retiredMem).modFe 0 (fun f => { f with binaries := [0] }) with
    bins := [{ (default : Binary) with classes := [default] }] }

theorem witness_TaskInstructions :
    (∃ (s : State) (i : Instr) (x : Issue) (d : Fin 128) (kind : TaskKind) (ok : Prop), Runs s i x ∧ x.act ≠ 0 ∧
      taskSpec s x i = some (d, kind, ok) ∧ ok ∧ kind.staged = true ∧ (s.gridOf x.t).record.ord = true ∧
      s.entryTaken (s.team x.t).core x.t s.nextId = false ∧ s.bufferFull (s.team x.t).core x.t s.nextId = false) ∧
    (∃ (s v : State) (x : TaskOp) (w : Nat) (d : Fin 128), s.taskOf x.id = some x ∧ s.taskReady x = true ∧ x.d = .s d ∧
      s.taskAction x = .ok (.value w, v) ∧ v.hasCrew x.team x.crew ∧ (v.team x.team).status = .resident ∧
      ((v.image x.team).after x.pc).2 = false ∧ wordSw (((v.image x.team).word x.pc).getD 0) = false) ∧
    ∃ (s v : State) (x : TaskOp) (n : Nat), s.taskOf x.id = some x ∧ s.taskReady x = true ∧
      s.taskAction x = .ok (.retired n, v) ∧ s.hasCrew x.team x.crew ∧ (s.team x.team).status = .resident ∧ x.lanes ≠ 0 ∧
      (s.crew x.team x.crew).bundle = x.lanes ∧ (s.gridOf x.team).record.disposition 13 = 0 ∧
      (s.crew x.team x.crew).inState Thread.inh = 0 ∧ x.lanes &&& (s.crew x.team x.crew).exited = 0 ∧
      s.crossDone x.team x.crew x.lanes = true ∧ s.readsDone x.team x.crew x.lanes = true :=
  ⟨⟨tabled (stands issueI id) 8192 0, issueI, issueOf (tabled (stands issueI id) 8192 0) issueI, _, _, _, runs_of (by decide +kernel),
      by decide +kernel, rfl, by decide +kernel⟩,
    ⟨tasking .wvFin 0 4096 [], acted ((tasking .wvFin 0 4096 []).taskAction (taskAt .wvFin)), taskAt .wvFin, 1, 2, rfl,
      by decide +kernel, rfl, acted_of (by decide +kernel), ⟨by decide +kernel, by decide +kernel⟩, by decide +kernel,
      by decide +kernel, by decide +kernel⟩,
    redeeming, acted (redeeming.taskAction (taskAt (.redeem 0 0))), taskAt (.redeem 0 0), 2, rfl, by decide +kernel,
    acted_of (by decide +kernel), ⟨by decide +kernel, by decide +kernel⟩, by decide +kernel, by decide, by decide +kernel,
    by decide +kernel, by decide +kernel⟩

/-- The header of the table, and the ticket of id 0, that a task instruction reads. -/
def headOf (s : State) (x : TaskOp) : Except NoPage (Nat × State) :=
  s.getNat (s.dieOf x.team) (s.feOf x.team) (.op x.id) (s.gridOf x.team).record.tkTable.toNat 64

def ticketOf (s : State) (x : TaskOp) : Except NoPage (Nat × State) :=
  (got (0, s) (headOf s x)).2.getNat (s.dieOf x.team) (s.feOf x.team) (.op x.id)
    (ticketAt (s.gridOf x.team).record.tkTable.toNat (got (0, s) (headOf s x)).1 0) 64

/-- The header of the version region that it reads. -/
def regionOf (s : State) (x : TaskOp) : Except NoPage (Nat × State) :=
  s.getNat (s.dieOf x.team) (s.feOf x.team) (.op x.id) (s.gridOf x.team).record.vregion.toNat 64

/-- A task instruction that reads its table and its ticket, of value `k` there. -/
def readsTicket (s : State) (x : TaskOp) (kind : TaskKind) (p : Nat → State → Bool) : Prop :=
  headOf s x = .ok (got (0, s) (headOf s x)) ∧ ticketOf s x = .ok (got (0, s) (ticketOf s x)) ∧ x.kind = kind ∧
    p (got (0, s) (ticketOf s x)).1 (got (0, s) (ticketOf s x)).2 = true

theorem readsTicket_of {s : State} {x : TaskOp} {kind : TaskKind} {p : Nat → State → Bool}
    (h : gives (headOf s x) = true ∧ gives (ticketOf s x) = true ∧ x.kind = kind ∧
      p (got (0, s) (ticketOf s x)).1 (got (0, s) (ticketOf s x)).2 = true) : readsTicket s x kind p :=
  ⟨got_of h.1, got_of h.2.1, h.2.2⟩

theorem witness_TaskInstructions_tickets :
    (∃ s x, readsTicket s x (.stateGet 0) fun k _ => !ticketValid k 0) ∧
    (∃ s x, readsTicket s x (.redeem 0 0) fun k _ => !ticketValid k 0) ∧
    (∃ s x, readsTicket s x (.stateGet 0) fun k _ => ticketValid k 0) ∧
    (∃ s x, readsTicket s x (.stateVoid 0) fun k _ => ticketValid k 0 && decide (k % 8 ≠ 1)) ∧
    (∃ s x, readsTicket s x (.stateFree 0) fun k _ => ticketValid k 0 && decide (k % 8 < 3)) ∧
    (∃ s x, readsTicket s x (.redeem 0 0) fun k _ => ticketValid k 0 && decide (k % 8 ≠ 1)) ∧
    ∃ s x, readsTicket s x (.redeem 0 0) fun k v => ticketValid k 0 && decide (k % 8 = 1) &&
      (v.lastBinary (s.feOf x.team) (k / 2 ^ 192 % 2 ^ 32)).isNone :=
  ⟨⟨tasking (.stateGet 0) 8192 0 [], taskAt (.stateGet 0), readsTicket_of (by decide +kernel)⟩,
    ⟨tasking (.redeem 0 0) 8192 0 [], taskAt (.redeem 0 0), readsTicket_of (by decide +kernel)⟩,
    ⟨tasking (.stateGet 0) 8192 0 retiredMem, taskAt (.stateGet 0), readsTicket_of (by decide +kernel)⟩,
    ⟨tasking (.stateVoid 0) 8192 0 freedMem, taskAt (.stateVoid 0), readsTicket_of (by decide +kernel)⟩,
    ⟨tasking (.stateFree 0) 8192 0 freedMem, taskAt (.stateFree 0), readsTicket_of (by decide +kernel)⟩,
    ⟨tasking (.redeem 0 0) 8192 0 freedMem, taskAt (.redeem 0 0), readsTicket_of (by decide +kernel)⟩,
    tasking (.redeem 0 0) 8192 0 retiredMem, taskAt (.redeem 0 0), readsTicket_of (by decide +kernel)⟩

/-- The header of a region whose draft is 7, with one granule of a version pinned. -/
def draftHead : Nat := 9 + 7 * 2 ^ 32 + 2 * 2 ^ 64 + 1 * 2 ^ 96 + 1 * 2 ^ (256 + 16 * 2)

def readsRegion (s : State) (x : TaskOp) (kind : TaskKind) (p : Nat → Bool) : Prop :=
  regionOf s x = .ok (got (0, s) (regionOf s x)) ∧ x.kind = kind ∧ p (got (0, s) (regionOf s x)).1 = true

theorem readsRegion_of {s : State} {x : TaskOp} {kind : TaskKind} {p : Nat → Bool}
    (h : gives (regionOf s x) = true ∧ x.kind = kind ∧ p (got (0, s) (regionOf s x)).1 = true) : readsRegion s x kind p :=
  ⟨got_of h.1, h.2⟩

theorem witness_TaskInstructions_regions :
    (∃ s x, readsRegion s x .wvOpen fun h => decide (h / 2 ^ 32 % 2 ^ 32 ≠ 0)) ∧
    (∃ s x, readsRegion s x .wvOpen fun h => decide (h / 2 ^ 32 % 2 ^ 32 = 0) && decide (h % 2 ^ 32 = 2 ^ 32 - 1)) ∧
    (∃ s x, readsRegion s x (.wvCow 1) fun h => decide (h / 2 ^ 32 % 2 ^ 32 = 0)) ∧
    (∃ s x, readsRegion s x (.wvCow 1) fun h => decide (h / 2 ^ 32 % 2 ^ 32 ≠ 0) && decide (h / 2 ^ 96 % 2 ^ 24 ≤ 1)) ∧
    (∃ s x, readsRegion s x .wvFin fun h => decide (h / 2 ^ 32 % 2 ^ 32 = 0)) ∧
    (∃ s x, readsRegion s x .wvFin fun h => decide (h / 2 ^ 32 % 2 ^ 32 ≠ 0) &&
      decide (h / 2 ^ 64 % 2 ^ 32 + 8 ≤ h % 2 ^ 32 + 1) && decide (h / 2 ^ (256 + 16 * (h / 2 ^ 64 % 2 ^ 32 % 9)) % 2 ^ 16 ≠ 0)) ∧
    ∃ s x, readsRegion s x .wvDrop fun h => decide (h / 2 ^ 32 % 2 ^ 32 = 0) :=
  ⟨⟨tasking .wvOpen 0 4096 (cells 4096 64 draftHead), taskAt .wvOpen, readsRegion_of (by decide +kernel)⟩,
    ⟨tasking .wvOpen 0 4096 (cells 4096 64 (2 ^ 32 - 1)), taskAt .wvOpen, readsRegion_of (by decide +kernel)⟩,
    ⟨tasking (.wvCow 1) 0 4096 [], taskAt (.wvCow 1), readsRegion_of (by decide +kernel)⟩,
    ⟨tasking (.wvCow 1) 0 4096 (cells 4096 64 draftHead), taskAt (.wvCow 1), readsRegion_of (by decide +kernel)⟩,
    ⟨tasking .wvFin 0 4096 [], taskAt .wvFin, readsRegion_of (by decide +kernel)⟩,
    ⟨tasking .wvFin 0 4096 (cells 4096 64 draftHead), taskAt .wvFin, readsRegion_of (by decide +kernel)⟩,
    tasking .wvDrop 0 4096 [], taskAt .wvDrop, readsRegion_of (by decide +kernel)⟩

/-- Every thread of the crew has exited. -/
def ended (retired : Bool) : State := stands (.nop g0) fun cr =>
  { cr with threads := cr.threads.map (fun th => { th with state := .exited }), bundle := 0, retired := retired }

/-- One run, not yet a bundle. -/
def oneRun : State := stands (.nop g0) fun cr => { cr with bundle := 0 }

/-- Two runs, none of them yet a bundle. -/
def twoRuns (n : Nat) : State :=
  longer (.nop g0) fun cr => { cr.modTh 0 (fun th => { th with pc := 0x10018 }) with bundle := 0, fcount := n }

/-- The bundle stands at its clause's header. -/
def atHeader (busy : Bool) : State :=
  let s := stands (.nop g0) fun cr => { cr with
    threads := cr.threads.map (fun th => { th with pc := 0x10000 }), counted := if busy then [⟨1, 0, false⟩] else [] }
  s.modCore 0 fun c => { c with images := c.images.map fun im => { im with words := upd im.words 0 fun _ => 0 } }

theorem witness_SelectionMakesBundle :
    (∃ (s : State) (t c : Nat), s.issues? t c = true ∧ (s.crew t c).bundle = 0 ∧ s.readyRuns t c = []) ∧
    (∃ (s : State) (t c : Nat), (s.crew t c).bundle ≠ 0) ∧
    (∃ (s : State) (t c : Nat) (r : Word64 × Mask), s.issues? t c = true ∧ (s.crew t c).bundle = 0 ∧ (s.crew t c).yielding = 0 ∧
      (∀ l, ((s.crew t c).th l).runWait = none) ∧ s.hasCrew t c ∧ s.readyRuns t c = r :: []) ∧
    ∃ (s : State) (t c : Nat) (r k : Word64 × Mask), s.issues? t c = true ∧ (s.crew t c).bundle = 0 ∧ (s.crew t c).yielding = 0 ∧
      (∀ l, ((s.crew t c).th l).runWait = none) ∧ s.hasCrew t c ∧ s.readyRuns t c = r :: k :: [] ∧ (s.crew t c).fcount = 4 := by
  refine ⟨⟨ended false, 0, 0, by decide +kernel⟩, ⟨stands (.nop g0) id, 0, 0, by decide +kernel⟩,
    ⟨oneRun, 0, 0, (0x10008, 0xFFFF), by decide +kernel, by decide +kernel, by decide +kernel, fun l => ?_,
      ⟨by decide +kernel, by decide +kernel⟩, by decide +kernel⟩,
    twoRuns 4, 0, 0, (0x10008, 0xFFFE), (0x10018, 1), by decide +kernel, by decide +kernel, by decide +kernel, fun l => ?_,
    ⟨by decide +kernel, by decide +kernel⟩, by decide +kernel⟩
  · exact of_decide_eq_true (nth_idx (l := (oneRun.crew 0 0).threads) (p := fun _ th => decide (th.runWait = none))
      (by decide +kernel) (fun _ => rfl) l)
  · exact of_decide_eq_true (nth_idx (l := ((twoRuns 4).crew 0 0).threads) (p := fun _ th => decide (th.runWait = none))
      (by decide +kernel) (fun _ => rfl) l)

theorem witness_HeadersLetBundlesIn :
    (∃ (s : State) (t c : Nat), s.issues? t c = true ∧ (s.crew t c).bundle ≠ 0 ∧
      (s.image t).marked (s.crew t c).bundlePc = true ∧
      s.headerHolds t c ((s.image t).header (s.crew t c).bundlePc) = false) ∧
    ∃ (s : State) (t c : Nat), s.issues? t c = true ∧ (s.crew t c).bundle ≠ 0 ∧
      (s.image t).marked (s.crew t c).bundlePc = true ∧
      s.headerHolds t c ((s.image t).header (s.crew t c).bundlePc) = true ∧
      s.headerTrap t c ((s.image t).header (s.crew t c).bundlePc) = none ∧ s.hasCrew t c :=
  ⟨⟨atHeader true, 0, 0, by decide +kernel⟩, atHeader false, 0, 0, by decide +kernel, by decide +kernel, by decide +kernel,
    by decide +kernel, by decide +kernel, ⟨by decide +kernel, by decide +kernel⟩⟩

/-- All sixteen lanes are held at barrier 1, whose target is one crew. -/
def atBarrier : State :=
  let s := longer (.nop g0) fun cr => { cr with
    bundle := 0, threads := cr.threads.map fun th => { th with state := .held, holdAt := .bar 1 } }
  s.modTeam 0 fun tm => { tm with bars := upd tm.bars 1 fun b => { b with tset := true, target := 1, arrived := 1 } }

theorem witness_IssueCycle :
    (∃ (s : State) (core : Nat), (s.core core).failed = false ∧ (s.core core).halted = false ∧ core < s.cores.length) ∧
    ∃ (s : State) (core t : Nat) (b : Fin 4), t < s.teams.length ∧ (s.team t).core = core ∧ (s.team t).status = .resident ∧
      (s.team t).stop = false ∧ (s.team t).saving = false ∧ s.waitsImage t = false ∧
      (s.team t).guard = none ∧ (nth (s.team t).bars b.val).tset = true ∧
      (∀ j k, (j ≠ t ∨ k ≠ b.val) → (nth (s.team j).bars k).tset = false) ∧
      (if (nth (s.team t).bars b.val).target = 0 then BitVec.popcount (s.team t).liveCrews else (nth (s.team t).bars b.val).target) ≤
        BitVec.popcount (nth (s.team t).bars b.val).arrived ∧
      s.arrivalsDone t (.bar b) = true ∧ (s.die (core / Config.coresPerDie)).fills = [] ∧
      (∀ c, c < (s.team t).crews.length → (s.crew t c).JoinsWait) ∧
      (∀ e ∈ s.log, e.team = t → ∀ a ∈ e.lanes, a.status.isTrapping = false) ∧
      (∀ c l, l < 16 → l < (s.crew t c).threads.length → ((s.crew t c).th l).state = .active →
        (s.image t).inside ((s.crew t c).th l).pc = true ∨ (s.image t).marked ((s.crew t c).th l).pc = true) ∧
      (∀ c l, l < 16 → ((s.crew t c).heldAt (.bar b)).getLsbD l = true →
        (s.image t).inside (((s.crew t c).th l).pc + 8) = true ∧
        ((s.crew t c).th l).pc + 8 ≠ (s.image t).nextClause ((s.image t).headerOf ((s.crew t c).th l).pc)) := by
  refine ⟨⟨stands (.nop g0) id, 0, by decide +kernel⟩,
    atBarrier, 0, 0, 1, by decide +kernel, by decide +kernel, by decide +kernel, of_decide_eq_true (by decide +kernel), by decide +kernel,
    by decide +kernel, of_decide_eq_true (by decide +kernel), of_decide_eq_true (by decide +kernel), fun j k h => ?_, by decide +kernel, by decide +kernel,
    by decide +kernel, fun c hc => ?_, by decide +kernel,
    fun c l hl hn ha => ?_, fun c l hl hh => ?_⟩
  · have q := nth_idx (l := atBarrier.teams) (p := fun j tm => (List.range tm.bars.length).all fun k =>
      (decide (j = 0) && decide (k = 1)) || !(nth tm.bars k).tset) (by decide +kernel) (fun _ => rfl) j
    have r := nth_idx (l := (nth atBarrier.teams j).bars) (p := fun k b => (decide (j = 0) && decide (k = 1)) || !b.tset) q
      (fun _ => by simp; right; rfl) k
    have r : ((decide (j = 0) && decide (k = 1)) || !(nth (nth atBarrier.teams j).bars k).tset) = true := r
    simp only [Bool.or_eq_true, Bool.and_eq_true, decide_eq_true_eq, Bool.not_eq_true'] at r
    rcases r with r | r
    · exact absurd r (by rcases h with h | h <;> simp_all)
    · exact r
  · have e : c = 0 := by
      have : (atBarrier.team 0).crews.length = 1 := by decide +kernel
      omega
    subst e
    exact joinsWait_of (by decide +kernel)
  · have q := nth_idx (l := (atBarrier.team 0).crews) (p := fun _ cr => (List.range cr.threads.length).all fun l =>
      decide ((cr.th l).state ≠ .active)) (by decide +kernel) (fun _ => rfl) c
    have r := nth_idx (l := (nth (atBarrier.team 0).crews c).threads) (p := fun l _ => decide (l < (nth (atBarrier.team 0).crews c).threads.length →
      ((nth (atBarrier.team 0).crews c).th l).state ≠ .active)) (List.all_eq_true.mpr fun i hi => decide_eq_true fun _ =>
        of_decide_eq_true (List.all_eq_true.mp q i hi)) (fun i => decide_eq_true fun h =>
        of_decide_eq_true (List.all_eq_true.mp q i (List.mem_range.mpr h))) l
    exact absurd ha (of_decide_eq_true r hn)
  · have q := nth_idx (l := (atBarrier.team 0).crews) (p := fun _ cr => (List.range 16).all fun l => !(cr.heldAt (.bar 1)).getLsbD l ||
      decide ((atBarrier.image 0).inside ((cr.th l).pc + 8) = true ∧
        (cr.th l).pc + 8 ≠ (atBarrier.image 0).nextClause ((atBarrier.image 0).headerOf (cr.th l).pc))) (by decide +kernel)
      (fun _ => by decide +kernel) c
    have r := all16 q l hl
    have hh : ((nth (atBarrier.team 0).crews c).heldAt (.bar 1)).getLsbD l = true := hh
    rw [hh] at r
    exact of_decide_eq_true r

/-- Lane 3 waits for the driver at a word of its clause. -/
def parkedState : State := stands (.nop g0) fun cr =>
  { (cr.modTh 3 fun th => { th with state := .parked, parkWhy := .report, pc := 0x10008 }) with bundle := 0xFFF7 }

theorem witness_KillsAndResumes :
    (∃ (s : State) (t : Nat), t < s.teams.length ∧ (s.team t).status = .resident ∧ (s.gridOf t).fe < s.fes.length ∧
      (s.team t).grid < s.grids.length) ∧
    (∃ (s : State) (g : Nat), (∀ t c l, (s.team t).grid = g → ((s.crew t c).inState Thread.waitsDriver).getLsbD l = true →
        (s.image t).inside ((s.crew t c).th l).pc = true) ∧
      (∀ t c, t < s.teams.length → c < (s.team t).crews.length → (s.crew t c).JoinsWait) ∧
      ((s.crew 0 0).inState Thread.waitsDriver).getLsbD 3 = true) ∧
    (∃ (s : State) (g : Nat), g < s.grids.length ∧ (s.grid g).retired = false) ∧
    ∃ (s : State) (t : Nat), t < s.teams.length ∧ (s.team t).status = .resident ∧ (s.gridOf t).record.disposition 12 ≠ 2 ∧
      ∀ c, (s.crew t c).long = none := by
  refine ⟨⟨stands (.nop g0) id, 0, by decide +kernel⟩,
    ⟨parkedState, 0, fun t c l _ h => ?_, fun t c ht hc => ?_, by decide +kernel⟩,
    ⟨stands (.nop g0) id, 0, by decide +kernel⟩,
    stands (.nop g0) id, 0, by decide +kernel, by decide +kernel, by decide +kernel, longs_of (by decide +kernel)⟩
  · have q := nth_idx (l := parkedState.teams) (p := fun t tm => (List.range tm.crews.length).all fun c => (List.range 16).all fun l =>
      !((nth tm.crews c).inState Thread.waitsDriver).getLsbD l || (parkedState.image t).inside ((nth tm.crews c).th l).pc)
      (by decide +kernel) (fun _ => rfl) t
    have r := nth_idx (l := (nth parkedState.teams t).crews) (p := fun _ cr => (List.range 16).all fun l =>
      !(cr.inState Thread.waitsDriver).getLsbD l || (parkedState.image t).inside (cr.th l).pc) q (fun _ => by
        apply List.all_eq_true.mpr
        intro l _
        have e : ((default : Crew).inState Thread.waitsDriver) = 0 := by decide +kernel
        simp [e]) c
    rcases Nat.lt_or_ge l 16 with k | k
    · have z := all16 r l k
      have h : ((nth (nth parkedState.teams t).crews c).inState Thread.waitsDriver).getLsbD l = true := h
      rw [h] at z
      exact z
    · rw [BitVec.getLsbD_of_ge _ _ k] at h
      cases h
  · have e : parkedState.teams.length = 1 := by decide +kernel
    have t0 : t = 0 := by omega
    subst t0
    have e : (parkedState.team 0).crews.length = 1 := by decide +kernel
    have c0 : c = 0 := by omega
    subst c0
    exact joinsWait_of (by decide +kernel)

theorem witness_KillsAndResumes_error : ∃ (s : State) (t : Nat), t < s.teams.length ∧ (s.team t).status = .resident ∧
    (s.gridOf t).record.disposition 12 = 2 :=
  ⟨(stands (.nop g0) id).modGrid 0 fun g => { g with record := { g.record with disp := 0x2000000 } }, 0, by decide +kernel⟩

/-- The grid's last team has retired. -/
def lastTeam (o : Origin) : State :=
  let s := (ended true).modTeam 0 fun tm => { tm with status := .retired }
  s.modGrid 0 fun g => { g with origin := o, ended := 1 }

/-- Such a grid, a child of a crew of another grid. -/
def lastChild : State :=
  let s := lastTeam (.child 1 0 9)
  { s with
    teams := s.teams ++ [{ s.team 0 with status := .resident, grid := 1, crews := [Crew.start 0x10008 0] }]
    grids := s.grids ++ [{ s.grid 0 with origin := .ring 0, handle := 2 }] }

theorem witness_Retirement :
    (∃ (s : State) (t c : Nat), s.crewOver t c = true ∧ s.noBarriers ∧ ∀ n, (nth (s.team t).conv n).state ≠ .armed) ∧
    (∃ (s : State) (t : Nat), s.teamOver t = true ∧ (s.team t).guard = none ∧ s.noBarriers ∧ t < s.teams.length ∧
      (s.team t).core < s.cores.length ∧ (s.team t).grid < s.grids.length) ∧
    (∃ (s : State) (g i : Nat), s.gridOver g = true ∧ (s.grid g).origin = .ring i ∧ (s.grid g).fe < s.fes.length) ∧
    ∃ (s : State) (g t c id : Nat), s.gridOver g = true ∧ (s.grid g).origin = .child t c id ∧ s.hasCrew t c ∧
      (s.team t).grid < s.grids.length ∧ (s.team t).grid ≠ g :=
  ⟨⟨ended false, 0, 0, by decide +kernel, noBarriers_of (by decide +kernel), fun n => of_decide_eq_true (nth_idx
      (l := ((ended false).team 0).conv) (p := fun _ k => decide (k.state ≠ .armed)) (by decide +kernel) (fun _ => rfl) n)⟩,
    ⟨ended true, 0, by decide +kernel, by decide +kernel, noBarriers_of (by decide +kernel), by decide +kernel⟩,
    ⟨lastTeam (.ring 5), 0, 5, by decide +kernel⟩,
    lastChild, 0, 1, 0, 9, by decide +kernel, by decide +kernel, ⟨by decide +kernel, by decide +kernel⟩, by decide +kernel,
    by decide +kernel⟩

/-- A grid of the ring with one team to place, of a kernel of two words at 4 KiB. -/
def waitingGrid : Grid :=
  { (default : Grid) with
    record := { programRecord 0 with partition := 4244, entry := 0x1000 }
    needs := { (default : Needs) with vregs := 16, codelen := 16 }
    handle := 1 }

/-- Its front end has save areas of 16 MiB. -/
def toPlace : State :=
  { (mapped State.reset).modFe 0 (fun f => { f with saveBase := 0x1000000, saveSize := 0x1000000, hbmLimit := 0x10000000 }) with grids := [waitingGrid] }

/-- The team on core 0, its image not yet read. -/
def imageless (m : Sparse 8) : State :=
  { toPlace with teams := [{ Team.start 0 0 waitingGrid.record with status := .resident }], mem := m }

/-- Crew 0's registers stand in granule 2 of the vector share. -/
def blocked : State :=
  let s := (stands (.nop g0) fun cr => { cr with bundle := 0, vbase := 2 }).modGrid 0 fun g =>
    { g with record := { g.record with partition := 4244 } }
  s.modCore 0 fun c => { c with blocks := [⟨0, 2, 1, 0, 0⟩] }

def imageOf (s : State) : Except NoPage (List Byte × State) := s.get (feDie (s.grid 0).fe) (s.grid 0).fe .frontEnd 0x1000 16

def imageBytes (s : State) : List Byte := (got ([], s) (imageOf s)).1

def imageWords (s : State) : List Word64 :=
  (List.range (((imageBytes s).length + 7) / 8)).map fun i => BitVec.ofNat 64 (ofBytes (((imageBytes s).drop (8 * i)).take 8))

theorem witness_PlacementAndImages :
    (∃ (s : State) (g core j : Nat) (w : WaitUnit), s.nextUnit g = some w ∧ w.grid = g ∧ w.members = [(s.teams.length, j)] ∧
      (s.grid g).record.coop = false ∧ (s.give w core).isSome = true ∧ g < s.grids.length) ∧
    (∃ (s : State), s.imageDue 0 0 = true ∧ 0 < s.cores.length ∧ (s.grid 0).record.entry.toNat = 0x1000 ∧
      (s.grid 0).needs.image = 16 ∧ imageOf s = .ok (got ([], s) (imageOf s)) ∧ (s.grid 0).needs.codelen % 8 = 0 ∧
      walkHeaders ((s.grid 0).needs.codelen / 8 + 1) (imageWords s) 0 ((s.grid 0).needs.codelen / 8) = some [0] ∧
      (got ([], s) (imageOf s)).2.queuesEmpty 0 = true) ∧
    (∃ (s : State), s.imageDue 0 0 = true ∧ 0 < s.cores.length ∧ (s.grid 0).record.entry.toNat = 0x1000 ∧
      (s.grid 0).needs.image = 16 ∧ imageOf s = .ok (got ([], s) (imageOf s)) ∧ (s.grid 0).needs.codelen % 8 = 0 ∧
      walkHeaders ((s.grid 0).needs.codelen / 8 + 1) (imageWords s) 0 ((s.grid 0).needs.codelen / 8) = some [0] ∧
      (got ([], s) (imageOf s)).2.queuesEmpty 0 = false) ∧
    (∃ (s : State), s.imageDue 0 0 = true ∧ 0 < s.cores.length ∧ (s.grid 0).record.entry.toNat = 0x1000 ∧
      (s.grid 0).needs.image = 16 ∧ imageOf s = .ok (got ([], s) (imageOf s)) ∧ (s.grid 0).needs.codelen % 8 = 0 ∧
      walkHeaders ((s.grid 0).needs.codelen / 8 + 1) (imageWords s) 0 ((s.grid 0).needs.codelen / 8) = none ∧ 0 < s.grids.length) ∧
    ∃ (s : State) (core i first : Nat), core < s.cores.length ∧ i < (s.core core).blocks.length ∧
      (nth (s.core core).blocks i).size ≠ 0 ∧ s.mayMove (nth (s.core core).blocks i) = true ∧
      first % (nth (s.core core).blocks i).size = 0 ∧
      first + (nth (s.core core).blocks i).size ≤
        (s.gridOf (nth (s.core core).blocks i).team).record.granules (nth (s.core core).blocks i).share ∧
      freeRange ((s.core core).blocks.eraseIdx i) (nth (s.core core).blocks i).share first (nth (s.core core).blocks i).size = true ∧
      s.hasCrew (nth (s.core core).blocks i).team (nth (s.core core).blocks i).crew :=
  ⟨⟨toPlace, 0, 0, 0, ⟨0, false, [(0, 0)]⟩, by decide +kernel, rfl, by decide +kernel⟩,
    ⟨imageless [], by decide +kernel, by decide +kernel, by decide +kernel, by decide +kernel, got_of (by decide +kernel),
      by decide +kernel⟩,
    ⟨{ imageless [] with log := [entryAt (.st .b32) (.ready (.phys 64))] }, by decide +kernel, by decide +kernel, by decide +kernel,
      by decide +kernel, got_of (by decide +kernel), by decide +kernel⟩,
    ⟨imageless [(0x1007, 0xA0)], by decide +kernel, by decide +kernel, by decide +kernel, by decide +kernel,
      got_of (by decide +kernel), by decide +kernel⟩,
    blocked, 0, 0, 3, by decide +kernel, by decide +kernel, by decide +kernel, of_decide_eq_true (by decide +kernel), by decide +kernel,
    by decide +kernel, of_decide_eq_true (by decide +kernel), ⟨by decide +kernel, by decide +kernel⟩⟩

/-- A team that is being saved, one that is saved. -/
def savingTeam : State := (stands (.nop g0) id).modTeam 0 fun tm => { tm with saving := true }
def savedTeam (p : TilePlace) : State :=
  let s := (stands (.nop g0) fun cr => { cr with bundle := 0 }).modGrid 0 fun g =>
    { g with record := { g.record with partition := 4244 }, needs := { g.needs with vregs := 16, spadb := 0, atiles := 1 } }
  s.modTeam 0 fun tm => { tm with status := .saved, tilesAt := p }

/-- A core held by front end 0 past its quantum, while a grid of front end 1 waits. -/
def expired : State :=
  let s := (stands (.nop g0) id).modFe 0 fun f => { f with quantum := 1 }
  { s.modCore 0 (fun c => { c with holder := some 0, count := 2 }) with grids := s.grids ++ [{ waitingGrid with fe := 1 }] }

/-- A team of priority 0 on core 0, the other cores of the cluster of another partition, and a grid of priority 1 that does not fit
beside it. -/
def outranked : State :=
  let s := (stands (.nop g0) id).modFe 0 fun f => { f with saveBase := 0x1000000, saveSize := 0x1000000, hbmLimit := 0x10000000 }
  let s := [1, 2, 3].foldl (fun s k => s.modCore k fun c => { c with partition := some 1 }) s
  { s.modCore 0 (fun c => { c with partition := some 0 }) with
    grids := s.grids ++ [{ waitingGrid with record := { waitingGrid.record with mode := 1024 }, needs := { waitingGrid.needs with vregs := 16 } }] }

theorem witness_SavesAndRestores :
    (∃ (s : State) (t : Nat), s.saveReady t = true ∧ t < s.teams.length ∧ (∀ e ∈ s.log, e.team ≠ t) ∧ (∀ k ∈ s.copies, k.team ≠ t) ∧
      (∀ m ∈ s.mops, m.team ≠ t) ∧ (∀ k ∈ s.tasks, k.team ≠ t) ∧ (s.team t).core < s.cores.length ∧
      (∀ k, k < s.teams.length → k ≠ t → s.takesAlong t k = false) ∧ ∀ c, (s.crew t c).long = none) ∧
    (∃ (s : State) (t : Nat), s.stopped t = true ∧ s.portCrews t ≠ [] ∧
      ∀ e ∈ s.log, e.team = t → ∀ a ∈ e.lanes, a.status.isTrapping = false) ∧
    (∃ (s : State) (core : Nat), core < s.cores.length ∧ core / 64 < s.dies.length) ∧
    (∃ (s : State) (t i core : Nat) (w : WaitUnit), s.backUnitOf t = some w ∧ w.members = [(t, i)] ∧ t < s.teams.length ∧
      (s.grid w.grid).record.coop = false ∧ (s.give w core).isSome = true) ∧
    (∃ (s : State) (core h : Nat), core < s.cores.length ∧ core / 64 < s.dies.length ∧ s.holderOf core = some h ∧
      (s.fe h).quantum ≠ 0 ∧ (s.fe h).quantum.toNat < (s.core core).count ∧
      ∃ w ∈ s.allUnits, (s.grid w.grid).fe ≠ h ∧ s.coreOpen (s.grid w.grid).fe core = true ∧
        ∀ t ∈ s.teamsOn core, (s.gridOf t).fe = h → (s.gridOf t).record.prio ≤ (s.grid w.grid).record.prio) ∧
    (∃ (s : State) (core : Nat), (s.heldOn core).filter (fun t => (s.team t).tilesAt == .held) ≠ [] ∧
      ((s.heldOn core).filter fun t => (s.team t).tilesAt == .held).all
        (fun t => ((s.gridOf t).record.partition.extractLsb' 10 5).toNat == 24) = false) ∧
    (∃ (s : State) (core : Nat), (s.heldOn core).filter (fun t => (s.team t).tilesAt == .held) ≠ [] ∧
      ((s.heldOn core).filter fun t => (s.team t).tilesAt == .held).all
        (fun t => ((s.gridOf t).record.partition.extractLsb' 10 5).toNat == 24) = true ∧
      (s.heldOn core).filter (fun t => (s.team t).tilesAt == .surplus) = []) ∧
    ∃ (s : State) (g core : Nat) (w : WaitUnit) (k : Nat × Nat),
      (s.unitsOf g).find? (fun u => s.starved u && s.fitsEmptied u core) = some w ∧ s.lowestOn core = some k ∧
      k.1 < (s.grid g).record.prio ∧ s.coreOpen (s.grid g).fe core = true ∧
      ∀ c ∈ s.coresIn (s.grid g).fe, ∀ o, s.lowestOn c = some o → k.1 ≤ o.1 ∧ (o.1 = k.1 → o.2 ≤ k.2) :=
  ⟨⟨savingTeam, 0, by decide +kernel, by decide +kernel, by decide +kernel, by decide +kernel, by decide +kernel, by decide +kernel,
      by decide +kernel, by decide +kernel, longs_of (by decide +kernel)⟩,
    ⟨savingTeam.modCrew 0 0 fun cr => { cr with ports := [1] }, 0, by decide +kernel⟩, ⟨State.reset, 255, by decide +kernel⟩,
    ⟨savedTeam .area, 0, 0, 1, ⟨0, true, [(0, 0)]⟩, by decide +kernel⟩,
    ⟨expired, 0, 0, by decide +kernel, by decide +kernel, by decide +kernel, by decide +kernel, by decide +kernel,
      ⟨1, false, [(1, 0)]⟩, by decide +kernel⟩,
    ⟨savedTeam .held, 0, by decide +kernel⟩,
    ⟨(savedTeam .held).modGrid 0 fun g => { g with record := { g.record with partition := 24 * 1024 + 66 } }, 0, by decide +kernel⟩,
    outranked, 1, 0, ⟨1, false, [(1, 0)]⟩, (0, 0), by decide +kernel⟩

/-! ### Translation, front ends, graphs, links, migration, the host -/

/-- Die 0 has asked for page 0, for a load of the one crew; the device's BAR2 stands at 2^44 of the host. -/
def asking : State :=
  { (logged (.ld .b32 (.v 5)) .ats).modDie 0 (fun d => { d with requests := [⟨0, 0, false, 0, 0, .frontEnd⟩] }) with bars := [0x100000000000] }

theorem witness_TranslationEvents :
    (∃ (s : State) (die pa tier h : Nat) (pasid : BitVec 20) (page : BitVec 44) (write wr : Bool) (w : PageWait),
      (s.die die).requests.find? (fun k => k.pasid == pasid && k.page == page && k.write == write) = some w ∧
      s.fromHost h = some (pa, tier) ∧ 4096 ≤ tier ∧ (write = true → wr = true) ∧
      (s.die die).tlb.countP (fun k => k.slot == (64, page.toNat % 768)) < 16 ∧
      (s.accOf 0 0).map LaneAcc.status = some .ats) ∧
    (∃ (s : State) (die i id lane : Nat) (w : PageWait) (e : LogEntry) (a : LaneAcc), s.logEntry id = some e ∧
      e.acc lane = some a ∧ (s.die die).requests.find? (fun k => k.pasid == w.pasid && k.page == w.page && k.write == w.write)
        = some w ∧ s.askers die w = [(id, lane, e.core, s.feOf e.team)] ∧ e.kind.silent = false ∧ die < s.dies.length ∧
      (s.die die).fbuf.length = 8 ∧ i < 8 ∧ (nth (s.die die).fbuf i).valid = false ∧
      (∀ j, j < i → (nth (s.die die).fbuf j).valid = true) ∧
      (∀ j, j < 8 → ¬((nth (s.die die).fbuf j).valid = true ∧ (nth (s.die die).fbuf j).page = w.page)) ∧
      (s.die die).asking = []) ∧
    (∃ (s : State) (die i : Nat) (r : Fin 4), i < (s.die die).fbuf.length ∧ die < s.dies.length ∧
      (nth (s.die die).fbuf i).valid = true ∧ (nth (s.die die).fbuf i).sent = true ∧ (nth (s.die die).fbuf i).resp = 0 ∧ r ≠ 0 ∧
      ∀ t, (s.team t).blocked ≠ some (die, i)) ∧
    (∃ (s : State) (die i : Nat), i < (s.die die).fbuf.length ∧ die < s.dies.length ∧ (nth (s.die die).fbuf i).valid = true ∧
      (nth (s.die die).fbuf i).sent = false ∧ (nth (s.die die).fbuf i).resp = 0) ∧
    (∃ (s : State) (die i : Nat), i < (s.die die).fbuf.length ∧ die < s.dies.length ∧ (nth (s.die die).fbuf i).resp ≠ 0) ∧
    (∃ (s : State) (die i : Nat), i < (s.die die).fbuf.length ∧ die < s.dies.length ∧ (nth (s.die die).fbuf i).valid = false ∧
      (nth (s.die die).fbuf i).resp = 0) ∧
    (∃ (s : State) (die : Nat), die < s.dies.length ∧ (s.die die).replaying = false ∧ (s.log.map LogEntry.id).Nodup ∧
      s.replayDone die = false) ∧
    (∃ (s : State) (die : Nat), die < s.dies.length ∧ (s.die die).replaying = true) ∧
    (∃ (s : State) (die : Nat), die < s.dies.length ∧ s.replayDone die = true ∧ (s.die die).replayAgain = false) ∧
    ∃ (s : State) (die : Nat), die < s.dies.length ∧ s.replayDone die = false := by
  refine ⟨⟨asking, 0, 64, 2097152, 0x100000000040, 0, 0, false, false, ⟨0, 0, false, 0, 0, .frontEnd⟩, by decide +kernel⟩,
    ⟨asking, 0, 0, 0, 0, ⟨0, 0, false, 0, 0, .frontEnd⟩, entryAt (.ld .b32 (.v 5)) .ats, accAt .ats, by decide +kernel⟩,
    ⟨State.reset.modDie 2 fun d => { d with fbuf := upd d.fbuf 7 fun f => { f with valid := true, sent := true } }, 2, 7, 3,
      by decide +kernel, by decide +kernel, by decide +kernel, by decide +kernel, by decide +kernel, by decide, fun t => ?_⟩,
    ⟨State.reset.modDie 2 fun d => { d with fbuf := upd d.fbuf 7 fun f => { f with valid := true } }, 2, 7, by decide +kernel⟩,
    ⟨State.reset.modDie 2 fun d => { d with fbuf := upd d.fbuf 7 fun f => { f with valid := true, resp := 1 } }, 2, 7, by decide +kernel⟩,
    ⟨State.reset, 3, 0, by decide +kernel⟩,
    ⟨logged (.st .b32) (.fault none), 0, by decide +kernel⟩,
    ⟨State.reset.modDie 1 fun d => { d with replaying := true }, 1, by decide +kernel⟩,
    ⟨State.reset.modDie 1 fun d => { d with replaying := true }, 1, by decide +kernel⟩,
    State.reset, 1, by decide +kernel⟩
  show (nth ([] : List Team) t).blocked ≠ _
  rw [nth_nil]
  decide

/-- The record of `launchable` as a number. -/
def goodRecord (entry : Nat) : Nat := entry * 2 ^ 16 + 2 ^ 64 + 2 ^ 96 + 2 ^ 112 + 2 ^ 128 + 0x1094 * 2 ^ 320

/-- Front end 0 with its ring of two entries and its record ring of four at mapped addresses; the entry at hand, and the
kernel. -/
def ringing (entry : Nat) : State :=
  let f : FrontEnd → FrontEnd := fun f => { f with
    ringBase := 0x2000, ringEn := true, ringSize := 2, ringWr := 2, recBase := 0x3000, recSize := 4, pending := [5] }
  { (mapped State.reset).modFe 0 f with ready := true, mem := cells 0x2000 256 (goodRecord entry) ++ [(0xFFFF0, 16)] }

def entryRead (s : State) : Except NoPage (List Byte × State) := s.get (feDie 0) 0 .frontEnd (s.fe 0).entryAt 256

def isFine (r : Checked22) : Option Needs :=
  match r with
  | .fine n => some n
  | _ => none

/-- A front end whose removed clusters hold its resident team, or none. -/
def shrinking (removed : List Nat) : State :=
  (stands (.nop g0) id).modFe 0 fun f => { f with part := 0x0101, shrinking := true, removed := removed }

/-- A cooperative grid of two clusters' need in such a range, every thread held. -/
def coopDrain : State :=
  let s := (stands (.nop g0) fun cr => { cr with
    bundle := 0, threads := cr.threads.map fun th => { th with state := .held, holdAt := .bar 1 } }).modGrid 0 fun g =>
    { g with record := { g.record with mode := 4 + 2 * 8 } }
  s.modFe 0 fun f => { f with part := 0x0101, cut := true }

theorem witness_FrontEndEvents :
    (∃ (s : State) (w : BitVec 32), 0 < s.fes.length ∧ (s.fe 0).ringEn = true ∧ w.toNat < 2 * (s.fe 0).ringSize.toNat ∧
      (w.toNat + 2 ^ 32 - (s.fe 0).ringRd.toNat) % (2 * (s.fe 0).ringSize.toNat) ≤ (s.fe 0).ringSize.toNat) ∧
    (∃ (s : State) (w : BitVec 32), 0 < s.fes.length ∧ (s.fe 0).ringEn = true ∧
      (2 * (s.fe 0).ringSize.toNat ≤ w.toNat ∨
        (s.fe 0).ringSize.toNat < (w.toNat + 2 ^ 32 - (s.fe 0).ringRd.toNat) % (2 * (s.fe 0).ringSize.toNat))) ∧
    (∃ (s : State) (v : BitVec 32), 0 < s.fes.length ∧ v.getLsbD 31 = true ∧ (s.fe 0).ringEn = false ∧
      (∃ k, k ≤ 16 ∧ (v.extractLsb' 0 17).toNat = 2 ^ k) ∧ isGlobal (s.fe 0).ringBase.toNat = true ∧
      (s.fe 0).ringBase.toNat < 2 ^ 56) ∧
    (∃ (v : BitVec 32), v.getLsbD 31 = true ∧ ¬ ∃ k, k ≤ 16 ∧ (v.extractLsb' 0 17).toNat = 2 ^ k) ∧
    (∃ (s : State) (needs : Needs), 0 < s.fes.length ∧ s.entryDue 0 = true ∧ entryRead s = .ok (got ([], s) (entryRead s)) ∧
      numAt (got ([], s) (entryRead s)).1 7 1 = 0 ∧
      isFine ((got ([], s) (entryRead s)).2.validate 0 .frontEnd (Launch.ofBytes (got ([], s) (entryRead s)).1) true 0 0) = some needs) ∧
    (∃ (s : State), 0 < s.fes.length ∧ s.entryDue 0 = true ∧ entryRead s = .ok (got ([], s) (entryRead s)) ∧
      numAt (got ([], s) (entryRead s)).1 7 1 = 0 ∧
      isMalformed ((got ([], s) (entryRead s)).2.validate 0 .frontEnd (Launch.ofBytes (got ([], s) (entryRead s)).1) true 0 0) = true) ∧
    (∃ (s : State) (r : BitVec 256) (rest : List (BitVec 256)) (pa : Nat), (s.fe 0).pending = r :: rest ∧ (s.fe 0).recFull = false ∧
      s.walkRefused (feDie 0) 0 0 (s.fe 0).recAt true .frontEnd = false ∧
      (s.walk (feDie 0) 0 0 (s.fe 0).recAt true .frontEnd).1 = some pa) ∧
    (∃ (s : State), (s.fe 0).shrinking = true ∧ s.rangeBusy 0 = false ∧ (s.fe 0).recBlocked = false) ∧
    (∃ (s : State), s.rangeBusy 0 = true) ∧ ∃ (s : State) (g : Nat), s.drainPoint g = true := by
  refine ⟨⟨ringing 16, 2, by decide +kernel⟩,
    ⟨ringing 16, 3, by decide +kernel⟩,
    ⟨(ringing 16).modFe 0 fun f => { f with ringEn := false }, 0x80010000, by decide +kernel, by decide, by decide +kernel,
      ⟨16, by decide +kernel⟩, by decide +kernel⟩,
    ⟨0x80000003, by decide, fun ⟨k, hk, e⟩ => ?_⟩,
    ⟨ringing 16, ⟨16, 0, 0, 0, 0, 0, 0⟩, by decide +kernel, by decide +kernel, got_of (by decide +kernel), by decide +kernel⟩,
    ⟨ringing 0, by decide +kernel, by decide +kernel, got_of (by decide +kernel), by decide +kernel⟩,
    ⟨ringing 16, 5, [], 0x3000, by decide +kernel⟩,
    ⟨shrinking [5], by decide +kernel⟩, ⟨shrinking [0], by decide +kernel⟩,
    coopDrain, 0, by decide +kernel⟩
  have : (List.range 17).all (fun k => decide ((BitVec.extractLsb' 0 17 (0x80000003 : BitVec 32)).toNat ≠ 2 ^ k)) = true := by decide
  exact of_decide_eq_true (List.all_eq_true.mp this k (List.mem_range.mpr (by omega))) e

/-- A submission of a binary of two nodes, the second of which reads block 0 that the first makes, evicted since. -/
def binary (entry : Nat) : Binary :=
  { (default : Binary) with
    nodes := [⟨BitVec.ofNat 2048 (goodRecord entry), 0, []⟩, ⟨BitVec.ofNat 2048 (goodRecord entry), 0, [0]⟩]
    blocks := [default]
    classes := [{ (default : TicketClass) with bwdFirst := 1, bwdLast := 1, lambda := [0] }] }

def submitted (entry : Nat) (u : Submission) : State :=
  { mapped State.reset with subs := [u], bins := [binary entry], mem := [(0xFFFF0, 16)], grids := [waitingGrid] }

def twoNodes : Submission := { (default : Submission) with count := 2, started := true }
def evictedNodes : Submission :=
  { (default : Submission) with count := 2, started := true, launched := 1, grids := [(0, 0)], retiredNodes := [0], evicted := [0] }

def redemption (st : RedeemStage) : Redemption :=
  { (default : Redemption) with table := 0x2000, stage := st, vregion := 0x4000, version := 1 }

def redeems (st : RedeemStage) : Submission :=
  { (default : Submission) with count := 0, started := true, redemption := some (redemption st) }

/-- The record of the next node of submission 0. -/
def nodeRead (s : State) : Except NoPage (Launch × State) := s.nodeRecord 0 ((s.sub 0).first + (s.sub 0).launched)

def nodeAnswer (s : State) : Checked22 :=
  let r := got (default, s) (nodeRead s)
  r.2.validate (s.sub 0).fe (.sub 0) r.1 true (s.bin (s.sub 0).bin).curves.length (s.bin (s.sub 0).bin).bmaps.length

theorem witness_GraphEvents_nodes :
    (∃ (s : State) (needs : Needs), 0 < s.subs.length ∧ (s.sub 0).isOver = false ∧ s.nodeReady 0 = true ∧ (s.sub 0).live = [] ∧
      (s.sub 0).evicted = [] ∧ (s.sub 0).started = true ∧ nodeRead s = .ok (got (default, s) (nodeRead s)) ∧
      nodeAnswer s = .fine needs) ∧
    (∃ (s : State), 0 < s.subs.length ∧ (s.sub 0).isOver = false ∧ s.nodeReady 0 = true ∧ (s.sub 0).live = [] ∧
      (s.sub 0).evicted = [] ∧ (s.sub 0).started = true ∧ nodeRead s = .ok (got (default, s) (nodeRead s)) ∧
      isMalformed (nodeAnswer s) = true ∧ (s.sub 0).fe < s.fes.length) ∧
    ∃ (s : State) (i g : Nat), 0 < s.subs.length ∧ s.replayDue 0 i = true ∧ (s.sub 0).live = [] ∧
      (s.sub 0).grids.find? (fun q => q.1 == (nth (s.bin (s.sub 0).bin).blocks i).producer) =
        some ((nth (s.bin (s.sub 0).bin).blocks i).producer, g) :=
  ⟨⟨submitted 16 twoNodes, ⟨16, 0, 0, 0, 0, 0, 0⟩, by decide +kernel, by decide +kernel, by decide +kernel, of_decide_eq_true (by decide +kernel),
      by decide +kernel, by decide +kernel, got_of (by decide +kernel), by decide +kernel⟩,
    ⟨submitted 0 twoNodes, by decide +kernel, by decide +kernel, by decide +kernel, of_decide_eq_true (by decide +kernel), by decide +kernel,
      by decide +kernel, got_of (by decide +kernel), by decide +kernel⟩,
    submitted 16 evictedNodes, 0, 0, by decide +kernel⟩

/-- The header of the version region that redemption `r` names. -/
def versionRead (s : State) (r : Redemption) : Except NoPage (Nat × State) :=
  s.versionHead (feDie (s.sub 0).fe) (s.sub 0).fe (.sub 0) r.region

/-- A redemption whose update node is ready and whose λ[0] is 1. -/
def updating : State :=
  let b := binary 16
  { submitted 16 (redeems .backward) with bins := [{ b with classes := b.classes.map fun c => { c with lambda := [0x3F800000] } }] }

/-- λ[d], the state after the header of its region is read and λ noted, and the draft opened there. -/
def lambdaAt (s : State) (r : Redemption) (q : Nat × State) : Word32 :=
  nth (s.ticketClass 0).lambda (q.1 % 2 ^ 32 - r.version.toNat)

def noted (s : State) (r : Redemption) (q : Nat × State) : State :=
  q.2.modRedemption 0 fun k => { k with lambda := some (lambdaAt s r q) }

def drafted (s : State) (r : Redemption) (q : Nat × State) : Except NoPage (Nat × State) :=
  (noted s r q).openDraft (feDie (s.sub 0).fe) (s.sub 0).fe (.sub 0) r.region

/-- The header of the region. -/
def headAt (s : State) (r : Redemption) : Nat × State := got (0, s) (versionRead s r)

theorem pair_of {d : State} {r : Except NoPage (Nat × State)} (h : gives r = true ∧ (got (1, d) r).1 = 0) :
    r = .ok (0, (got (1, d) r).2) := by
  match r, h with
  | .ok (n, s), h =>
    have e : n = 0 := h.2
    rw [e]
    rfl
  | .error e, h => cases h.1

theorem witness_GraphEvents_redemptions :
    (∃ (s : State) (r : Redemption), 0 < s.subs.length ∧ (s.sub 0).redemption = some r ∧ s.subTurn 0 = true ∧
      (s.sub 0).failed = false ∧ r.stage = .expand ∧ s.expandInput 0 r = .ok (got s (s.expandInput 0 r)) ∧
      (got s (s.expandInput 0 r)).subs = s.subs) ∧
    (∃ (s : State) (r : Redemption), 0 < s.subs.length ∧ (s.sub 0).redemption = some r ∧ s.subTurn 0 = true ∧
      (s.sub 0).failed = false ∧ r.stage = .forward ∧ (s.sub 0).rangeDone = true) ∧
    (∃ (s : State) (r : Redemption) (q : Nat × State), 0 < s.subs.length ∧ (s.sub 0).redemption = some r ∧
      s.updateReady 0 = true ∧ r.region ≠ 0 ∧ r.lambda = none ∧ versionRead s r = .ok q ∧ (lambdaAt s r q).toNat % 2 ^ 31 = 0 ∧
      (noted s r q).dropRedemption 0 r = .ok (got s ((noted s r q).dropRedemption 0 r)) ∧
      (got s ((noted s r q).dropRedemption 0 r)).subs.length = s.subs.length) ∧
    (∃ (s : State) (r : Redemption) (q : Nat × State), 0 < s.subs.length ∧ (s.sub 0).redemption = some r ∧
      s.updateReady 0 = true ∧ r.region ≠ 0 ∧ r.lambda = none ∧ versionRead s r = .ok q ∧ (lambdaAt s r q).toNat % 2 ^ 31 ≠ 0 ∧
      drafted s r q = .ok (0, (got (1, s) (drafted s r q)).2) ∧ (got (1, s) (drafted s r q)).2.subs = (noted s r q).subs) ∧
    ∃ (s : State) (r : Redemption), 0 < s.subs.length ∧ (s.sub 0).redemption = some r ∧ s.updateRetired 0 = true ∧
      r.drafting = false ∧ s.commitUpdate 0 r = .ok (got s (s.commitUpdate 0 r)) ∧
      (got s (s.commitUpdate 0 r)).subs.length = s.subs.length :=
  ⟨⟨submitted 16 (redeems .expand), redemption .expand, by decide +kernel, by decide +kernel, by decide +kernel, by decide +kernel, rfl,
      got_of (by decide +kernel), by decide +kernel⟩,
    ⟨submitted 16 (redeems .forward), redemption .forward, by decide +kernel, by decide +kernel, by decide +kernel, by decide +kernel, rfl,
      by decide +kernel⟩,
    ⟨submitted 16 (redeems .backward), redemption .backward, headAt (submitted 16 (redeems .backward)) (redemption .backward),
      by decide +kernel, by decide +kernel, by decide +kernel, by decide +kernel, rfl, got_of (by decide +kernel), by decide +kernel,
      got_of (by decide +kernel), by decide +kernel⟩,
    ⟨updating, redemption .backward, headAt updating (redemption .backward),
      by decide +kernel, by decide +kernel, by decide +kernel, by decide +kernel, rfl, got_of (by decide +kernel), by decide +kernel,
      pair_of (by decide +kernel), by decide +kernel⟩,
    submitted 16 (redeems .update), redemption .update, by decide +kernel, by decide +kernel, by decide +kernel, rfl,
    got_of (by decide +kernel), by decide +kernel⟩

def linked (t : Bool) (kept : List KeptFrame) : State :=
  { State.reset with links := upd State.reset.links 3 fun l => { l with trained := t, tx := { l.tx with kept := kept } } }

/-- A data frame of an uncoded flit of zeros: length 256, the sequence number, a check. -/
def rawFrame (seq check : Nat) : List Byte := bytesOf 8 (256 * 2 ^ 11 + seq * 2 ^ 20 + check * 2 ^ 32) ++ List.replicate 256 0

/-- The check of the frame with sequence number 0, thirty-two bytes at a time. -/
theorem crc_head : (bytesOf 8 0x80000).foldl crcStep (BitVec.allOnes 32) = 0x13D1556A := by decide +kernel
theorem crc_zero_0 : (List.replicate 32 (0 : Byte)).foldl crcStep 0x13D1556A = 0xB105A4C0 := by decide +kernel
theorem crc_zero_1 : (List.replicate 32 (0 : Byte)).foldl crcStep 0xB105A4C0 = 0x94CE43E4 := by decide +kernel
theorem crc_zero_2 : (List.replicate 32 (0 : Byte)).foldl crcStep 0x94CE43E4 = 0xE913B0A0 := by decide +kernel
theorem crc_zero_3 : (List.replicate 32 (0 : Byte)).foldl crcStep 0xE913B0A0 = 0xF506BD64 := by decide +kernel
theorem crc_zero_4 : (List.replicate 32 (0 : Byte)).foldl crcStep 0xF506BD64 = 0x96E773E1 := by decide +kernel
theorem crc_zero_5 : (List.replicate 32 (0 : Byte)).foldl crcStep 0x96E773E1 = 0x7D5DE887 := by decide +kernel
theorem crc_zero_6 : (List.replicate 32 (0 : Byte)).foldl crcStep 0x7D5DE887 = 0x93079A39 := by decide +kernel
theorem crc_zero_7 : (List.replicate 32 (0 : Byte)).foldl crcStep 0x93079A39 = 0xE2130FD8 := by decide +kernel
theorem crc_frame : crc32c (bytesOf 8 0x80000 ++ List.replicate 256 0) = 0x1DECF027 := by
  have e : List.replicate 256 (0 : Byte) = (((((((List.replicate 32 0 ++ List.replicate 32 0) ++ List.replicate 32 0) ++
    List.replicate 32 0) ++ List.replicate 32 0) ++ List.replicate 32 0) ++ List.replicate 32 0) ++ List.replicate 32 0) := by
    simp only [List.replicate_append_replicate]
  unfold crc32c
  rw [e]
  simp only [List.foldl_append, crc_head, crc_zero_0, crc_zero_1, crc_zero_2, crc_zero_3, crc_zero_4, crc_zero_5, crc_zero_6, crc_zero_7]
  decide

theorem frame_stands : frameOk (rawFrame 0 0x1DECF027) = true := by
  have h : ofBytes ((rawFrame 0 0x1DECF027).take 8) = 0x1DECF02700080000 := by decide +kernel
  have p : (rawFrame 0 0x1DECF027).drop 8 = List.replicate 256 0 := by decide +kernel
  have m : 0x1DECF02700080000 % 2 ^ 32 = 0x80000 := by decide
  unfold frameOk
  simp only [h, p, m, crc_frame]
  decide +kernel

def frame7 : KeptFrame := ⟨7, 0, 0, [], [], false⟩
def frame8 : KeptFrame := ⟨8, 0, 0, [], [], false⟩

theorem witness_LinkFrames :
    (∃ (s : State) (k : Nat), k < s.links.length ∧ (s.link k).trained = false) ∧
    (∃ (s : State) (k : Nat) (fr : List Byte), k < s.links.length ∧ (s.link k).trained = true ∧ frameOk fr = true ∧
      ofBytes (fr.take 8) / 2 ^ 20 % 2 ^ 12 = (s.link k).rx.seq.toNat ∧ ofBytes (fr.take 8) / 2 ^ 8 % 8 = 0) ∧
    (∃ (s : State) (k : Nat) (fr : List Byte), k < s.links.length ∧ (s.link k).trained = true ∧
      ofBytes (fr.take 8) / 2 ^ 20 % 2 ^ 12 ≠ (s.link k).rx.seq.toNat ∧ ofBytes (fr.take 8) / 2 ^ 8 % 8 < 6) ∧
    (∃ (s : State) (k : Nat) (fr : List Byte), k < s.links.length ∧ (s.link k).trained = true ∧
      controlSeq 1 fr = none ∧ controlSeq 2 fr = none) ∧
    (∃ (s : State) (k : Nat) (old new : List KeptFrame) (f : KeptFrame), k < s.links.length ∧ (s.link k).trained = true ∧
      (s.link k).tx.kept = old ++ f :: new ∧ ∀ g ∈ old, g.seq ≠ f.seq) ∧
    (∃ (s : State) (k : Nat), k < s.links.length ∧ (s.link k).trained = true ∧ (s.link k).tx.kept = []) ∧
    ∃ (s : State) (k : Nat), k < s.links.length ∧ (s.link k).trained = false ∧ s.routeNames k = true ∧ (s.link k).tx.kept = [] :=
  ⟨⟨State.reset, 11, by decide +kernel⟩,
    ⟨linked true [], 3, rawFrame 0 0x1DECF027, by decide +kernel, by decide +kernel, frame_stands, by decide +kernel⟩,
    ⟨linked true [], 3, rawFrame 1 0, by decide +kernel⟩,
    ⟨linked true [], 3, [], by decide +kernel⟩,
    ⟨linked true [frame7, frame8], 3, [frame7], [], frame8, by decide +kernel⟩,
    ⟨linked true [], 3, by decide +kernel⟩,
    (linked false []).modDie 0 fun d => { d with routes := [8] }, 3, by decide +kernel⟩

/-- A load whose answer is to come from a peer over link 3. -/
def peering : State :=
  { (logged (.ld .b32 (.v 5)) (.peer (.phys (2 ^ 51)))).modDie 0 (fun d => { d with routes := upd d.routes 0 fun _ => 8 }) with
    links := (linked true []).links }

/-- Front end 0 has resumed with one landing page. -/
def landed (wanted : Bool) (ps : Nat) : State :=
  State.reset.modFe 0 fun f => { f with migState := .resumed, landing := [⟨0, 0, ps, wanted, false⟩] }

theorem witness_PeersAndPages :
    (∃ (s : State) (pa : Nat) (e : LogEntry) (a : LaneAcc), Waits s 0 0 e a ∧ a.status = .peer (.phys pa) ∧
      s.routed (e.core / 64) pa = true ∧ e.kind = .ld .b32 (.v 5) ∧ e.uniform = false ∧
      0 < (s.crew e.team e.crew).threads.length ∧ (s.team e.team).status = .resident ∧
      (s.gridOf e.team).record.disposition 6 = 0 ∧ (s.crew e.team e.crew).inState Thread.inh = 0 ∧
      ((s.crew e.team e.crew).th 0).state ≠ .exited ∧ s.earlierDone e a = true ∧ e.posted = false ∧ a.released = false ∧
      ∀ b ∈ e.lanes, b = a ∨ (b.lane ≠ 0 ∧ b.status = .done)) ∧
    (∃ (s : State) (e : LogEntry) (a : LaneAcc), Waits s 0 0 e a ∧ a.status = .forwarded 0 0 (.phys 64) ∧
      e.kind = .atom .add .b32 (.v 5)) ∧
    (∃ (s : State), 0 < s.fes.length ∧ 0 < (s.fe 0).landing.length ∧ (s.fe 0).migState = .resumed ∧
      (nth (s.fe 0).landing 0).wanted = true ∧ (nth (s.fe 0).landing 0).pstate = 0) ∧
    (∃ (s : State), 0 < s.fes.length ∧ 0 < (s.fe 0).landing.length ∧ (s.fe 0).migState = .resumed ∧
      (nth (s.fe 0).landing 0).pstate = 1) ∧
    (∃ s : State, 3 < s.links.length ∧ (s.link 3).trained = false) ∧
    (∃ (s : State) (offset : Nat), 3 < s.links.length ∧ (s.link 3).trained = true ∧ offset / 2 ^ 21 ∈ (s.fe 0).cleared) ∧
    (∃ (s : State) (offset : Nat), 3 < s.links.length ∧ (s.link 3).trained = true ∧ (s.fe 0).ownsPage (offset / 2 ^ 21) = false) ∧
    (∃ (s : State) (offset : Nat), 3 < s.links.length ∧ (s.link 3).trained = true ∧ offset / 2 ^ 21 ∉ (s.fe 0).cleared ∧
      (s.fe 0).ownsPage (offset / 2 ^ 21) = true ∧ offset / 2 ^ 21 ∈ (s.fe 0).stubs) ∧
    ∃ (s : State) (offset : Nat), 3 < s.links.length ∧ (s.link 3).trained = true ∧ offset / 2 ^ 21 ∉ (s.fe 0).cleared ∧
      (s.fe 0).ownsPage (offset / 2 ^ 21) = true ∧ offset / 2 ^ 21 ∉ (s.fe 0).stubs ∧
      ∀ j ∈ (s.fe 0).landing, j.land / 2 ^ 21 ≠ offset / 2 ^ 21 :=
  ⟨⟨peering, 2 ^ 51, entryAt _ _, accAt _, ⟨rfl, rfl, rfl, by decide +kernel, by decide +kernel⟩, rfl, by decide +kernel, rfl, rfl,
      by decide +kernel⟩,
    ⟨logged (.atom .add .b32 (.v 5)) (.forwarded 0 0 (.phys 64)), entryAt _ _, accAt _,
      ⟨rfl, rfl, rfl, by decide +kernel, by decide +kernel⟩, rfl, rfl⟩,
    ⟨landed true 0, by decide +kernel⟩,
    ⟨landed true 1, by decide +kernel⟩,
    ⟨State.reset, by decide +kernel⟩,
    ⟨(linked true []).modFe 0 fun f => { f with cleared := [1] }, 2097152, by decide +kernel⟩,
    ⟨(linked true []).modFe 0 fun f => { f with hbmLimit := 0 }, 2097152, by decide +kernel⟩,
    ⟨(linked true []).modFe 0 fun f => { f with stubs := [1], hbmLimit := 0x10000000 }, 2097152, by decide +kernel⟩,
    (linked true []).modFe 0 fun f => { f with hbmLimit := 0x10000000 }, 2097152, by decide +kernel⟩

def migrating (m : MigState) : State := (mapped State.reset).modFe 0 fun f => { f with migState := m, migLand := 0x5000, migCount := 2 }

theorem witness_MigrationStates (m : MigState) :
    (∃ s : State, 0 < s.fes.length ∧ (s.fe 0).migState = m) ∧
    (∃ s : State, 0 < s.fes.length ∧ (s.fe 0).migState = .quiescing ∧
      ∀ t, t < s.teams.length → (s.gridOf t).fe = 0 → (s.team t).status ≠ .resident) ∧
    (∃ s : State, 0 < s.fes.length ∧ (s.fe 0).migState = .quiescing ∧
      ∃ t, t < s.teams.length ∧ (s.gridOf t).fe = 0 ∧ (s.team t).status = .resident) ∧
    ∃ (s : State) (q : List Byte × State), 0 < s.fes.length ∧ (s.fe 0).migState = .receiving ∧
      s.get (feDie 0) 0 .frontEnd (s.fe 0).migLand.toNat (16 * (s.fe 0).migCount.toNat) = .ok q :=
  ⟨⟨migrating m, by cases m <;> decide +kernel, by cases m <;> decide +kernel⟩,
    ⟨migrating .quiescing, by decide +kernel⟩,
    ⟨(stands (.nop g0) id).modFe 0 fun f => { f with migState := .quiescing }, by decide +kernel, by decide +kernel, 0, by decide +kernel⟩,
    migrating .receiving, got ([], State.reset) ((migrating .receiving).get (feDie 0) 0 .frontEnd 0x5000 32), by decide +kernel, by decide +kernel,
    got_of (by decide +kernel)⟩

/-- A link to its own side's peer 0 stands, or none does. -/
def sends (t : Bool) : State :=
  { (migrating .sending).modDie 0 (fun d => { d with routes := upd d.routes 0 fun _ => 8 }) with links := (linked t []).links }

/-- A team of the front end that a refused release still blocks. -/
def blockedSend : State :=
  ((stands (.nop g0) id).modFe 0 fun f => { f with migState := .sending }).modTeam 0 fun tm => { tm with blocked := some (0, 1) }

/-- A front end that receives, with 1 MiB of save area; what arrives is empty but for one byte of it. -/
def receives : State :=
  (migrating .receiving).modFe 0 fun f => { f with saveBase := 0x100000, saveSize := 0x100000, hbmLimit := 0x10000000 }

def oneByte : Parcel := ⟨default, [], [], [], [], [], [], [], [(64, [7])], [], []⟩

theorem witness_MigrationStates_moves :
    (∃ s : State, 0 < s.fes.length ∧ (s.fe 0).migState = .sending ∧
      ∃ tm ∈ s.teams, (s.grid tm.grid).fe = 0 ∧ tm.blocked ≠ none) ∧
    (∀ there : Bool, ∃ (s v : State) (l : List (Nat × List Byte)), 0 < s.fes.length ∧ (s.fe 0).migState = .sending ∧
      (∀ tm ∈ s.teams, (s.grid tm.grid).fe = 0 → tm.blocked = none) ∧ s.readTables 0 = .ok (l, v) ∧
      v.linkTo (feDie 0) (s.fe 0).migPeer.toNat = (if there then some 3 else none) ∧ 3 < s.links.length) ∧
    (∃ (s : State) (p : Parcel), 0 < s.fes.length ∧ (s.fe 0).migState = .receiving ∧ (s.fe 0).saveOk = true ∧
      p.reach + { s.fe 0 with tables := p.tables }.tableBytes ≤ (s.fe 0).saveSize.toNat) ∧
    (∃ (s : State) (p : Parcel) (o : Nat) (bs : List Byte), 0 < s.fes.length ∧ (s.fe 0).migState = .receiving ∧
      (s.fe 0).saveOk = true ∧ p.area = [(o, bs)] ∧ p.tables = [] ∧ o + bs.length ≤ (s.fe 0).saveSize.toNat) ∧
    (∃ s : State, 0 < s.fes.length ∧ (s.fe 0).migState = .sent ∧ (s.fe 0).stubs = []) ∧
    ∃ s : State, 0 < s.fes.length ∧ (s.fe 0).migState = .sent ∧ (s.fe 0).stubs ≠ [] :=
  ⟨⟨blockedSend, by decide +kernel⟩,
    fun there => ⟨sends there, sends there, [], by cases there <;> decide +kernel, by cases there <;> decide +kernel,
      by cases there <;> decide +kernel, by cases there <;> rfl, by cases there <;> decide +kernel, by cases there <;> decide +kernel⟩,
    ⟨receives, oneByte, by decide +kernel⟩,
    ⟨receives, oneByte, 64, [7], by decide +kernel⟩,
    ⟨migrating .sent, by decide +kernel⟩,
    (migrating .sent).modFe 0 fun f => { f with stubs := [1] }, by decide +kernel⟩

/-- An image of security version 5. -/
def anImage : List Byte := List.replicate 8 0 ++ [5, 0, 0, 0] ++ List.replicate 52 0

theorem witness_HostAndBringUp :
    (∃ (s : State) (g t : Nat), 0 < s.fes.length ∧ g < s.grids.length ∧ (s.grid g).fe = 0 ∧ t < s.teams.length ∧ (s.gridOf t).fe = 0 ∧
      (s.gridOf t).retired = false ∧ (s.team t).grid < s.grids.length) ∧
    (∃ (s : State) (o n : Nat), o + n = 640000000000 ∧ ∀ l ∈ s.llc, ∀ k ∈ l, k.line ∉ linesAt o n) ∧
    (∃ nonce : List Byte, nonce.length = 32) ∧
    (∃ (s : State) (die : Nat), die < s.dies.length ∧ (s.die die).accepted = none) ∧
    (∃ (s : State) (svn : BitVec 32), 0 < s.dies.length ∧ (s.die 0).accepted = some 0 ∧ svn.toNat = imageSvn (s.imageOf 0 0) ∧
      (s.die 0).minSvn.toNat < svn.toNat) ∧
    (∃ (s : State) (t : Nat), 0 < s.dies.length ∧ t < s.teams.length ∧ (s.team t).core / 64 = 0 ∧
      (s.team t).status = .resident) ∧
    (∃ (s : State) (k : Nat), 0 < s.dies.length ∧ (s.die 0).up = false ∧ k < (s.die 0).written.length) ∧
    ∃ (s : State) (pf : Fin 2) (n : Nat), n < 8 ∧ 8 * pf.val + n < s.fes.length :=
  ⟨⟨stands (.nop g0) id, 0, 0, by decide +kernel⟩,
    ⟨State.reset, 639999999700, 300, by decide +kernel⟩, ⟨List.replicate 32 0, rfl⟩,
    ⟨State.reset, 0, by decide +kernel⟩,
    ⟨State.reset.modDie 0 fun d => { d with
      accepted := some 0, minSvn := 4
      written := upd d.written 0 fun _ => some anImage }, 5, by decide +kernel⟩,
    ⟨stands (.nop g0) id, 0, by decide +kernel⟩, ⟨State.reset, 1, by decide +kernel⟩, State.reset, 1, 7, by decide +kernel⟩

/-- What a die has stored is free, so of the clauses on booting one holds, whichever it is. -/
theorem witness_HostAndBringUp_boot : ∃ (s : State) (die : Nat), die < s.dies.length ∧ (s.die die).up = false ∧
    (s.imageRefused die 0 = none ∨ (∃ r, s.imageRefused die 0 = some r ∧ s.imageRefused die 1 = none) ∨
      ∃ r q, s.imageRefused die 0 = some r ∧ s.imageRefused die 1 = some q) := by
  refine ⟨State.reset, 2, by decide +kernel, by decide +kernel, ?_⟩
  cases State.reset.imageRefused 2 0 with
  | none => exact .inl rfl
  | some r =>
    cases State.reset.imageRefused 2 1 with
    | none => exact .inr (.inl ⟨r, rfl, rfl⟩)
    | some q => exact .inr (.inr ⟨r, q, rfl, rfl⟩)

/-! ### The step -/

def shown : State := ready (.iadd g0 .s32 false false (.v 1) (.v 2) (.v 3)) id

theorem witness_StepRunsDecodedInstruction :
    ∃ (s : State) (t c : Nat) (rest : List (Nat × Nat)) (w : Word64) (i : Instr) (f : Info),
      s.agenda = [] ∧ s.slots = (t, c) :: rest ∧ s.budget ≠ 0 ∧ s.issues? t c = true ∧ (s.crew t c).bundle ≠ 0 ∧
      s.stageWaits t c = false ∧
      (∀ l ∈ lanesOf (s.crew t c).bundle, s.threadFree t c ((s.crew t c).th l) = true) ∧
      (s.image t).marked (s.crew t c).bundlePc = false ∧ (s.image t).word (s.crew t c).bundlePc = some w ∧
      decode w = .ok i ∧ info i = some f ∧ (s.image t).placed (s.crew t c).bundlePc f = true ∧
      (s.crew t c).long = none ∧ (s.crew t c).held (f.srcs ++ f.dsts) = false ∧ (namesFlags i && (s.crew t c).flagsOut) = false :=
  ⟨shown, 0, 0, [], _, .iadd g0 .s32 false false (.v 1) (.v 2) (.v 3), _, by decide +kernel, by decide +kernel, by decide +kernel,
    of_decide_eq_true (by decide +kernel), by decide +kernel, by decide +kernel, of_decide_eq_true (by decide +kernel), by decide +kernel,
    some_getD 0 (by decide +kernel), by decide +kernel, rfl, by decide +kernel, by decide +kernel, by decide +kernel, by decide +kernel⟩

/-- R65: the same crew after the instruction, in the middle of a clause and at its end. -/
def finishing (s : State) (stalled : Bool) : State := { s with cur := some ⟨0, 0, 0x10000, 0x10008, 0, stalled⟩ }

/-- The crew has just passed its header. -/
def headed (cr : Crew) : Crew := { cr with headed := some [] }

def lastAt : Cur := ⟨0, 0, 0x10000, 0x10008, 0, false⟩

/-- Its word carries the switch marker. -/
def switchAt : Cur := { lastAt with word := 2 ^ 63 }

abbrev divides3 : Instr := .idiv g0 true false (.v 1) (.v 2) (.con 3)

theorem witness_StepRunsDecodedInstruction_issued :
    (∃ (u s : State) (i : Instr) (y : Cur) (x : Issue), u.cur = some y ∧ s.issuing i = some x ∧ (u.team 0).kills ≠ (s.team 0).kills) ∧
    (∃ (u s : State) (i : Instr) (y : Cur) (x : Issue), u.cur = some y ∧ s.issuing i = some x ∧
      (u.team 0).kills = (s.team 0).kills ∧ s.slowOf x i (x.act &&& ~~~s.trapped u x) = none) ∧
    (∃ (u s : State) (i : Instr) (y : Cur) (x : Issue), u.cur = some y ∧ s.issuing i = some x ∧
      (u.team 0).kills = (s.team 0).kills ∧ y.stalled = true ∧ (s.slowOf x i (x.act &&& ~~~s.trapped u x)).isSome = true) ∧
    ∃ (u s : State) (i : Instr) (y : Cur) (x : Issue), u.cur = some y ∧ s.issuing i = some x ∧
      (u.team 0).kills = (s.team 0).kills ∧ y.stalled = false ∧ (s.slowOf x i (x.act &&& ~~~s.trapped u x)).isSome = true :=
  ⟨⟨finishing (shown.modTeam 0 fun tm => { tm with kills := tm.kills + 1 }) false, stands (.nop g0) id, .nop g0, _, at0 (.nop g0) id, rfl,
      (runs_of (by decide +kernel)).1, by decide +kernel⟩,
    ⟨finishing shown false, stands (.nop g0) id, .nop g0, _, at0 (.nop g0) id, rfl, (runs_of (by decide +kernel)).1, by decide +kernel,
      rfl⟩,
    ⟨finishing shown true, stands divides3 id, divides3, _, at0 divides3 id, rfl, (runs_of (by decide +kernel)).1, by decide +kernel,
      rfl, by decide +kernel⟩,
    finishing shown false, stands divides3 id, divides3, _, at0 divides3 id, rfl, (runs_of (by decide +kernel)).1, by decide +kernel,
    rfl, by decide +kernel⟩

theorem witness_StepRunsDecodedInstruction_stalled :
    (∃ (u : State) (y : Cur), u.cur = some y ∧ (u.team 0).status ≠ .resident) ∧
    (∃ (u : State) (y : Cur), u.cur = some y ∧ y.stalled = true ∧ (u.team 0).status = .resident ∧ u.hasCrew 0 0 ∧
      (u.crew 0 0).headed = none) ∧
    ∃ (u : State) (y : Cur), u.cur = some y ∧ y.stalled = true ∧ (u.team 0).status = .resident ∧ u.hasCrew 0 0 ∧
      (u.crew 0 0).headed = some [] :=
  ⟨⟨finishing (shown.modTeam 0 fun tm => { tm with status := .dead }) true, _, rfl, by decide +kernel⟩,
    ⟨finishing shown true, _, rfl, rfl, by decide +kernel, ⟨by decide +kernel, by decide +kernel⟩, by decide +kernel⟩,
    finishing (shown.modCrew 0 0 headed) true, _, rfl, rfl, by decide +kernel, ⟨by decide +kernel, by decide +kernel⟩,
    by decide +kernel⟩

/-- What the clauses on an instruction that does not stall ask of the state. -/
structure GoesOn (u : State) (y : Cur) : Prop where
  cur : u.cur = some y
  goes : y.stalled = false
  crew : u.hasCrew 0 0
  resident : (u.team 0).status = .resident
  bundle : (u.crew 0 0).bundle ≠ 0

theorem witness_StepRunsDecodedInstruction_finish :
    (∃ (u : State) (y : Cur), GoesOn u y ∧ wordSw lastAt.word = false ∧ ((u.image 0).after lastAt.pc).2 = false) ∧
    (∃ (u : State) (y : Cur), GoesOn u y ∧ wordSw lastAt.word = false ∧ ((u.image 0).after lastAt.pc).2 = true ∧
      (u.image 0).plainHeaderAt (lastAt.pc + 8) ∧
      ({ u.crew 0 0 with lastIssue := u.issues, age := 0, headed := none } : Crew).JoinsWait ∧
      ({ u.crew 0 0 with lastIssue := u.issues, age := 0, headed := none } : Crew).hasLane (u.crew 0 0).bundle ∧
      ∀ l, l < 16 → (u.crew 0 0).bundle.getLsbD l = true → ((u.crew 0 0).th l).loopSkip = none ∧ ((u.crew 0 0).th l).loops = []) ∧
    ∃ (u : State) (y : Cur), GoesOn u y ∧ wordSw switchAt.word = true ∧ ((u.image 0).after switchAt.pc).2 = false ∧
      ({ u.crew 0 0 with lastIssue := u.issues, age := 0, headed := none } : Crew).JoinsWait ∧
      ({ u.crew 0 0 with lastIssue := u.issues, age := 0, headed := none } : Crew).hasLane (u.crew 0 0).bundle ∧
      ∀ l, l < 16 → (u.crew 0 0).bundle.getLsbD l = true → ((u.crew 0 0).th l).pc = switchAt.pc :=
  ⟨⟨finishing (longer (.nop g0) id) false, lastAt, ⟨rfl, rfl, ⟨by decide +kernel, by decide +kernel⟩, by decide +kernel,
      by decide +kernel⟩, by decide +kernel⟩,
    ⟨finishing shown false, lastAt, ⟨rfl, rfl, ⟨by decide +kernel, by decide +kernel⟩, by decide +kernel, by decide +kernel⟩,
      by decide +kernel, by decide +kernel, header_of (by decide +kernel), joinsWait_of (by decide +kernel),
      hasLane_of (by decide +kernel), by decide +kernel⟩,
    finishing (longer (.nop g0) id) false, lastAt, ⟨rfl, rfl, ⟨by decide +kernel, by decide +kernel⟩, by decide +kernel,
      by decide +kernel⟩, by decide +kernel, by decide +kernel, joinsWait_of (by decide +kernel), hasLane_of (by decide +kernel),
    by decide +kernel⟩

theorem witness_EncodeDecodeRoundTrip :
    (∃ (i : Instr) (f : Info), info i = some f ∧ i.wf = true) ∧ ∃ (w : Word64) (i : Instr), decode w = .ok i :=
  ⟨⟨.iadd g0 .s32 false false (.v 767) (.s 127) (.sp .lane), _, rfl, by decide⟩, 0x7E78000000000000, _, test_decode_rft⟩
theorem witness_MemoryStaysCanonical : ∃ s s' : State, Memory.wf s ∧ step s = .next s' :=
  ⟨shown, outcome (step shown), by decide +kernel, by
    have h : (match step shown with
      | .next _ => true
      | _ => false) = true := by decide +kernel
    revert h
    unfold outcome
    cases step shown with
    | next s => intro; rfl
    | fault e => intro h; cases h
    | refused e => intro h; cases h⟩
theorem witness_StepGoesOn : ∃ s : State, s.agenda ≠ [] ∧ ∀ i ∈ s.agenda, info i = none :=
  ⟨{ State.reset with agenda := [.replay 0, .thermalLimit 0 100] }, by decide +kernel⟩
theorem witness_Rationals : ∃ (a b : FV) (p q : ℚ), a.rat = some p ∧ b.rat = some q ∧ q ≠ 0 :=
  ⟨.fin false 3 (-1), .fin true 1 0, _, _, rfl, rfl, by simp⟩

end Sys2Proof.Tests
end

section
/-! SUPPORT. The integer family (R133 to R157): what one lane operation or one predicate operation leaves, proved once for
all instructions of a shape, and the terms of R134 as the statements and the model write them. -/

namespace Sys2Proof.Machine

/-! ## Patterns and their readings (R134) -/

theorem widthOf_pos (w : Bool) : 0 < widthOf w := by cases w <;> decide

theorem widthOf_le (w : Bool) : widthOf w ≤ 64 := by cases w <;> decide

@[simp] theorem nbits_eq_widthOf (w : Bool) : nbits w = widthOf w := rfl

theorem wrap_lt (n : Nat) (x : Int) : wrap n x < 2 ^ n := by
  have h0 := Int.emod_nonneg x (b := (2 : Int) ^ n) (by positivity)
  have h1 := Int.emod_lt_of_pos x (b := (2 : Int) ^ n) (by positivity)
  unfold wrap
  zify
  omega

theorem wrap_natCast (n u : Nat) : wrap n (u : Int) = u % 2 ^ n := by
  unfold wrap
  norm_cast

/-- Integers that are congruent modulo 2^n have one pattern. -/
theorem wrap_congr {n : Nat} {x y : Int} (h : x ≡ y [ZMOD 2 ^ n]) : wrap n x = wrap n y := congrArg Int.toNat h

theorem toNat_ofInt_eq_wrap (n : Nat) (x : Int) : (BitVec.ofInt n x).toNat = wrap n x := by
  rw [BitVec.toNat_ofInt, wrap]
  norm_cast

@[simp] theorem modN_eq_wrap (w : Bool) (x : Int) : modN w x = wrap (widthOf w) x := rfl

@[simp] theorem immBits_eq_wrap (w : Bool) (imm : BitVec 20) : immBits w imm = wrap (widthOf w) imm.toInt := rfl

/-- Two's complement as the model and as bit vectors read it. -/
theorem signed_eq_toInt {n : Nat} (hn : 0 < n) (u : Nat) : signed n u = (BitVec.ofNat n u).toInt := by
  obtain ⟨m, rfl⟩ := Nat.exists_eq_add_of_lt hn
  have half : ∀ v : Nat, v < 2 ^ (0 + m + 1 - 1) ↔ 2 * v < 2 ^ (0 + m + 1) := fun v => by
    simp only [Nat.zero_add, Nat.add_sub_cancel, pow_succ]
    omega
  simp only [signed, BitVec.toInt_eq_toNat_cond, BitVec.toNat_ofNat, half]
  push_cast
  rfl

@[simp] theorem asInt_eq_valOf (sg w : Bool) (u : Nat) : asInt sg w u = valOf sg w u := by
  cases sg
  · rfl
  · cases w <;> exact (signed_eq_toInt (by decide) u).symm

@[simp] theorem State.at_eq_val (s : State) (x : Issue) (sg w : Bool) (o : Opnd) (l : Nat) :
    s.at x sg w o l = s.val x sg w o l := asInt_eq_valOf ..

theorem signed_modEq (n u : Nat) : signed n u ≡ u [ZMOD 2 ^ n] := by
  have h : ((u % 2 ^ n : Nat) : Int) ≡ u [ZMOD 2 ^ n] := by
    push_cast
    exact Int.mod_modEq ..
  unfold signed
  by_cases hlow : u % 2 ^ n < 2 ^ (n - 1)
  · rw [if_pos hlow]
    exact h
  · rw [if_neg hlow, ← sub_zero (u : Int)]
    exact h.sub (Int.modEq_zero_iff_dvd.mpr dvd_rfl)

/-- A pattern and its reading are congruent modulo 2^N. -/
theorem valOf_modEq (sg w : Bool) (u : Nat) : valOf sg w u ≡ u [ZMOD 2 ^ widthOf w] := by
  cases sg
  · exact Int.ModEq.refl _
  · exact signed_modEq _ u

theorem wrap_valOf (sg w : Bool) {u : Nat} (h : u < 2 ^ widthOf w) : wrap (widthOf w) (valOf sg w u) = u := by
  rw [wrap_congr (valOf_modEq sg w u), wrap_natCast, Nat.mod_eq_of_lt h]

theorem clampTo_eq (sg w : Bool) (x : Int) :
    clampTo sg w x = if x < loN sg w then loN sg w else if hiN sg w < x then hiN sg w else x := by
  have h : loN sg w ≤ hiN sg w := by cases sg <;> cases w <;> decide
  have e : clampTo sg w x = min (max x (loN sg w)) (hiN sg w) := by cases sg <;> rfl
  rw [e]
  split_ifs <;> omega

@[simp] theorem fitN_eq_narrow (sg w sat : Bool) (x : Int) : fitN sg w sat x = narrow sg w sat x := by
  simp only [fitN, narrow, clampTo_eq, modN_eq_wrap, nbits_eq_widthOf]

/-! ## What operand fields deliver is bounded (R57, R134) -/

theorem const32_lt : ∀ c : Fin 64, const32 c < 2 ^ 32 := by decide

theorem const64_lt : ∀ c : Fin 64, const64 c < 2 ^ 64 := by decide

theorem State.rd32_lt (s : State) (t c : Nat) (o : Opnd) (l : Nat) : s.rd32 t c o l < 2 ^ 32 := by
  cases o with
  | con k => exact const32_lt k
  | v n => exact BitVec.isLt _
  | s n => exact BitVec.isLt _
  | sp r => exact BitVec.isLt _

theorem State.rd64_lt (s : State) (t c : Nat) (o : Opnd) (l : Nat) : s.rd64 t c o l < 2 ^ 64 := by
  cases o with
  | con k => exact const64_lt k
  | v n => exact BitVec.isLt _
  | s n => exact BitVec.isLt _
  | sp r => exact (BitVec.isLt _).trans (by decide)

theorem State.bits_lt (s : State) (t c : Nat) (w : Bool) (o : Opnd) (l : Nat) : s.bits t c w o l < 2 ^ widthOf w := by
  cases w
  · exact s.rd32_lt t c o l
  · exact s.rd64_lt t c o l

/-! ## Lanes of a mask -/

theorem getLsbD_laneBit (a : Nat) {l : Nat} (hl : l < 16) : (laneBit a).getLsbD l = decide (l = a) := by
  have h : laneBit a = BitVec.twoPow 16 a := (BitVec.twoPow_eq ..).symm
  rw [h, BitVec.getLsbD_twoPow]
  grind

theorem getLsbD_maskOf (p : Nat → Bool) {l : Nat} (hl : l < 16) : (maskOf p).getLsbD l = p l := by
  suffices h : ∀ (ls : List Nat) (m : Mask),
      (ls.foldl (fun m l => if p l then m ||| ((1 : Mask) <<< l) else m) m).getLsbD l =
        (m.getLsbD l || (decide (l ∈ ls) && p l)) by
    have := h (List.range 16) 0
    rw [maskOf, this]
    simp [hl]
  intro ls
  induction ls with
  | nil => simp
  | cons a r ih =>
    intro m
    rw [List.foldl_cons, ih]
    have hbit := getLsbD_laneBit a hl
    unfold laneBit at hbit
    by_cases ha : l = a
    · subst ha
      cases hp : p l <;> simp [hl]
    · cases p a <;> simp only [BitVec.getLsbD_or, hbit, ha, decide_false, Bool.or_false, List.mem_cons, false_or,
      if_true, Bool.false_eq_true, if_false]

/-- The lowest lane of a mask is one of its lanes, and no other lies below it. -/
theorem lowestLane_mem_le {m : Mask} {l : Nat} (hl : l < 16) (hm : m.getLsbD l = true) :
    m.getLsbD (lowestLane m) = true ∧ lowestLane m ≤ l := by
  have hmem : l ∈ lanesOf m := (mem_lanesOf m l).mpr ⟨hl, hm⟩
  have hs : (lanesOf m).Pairwise (· < ·) := List.pairwise_lt_range.filter _
  unfold lowestLane
  cases h : lanesOf m with
  | nil => simp [h] at hmem
  | cons a r =>
    rw [h] at hmem hs
    refine ⟨((mem_lanesOf m a).mp (by simp [h])).2, ?_⟩
    rcases List.mem_cons.mp hmem with rfl | hr
    · exact le_rfl
    · exact (List.rel_of_pairwise_cons hs hr).le

/-! ## Operations of a shape -/

/-- `Crew.wrote_write` for patterns of N bits. -/
theorem Crew.wrote_write_of_lt (cr : Crew) (d : Dst) (w : Bool) (m : Mask) {f : Nat → Nat} (hf : ∀ l, f l < 2 ^ widthOf w) :
    Wrote cr (cr.write d w m f) d w m f :=
  Crew.wrote_write cr d w m f fun l _ => by cases w <;> exact hf l

/-- The instruction completes with `g l` in each lane `l` of D that is in Active(), and nothing else changed (R134, R137). -/
def LanesWritten (s : State) (i : Instr) (x : Issue) (d : Dst) (w : Bool) (g : Nat → Nat) : Prop :=
  ∃ cr, exec i s = .next (s.withCrew x cr) ∧ Wrote (s.crew x.t x.c) cr d w x.act g

/-- A lane operation writes what it computes, where that is a pattern of N bits. -/
theorem laneOp_wrote {s : State} {i : Instr} {x : Issue} {d : Dst} {w : Bool} {f : Issue → Nat → Nat} {g : Nat → Nat}
    (h : Runs s i x) (he : exec i s = laneOp i s d w f) (hg : ∀ l, f x l = g l) (hb : ∀ l, g l < 2 ^ widthOf w) :
    LanesWritten s i x d w g := by
  obtain rfl : f x = g := funext hg
  refine ⟨_, ?_, Crew.wrote_write_of_lt _ d w x.act hb⟩
  rw [he]
  exact crewUpdate_runs h fun l => by simp [Crew.th]

end Sys2Proof.Machine
end

section
/-! PROOFS. O1: integer arithmetic (R140 to R143). -/

namespace Sys2Proof.Machine

theorem narrow_lt (sg w sat : Bool) (x : Int) : narrow sg w sat x < 2 ^ widthOf w := wrap_lt _ _

/-- The low half of a product does not depend on how the factors are read (R140). -/
theorem narrow_mul_valOf (sg w : Bool) (a b : Nat) :
    narrow sg w false (valOf sg w a * valOf sg w b) = wrap (widthOf w) ((a : Int) * b) :=
  wrap_congr ((valOf_modEq sg w a).mul (valOf_modEq sg w b))

theorem mulHigh_eq (sg w : Bool) (a b : Nat) :
    mulHigh sg w a b = wrap (widthOf w) (valOf sg w a * valOf sg w b / 2 ^ widthOf w) := by
  rw [mulHigh, Int.fdiv_eq_ediv_of_nonneg _ (by positivity)]
  rfl

/-- The quotient of the least number by -1 wraps to the least number (R142). -/
theorem wrap_least_tdiv_neg_one (w : Bool) :
    wrap (widthOf w) ((-2 ^ (widthOf w - 1) : Int).tdiv (-1)) = wrap (widthOf w) (-2 ^ (widthOf w - 1)) := by
  cases w <;> decide

theorem wrap_divRem_fst (sg w : Bool) (n m : Int) :
    wrap (widthOf w) (divRem sg w n m).1 = if m = 0 then 2 ^ widthOf w - 1 else wrap (widthOf w) (n.tdiv m) := by
  unfold divRem
  split_ifs with h0 hleast
  · cases w <;> rfl
  · simp only [nbits_eq_widthOf, Bool.and_eq_true, beq_iff_eq] at hleast
    obtain ⟨⟨-, rfl⟩, rfl⟩ := hleast
    exact (wrap_least_tdiv_neg_one w).symm
  · rfl

theorem wrap_divRem_snd (sg w : Bool) (n m : Int) :
    wrap (widthOf w) (divRem sg w n m).2 = if m = 0 then wrap (widthOf w) n else wrap (widthOf w) (n - m * n.tdiv m) := by
  unfold divRem
  rw [← Int.tmod_def]
  split_ifs with h0 hleast
  · rfl
  · simp only [Bool.and_eq_true, beq_iff_eq] at hleast
    rw [hleast.2, Int.tmod_neg, Int.tmod_one]
  · rfl

theorem wrap_min_valOf (sg w : Bool) {a b : Nat} (ha : a < 2 ^ widthOf w) (hb : b < 2 ^ widthOf w) :
    wrap (widthOf w) (min (valOf sg w a) (valOf sg w b)) = if valOf sg w b < valOf sg w a then b else a := by
  split_ifs with h
  · rw [min_eq_right h.le, wrap_valOf sg w hb]
  · rw [min_eq_left (not_lt.mp h), wrap_valOf sg w ha]

theorem wrap_max_valOf (sg w : Bool) {a b : Nat} (ha : a < 2 ^ widthOf w) (hb : b < 2 ^ widthOf w) :
    wrap (widthOf w) (max (valOf sg w a) (valOf sg w b)) = if valOf sg w a < valOf sg w b then b else a := by
  split_ifs with h
  · rw [max_eq_right h.le, wrap_valOf sg w hb]
  · rw [max_eq_left (not_lt.mp h), wrap_valOf sg w ha]

/-- Each arithmetic instruction of R140 is a lane operation whose result is the exact one, wrapped or clamped; the cases stand
in the order of `arithSpec`. -/
theorem arithSpec_wrote {s : State} {i : Instr} {x : Issue} {d : Dst} {w : Bool} {f : Nat → Nat} (h : Runs s i x)
    (hs : arithSpec s x i = some (d, w, f)) : LanesWritten s i x d w f := by
  unfold arithSpec at hs
  split at hs <;> cases hs
  · exact laneOp_wrote h rfl (fun l => by simp [IntTy.sgn]) (fun l => by simp [narrow_lt])
  · exact laneOp_wrote h rfl (fun l => by simp [IntTy.sgn]) (fun l => by simp [narrow_lt])
  · exact laneOp_wrote h rfl (fun l => by simp [IntTy.sgn]) (fun l => by simp [narrow_lt])
  · exact laneOp_wrote h rfl (fun l => narrow_mul_valOf ..) (fun l => wrap_lt ..)
  · exact laneOp_wrote h rfl (fun l => by simp [IntTy.sgn]) (fun l => by simp [narrow_lt])
  · exact laneOp_wrote h rfl (fun l => by simp) (fun l => by simp [narrow_lt])
  · exact laneOp_wrote h rfl (fun l => by simp) (fun l => by simp [narrow_lt])

/-- The high half, quotient, remainder, minimum and maximum of R141 to R143, in the order of `divSpec`. -/
theorem divSpec_wrote {s : State} {i : Instr} {x : Issue} {d : Dst} {w : Bool} {f : Nat → Nat} (h : Runs s i x)
    (hs : divSpec s x i = some (d, w, f)) : LanesWritten s i x d w f := by
  unfold divSpec at hs
  split at hs <;> cases hs
  · refine laneOp_wrote h rfl (fun l => ?_) (fun l => wrap_lt ..)
    rw [mulHigh_eq, State.at_eq_val, State.at_eq_val]
    rfl
  · refine laneOp_wrote h rfl (fun l => ?_) (fun l => ?_)
    · simp [wrap_divRem_fst]
    · dsimp only
      split
      · exact Nat.sub_lt (by positivity) one_pos
      · exact wrap_lt ..
  · refine laneOp_wrote h rfl (fun l => ?_) (fun l => ?_)
    · simp [wrap_divRem_snd]
    · dsimp only
      split <;> exact wrap_lt ..
  · refine laneOp_wrote h rfl (fun l => ?_) (fun l => ?_)
    · simp [State.val, wrap_min_valOf, State.bits_lt]
    · split <;> exact State.bits_lt ..
  · refine laneOp_wrote h rfl (fun l => ?_) (fun l => ?_)
    · simp [State.val, wrap_max_valOf, State.bits_lt]
    · split <;> exact State.bits_lt ..

/-- Settles O1: each instruction's case is in `arithSpec_wrote` or `divSpec_wrote`. -/
theorem integerArithmetic : Obligations.IntegerArithmetic :=
  ⟨fun _ _ _ _ _ _ => arithSpec_wrote, fun _ _ _ _ _ _ => divSpec_wrote⟩

end Sys2Proof.Machine
end

section
/-! PROOFS. O2: logic, moves, address sums, extensions and shifts (R145, R146, R151 to R155). -/

namespace Sys2Proof.Machine

/-! ## Logic (R145) -/

/-- Clearing bits that are all set takes their number away. -/
theorem xor_eq_sub_of_and_eq (a b : Nat) (h : a &&& b = b) : a ^^^ b = a - b := by
  induction a using Nat.strongRecOn generalizing b with
  | _ a ih =>
    rcases Nat.eq_zero_or_pos a with rfl | ha
    · rw [← h, Nat.zero_and, Nat.xor_self]
    · have hhalf := ih (a / 2) (by omega) (b / 2) (by rw [← Nat.and_div_two, h])
      have hlow : a % 2 &&& b % 2 = b % 2 := by rw [← Nat.and_mod_two_pow (n := 1), h]
      have hle : b ≤ a := h ▸ Nat.and_le_left
      have hmod : (a ^^^ b) % 2 = a % 2 ^^^ b % 2 := Nat.xor_mod_two_pow (n := 1)
      rw [← Nat.xor_div_two] at hhalf
      rcases Nat.mod_two_eq_zero_or_one a with ea | ea <;> rcases Nat.mod_two_eq_zero_or_one b with eb | eb <;>
        simp only [ea, eb, Nat.reduceXor, Nat.reduceAnd, zero_ne_one] at hlow hmod <;> omega

theorem andn_eq_sub {w : Bool} {a : Nat} (ha : a < 2 ^ widthOf w) (b : Nat) : andn w a b = a - (a &&& b) := by
  rw [← xor_eq_sub_of_and_eq a (a &&& b) (by rw [← Nat.and_assoc, Nat.and_self]), andn, nbits_eq_widthOf,
    Nat.and_xor_distrib_left, Nat.and_two_pow_sub_one_of_lt_two_pow ha, Nat.xor_comm]

theorem notL_eq_sub {w : Bool} {a : Nat} (ha : a < 2 ^ widthOf w) :
    a ^^^ (2 ^ widthOf w - 1) = 2 ^ widthOf w - 1 - a := by
  rw [Nat.xor_comm, xor_eq_sub_of_and_eq]
  rw [Nat.and_comm, Nat.and_two_pow_sub_one_of_lt_two_pow ha]

/-! ## Shifts and rotations (R146) -/

/-- The pattern as a bit vector of N bits. -/
theorem toNat_ofNat_of_lt {w : Bool} {a : Nat} (ha : a < 2 ^ widthOf w) : (BitVec.ofNat (widthOf w) a).toNat = a := by
  rw [BitVec.toNat_ofNat, Nat.mod_eq_of_lt ha]

theorem shiftL_eq {w : Bool} {a : Nat} (ha : a < 2 ^ widthOf w) (n : Nat) :
    shiftL w a n = (BitVec.ofNat (widthOf w) a <<< n).toNat := by
  unfold shiftL
  split_ifs with hn
  · rw [BitVec.toNat_shiftLeft, toNat_ofNat_of_lt ha, Nat.shiftLeft_eq, nbits_eq_widthOf]
  · rw [nbits_eq_widthOf, not_lt] at hn
    rw [BitVec.shiftLeft_eq_zero hn]
    rfl

theorem shiftR_eq {w : Bool} {a : Nat} (ha : a < 2 ^ widthOf w) (n : Nat) :
    shiftR w a n = (BitVec.ofNat (widthOf w) a >>> n).toNat := by
  unfold shiftR
  split_ifs with hn
  · rw [BitVec.toNat_ushiftRight, toNat_ofNat_of_lt ha, Nat.shiftRight_eq_div_pow]
  · rw [nbits_eq_widthOf, not_lt] at hn
    rw [BitVec.ushiftRight_eq_zero hn]
    rfl

theorem valOf_true_eq_toInt (w : Bool) (a : Nat) : valOf true w a = (BitVec.ofNat (widthOf w) a).toInt :=
  signed_eq_toInt (widthOf_pos w) a

theorem shiftA_eq (w : Bool) (a n : Nat) : shiftA w a n = ((BitVec.ofNat (widthOf w) a).sshiftRight n).toNat := by
  simp only [shiftA]
  rw [BitVec.sshiftRight_eq, toNat_ofInt_eq_wrap, valOf_true_eq_toInt, Int.shiftRight_eq_div_pow]
  set v := (BitVec.ofNat (widthOf w) a).toInt with hv
  split_ifs with hn hsign
  · rw [Int.fdiv_eq_ediv_of_nonneg _ (by positivity)]
    push_cast
    rfl
  all_goals
    rw [nbits_eq_widthOf, not_lt] at hn
    have hpow : (2 : Int) ^ (widthOf w - 1) ≤ 2 ^ n :=
      pow_le_pow_right₀ one_le_two ((Nat.sub_le ..).trans hn)
    have hlo : -(2 : Int) ^ (widthOf w - 1) ≤ v := BitVec.le_toInt _
    have hhi : v < (2 : Int) ^ (widthOf w - 1) := BitVec.toInt_lt
  · rw [Int.ediv_eq_zero_of_lt hsign (by push_cast; omega)]
    cases w <;> rfl
  · rw [show v / ((2 ^ n : Nat) : Int) = -1 by
      rw [Int.ediv_eq_iff_of_pos (by positivity)]
      push_cast
      omega]
    cases w <;> rfl

/-- A rotation as the sum of two shifts is their union. -/
theorem rotation_sum {N a k : Nat} (ha : a < 2 ^ N) (hk : k ≤ N) :
    (a * 2 ^ k + a / 2 ^ (N - k)) % 2 ^ N = a <<< k % 2 ^ N ||| a >>> (N - k) := by
  have hN : 2 ^ N = 2 ^ k * 2 ^ (N - k) := by rw [← pow_add]; congr 1; omega
  have hlow : a / 2 ^ (N - k) < 2 ^ k := Nat.div_lt_of_lt_mul (by rwa [Nat.mul_comm, ← hN])
  have hhigh : a <<< k % 2 ^ N = 2 ^ k * (a % 2 ^ (N - k)) := by
    rw [Nat.shiftLeft_eq, Nat.mul_comm, hN, Nat.mul_mod_mul_left]
  rw [hhigh, Nat.shiftRight_eq_div_pow, ← Nat.two_pow_add_eq_or_of_lt hlow, ← hhigh, Nat.shiftLeft_eq, ← Nat.mod_add_mod]
  refine Nat.mod_eq_of_lt ?_
  rw [← Nat.shiftLeft_eq, hhigh, hN]
  have := Nat.mod_lt a (show 2 ^ (N - k) > 0 by positivity)
  calc 2 ^ k * (a % 2 ^ (N - k)) + a / 2 ^ (N - k) < 2 ^ k * (a % 2 ^ (N - k)) + 2 ^ k := by omega
    _ = 2 ^ k * (a % 2 ^ (N - k) + 1) := by ring
    _ ≤ 2 ^ k * 2 ^ (N - k) := Nat.mul_le_mul_left _ this

theorem rotateL_eq {w : Bool} {a : Nat} (ha : a < 2 ^ widthOf w) (n : Nat) :
    rotateL w a n = ((BitVec.ofNat (widthOf w) a).rotateLeft n).toNat := by
  rw [BitVec.toNat_rotateLeft, toNat_ofNat_of_lt ha]
  exact rotation_sum ha (Nat.mod_lt _ (widthOf_pos w)).le

theorem rotateL_complement_eq {w : Bool} {a : Nat} (ha : a < 2 ^ widthOf w) (n : Nat) :
    rotateL w a (nbits w - n % nbits w) = ((BitVec.ofNat (widthOf w) a).rotateRight n).toNat := by
  have hr := Nat.mod_lt n (widthOf_pos w)
  rw [BitVec.toNat_rotateRight, toNat_ofNat_of_lt ha]
  simp only [rotateL, nbits_eq_widthOf]
  generalize n % widthOf w = r at hr
  rcases Nat.eq_zero_or_pos r with rfl | hpos
  · simp [Nat.shiftLeft_eq, Nat.div_eq_of_lt ha, Nat.mod_eq_of_lt ha]
  · have hk : (widthOf w - r) % widthOf w = widthOf w - r := Nat.mod_eq_of_lt (Nat.sub_lt (widthOf_pos w) hpos)
    rw [hk, rotation_sum ha (Nat.sub_le ..), Nat.or_comm, Nat.sub_sub_self hr.le]

/-! ## Selection, address sums and extensions (R151 to R155) -/

/-- The predicate's bit as the statement and as the model read it. -/
theorem State.carryBit_eq (s : State) (x : Issue) (d : Dst) (p : Fin 16) (l : Nat) :
    s.carryBit x d p l = (s.predFor x d p l).toNat := by cases d <;> rfl

theorem wrap_signExtend (imm : BitVec 32) : wrap 64 imm.toInt = (imm.signExtend 64).toNat :=
  (toNat_ofInt_eq_wrap ..).symm

/-- Each instruction of R145 and R151 to R155 is a lane operation that gives its pattern, in the order of
`moveSpec`. -/
theorem moveSpec_wrote {s : State} {i : Instr} {x : Issue} {d : Dst} {w : Bool} {f : Nat → Nat} (h : Runs s i x)
    (hs : moveSpec s x i = some (d, w, f)) : LanesWritten s i x d w f := by
  have hbits (w : Bool) (a : Opnd) (l : Nat) : s.bits x.t x.c w a l < 2 ^ widthOf w := s.bits_lt ..
  unfold moveSpec at hs
  split at hs <;> cases hs
  · exact laneOp_wrote h rfl (fun _ => rfl) fun l => Nat.and_lt_two_pow _ (hbits ..)
  · exact laneOp_wrote h rfl (fun _ => rfl) fun l => Nat.or_lt_two_pow (hbits ..) (hbits ..)
  · exact laneOp_wrote h rfl (fun _ => rfl) fun l => Nat.xor_lt_two_pow (hbits ..) (hbits ..)
  · exact laneOp_wrote h rfl (fun l => andn_eq_sub (hbits ..) _) fun l => (Nat.sub_le ..).trans_lt (hbits ..)
  · exact laneOp_wrote h rfl (fun _ => rfl) fun l => Nat.and_lt_two_pow _ (wrap_lt ..)
  · exact laneOp_wrote h rfl (fun _ => rfl) fun l => Nat.or_lt_two_pow (hbits ..) (wrap_lt ..)
  · exact laneOp_wrote h rfl (fun _ => rfl) fun l => Nat.xor_lt_two_pow (hbits ..) (wrap_lt ..)
  · exact laneOp_wrote h rfl (fun l => andn_eq_sub (hbits ..) _) fun l => (Nat.sub_le ..).trans_lt (hbits ..)
  · refine laneOp_wrote h rfl (fun l => notL_eq_sub (hbits ..)) fun l => ?_
    have : 0 < 2 ^ widthOf w := by positivity
    omega
  · refine laneOp_wrote h rfl (fun l => by simp [State.carryBit_eq]) fun l => ?_
    split <;> exact hbits ..
  · exact laneOp_wrote h rfl (fun _ => rfl) fun l => hbits ..
  · refine laneOp_wrote h rfl (fun l => by rw [wrap_signExtend]) fun l => ?_
    cases w <;> exact BitVec.isLt _
  · refine laneOp_wrote h rfl (fun l => ?_) fun l => wrap_lt ..
    simp only [State.at_eq_val]
    rfl
  next t a =>
    refine laneOp_wrote h rfl (fun l => ?_) fun l => wrap_lt ..
    cases t <;> exact congrArg _ (signed_eq_toInt (by decide) _)
  next t a =>
    refine laneOp_wrote h rfl (fun l => ?_) fun l => ?_
    · cases t
      · rfl
      · rfl
      · exact Nat.mod_eq_of_lt (s.rd32_lt ..)
    · have h32 : 2 ^ 32 ≤ 2 ^ widthOf w := by cases w <;> decide
      refine lt_of_lt_of_le ?_ h32
      cases t
      · exact (Nat.mod_lt _ (by decide)).trans (by decide)
      · exact (Nat.mod_lt _ (by decide)).trans (by decide)
      · exact s.rd32_lt ..

/-- Each instruction of R146 is a lane operation that shifts or rotates a bit vector of N bits, in the order of
`shiftSpec`. -/
theorem shiftSpec_wrote {s : State} {i : Instr} {x : Issue} {d : Dst} {w : Bool} {f : Nat → Nat} (h : Runs s i x)
    (hs : shiftSpec s x i = some (d, w, f)) : LanesWritten s i x d w f := by
  have hbits (w : Bool) (a : Opnd) (l : Nat) : s.bits x.t x.c w a l < 2 ^ widthOf w := s.bits_lt ..
  unfold shiftSpec at hs
  split at hs <;> cases hs
  · exact laneOp_wrote h rfl (fun l => shiftL_eq (hbits ..) _) fun l => BitVec.isLt _
  · exact laneOp_wrote h rfl (fun l => shiftR_eq (hbits ..) _) fun l => BitVec.isLt _
  · exact laneOp_wrote h rfl (fun l => shiftA_eq ..) fun l => BitVec.isLt _
  · exact laneOp_wrote h rfl (fun l => rotateL_eq (hbits ..) _) fun l => BitVec.isLt _
  · exact laneOp_wrote h rfl (fun l => rotateL_complement_eq (hbits ..) _) fun l => BitVec.isLt _

/-- Settles O2: each instruction's case is in `moveSpec_wrote` or `shiftSpec_wrote`. -/
theorem logicMovesShifts : Obligations.LogicMovesShifts :=
  ⟨fun _ _ _ _ _ _ => moveSpec_wrote, fun _ _ _ _ _ _ => shiftSpec_wrote⟩

end Sys2Proof.Machine
end

section
/-! PROOFS. O3: bit counts, bit fields and nibble permutation (R147 to R149). -/

namespace Sys2Proof.Machine

/-! ## Bit counts (R147) -/

theorem countP_eq_sum_toNat {α : Type} (p : α → Bool) (l : List α) : l.countP p = (l.map fun i => (p i).toNat).sum := by
  induction l with
  | nil => rfl
  | cons a r ih =>
    rw [List.countP_cons, List.map_cons, List.sum_cons, ih, Nat.add_comm]
    cases p a <;> rfl

/-- A count of bits fits into a register. -/
theorem count_lt {w : Bool} {r : Nat} (h : r ≤ widthOf w) : r < 2 ^ widthOf false :=
  (h.trans (widthOf_le w)).trans_lt (by decide)

theorem ones_le (n u : Nat) : ones n u ≤ n := (List.countP_le_length).trans_eq List.length_range

/-- The first number below `n` that satisfies `p`, and `n` where none does. -/
theorem find?_range_getD {n r : Nat} {p : Nat → Bool} (h : ((List.range n).find? p).getD n = r) :
    r ≤ n ∧ (∀ j < r, p j = false) ∧ (r < n → p r = true) := by
  cases hf : (List.range n).find? p with
  | none =>
    obtain rfl : n = r := by simpa [hf] using h
    exact ⟨le_rfl, fun j hj => by simpa using List.find?_range_eq_none.mp hf j hj, fun hn => absurd hn (lt_irrefl _)⟩
  | some i =>
    obtain rfl : i = r := by simpa [hf] using h
    obtain ⟨hi, hmem, hbefore⟩ := List.find?_range_eq_some.mp hf
    exact ⟨(List.mem_range.mp hmem).le, fun j hj => by simpa using hbefore j hj, fun _ => hi⟩

theorem leading_cases (n u : Nat) : leading n u ≤ n ∧ (∀ j < leading n u, u.testBit (n - 1 - j) = false) ∧
    (leading n u < n → u.testBit (n - 1 - leading n u) = true) := find?_range_getD rfl

theorem trailing_cases (n u : Nat) : trailing n u ≤ n ∧ (∀ j < trailing n u, u.testBit j = false) ∧
    (trailing n u < n → u.testBit (trailing n u) = true) := find?_range_getD rfl

theorem lt_two_pow_sub_leading {n u : Nat} (hu : u < 2 ^ n) : u < 2 ^ (n - leading n u) := by
  obtain ⟨-, hzero, -⟩ := leading_cases n u
  refine Nat.lt_pow_two_of_testBit _ fun i hi => ?_
  by_cases hin : i < n
  · have := hzero (n - 1 - i) (by omega)
    rwa [show n - 1 - (n - 1 - i) = i by omega] at this
  · exact Nat.testBit_lt_two_pow (hu.trans_le (Nat.pow_le_pow_right (by decide) (not_lt.mp hin)))

theorem two_pow_le_of_leading_lt {n u : Nat} (h : leading n u < n) : 2 ^ (n - leading n u - 1) ≤ u := by
  obtain ⟨-, -, hone⟩ := leading_cases n u
  have := Nat.ge_two_pow_of_testBit (hone h)
  rwa [Nat.sub_right_comm] at this

theorem trailing_zero (n : Nat) : trailing n 0 = n := by
  obtain ⟨hle, -, hone⟩ := trailing_cases n 0
  by_contra hne
  simpa using hone (lt_of_le_of_ne hle hne)

theorem two_pow_dvd_iff_testBit (r u : Nat) : 2 ^ r ∣ u ↔ ∀ j < r, u.testBit j = false := by
  rw [Nat.dvd_iff_mod_eq_zero]
  constructor
  · intro h j hj
    simpa [hj] using congrArg (Nat.testBit · j) h
  · intro h
    refine Nat.eq_of_testBit_eq fun j => ?_
    rw [Nat.testBit_mod_two_pow, Nat.zero_testBit]
    by_cases hj : j < r
    · simp [h j hj]
    · simp [hj]

theorem two_pow_trailing_dvd (n u : Nat) : 2 ^ trailing n u ∣ u :=
  (two_pow_dvd_iff_testBit _ _).mpr (trailing_cases n u).2.1

theorem not_two_pow_succ_trailing_dvd {n u : Nat} (h0 : u ≠ 0) (hu : u < 2 ^ n) : ¬ 2 ^ (trailing n u + 1) ∣ u := by
  obtain ⟨hle, -, hone⟩ := trailing_cases n u
  have hlt : trailing n u < n := by
    by_contra hge
    have hn : trailing n u = n := le_antisymm hle (not_lt.mp hge)
    exact h0 (Nat.eq_zero_of_dvd_of_lt (hn ▸ two_pow_trailing_dvd n u) hu)
  intro hd
  have := (two_pow_dvd_iff_testBit _ _).mp hd _ (Nat.lt_succ_self _)
  simp [hone hlt] at this

/-- R147: the number of 0 bits below the lowest 1 bit, and N of a pattern without one. -/
theorem trailing_spec {n u : Nat} (hu : u < 2 ^ n) :
    if u = 0 then trailing n u = n else 2 ^ trailing n u ∣ u ∧ ¬ 2 ^ (trailing n u + 1) ∣ u := by
  split_ifs with h0
  · rw [h0, trailing_zero]
  · exact ⟨two_pow_trailing_dvd .., not_two_pow_succ_trailing_dvd h0 hu⟩

theorem reversed_succ (n u : Nat) : reversed (n + 1) u = 2 * reversed n u + u / 2 ^ n % 2 := by
  simp [reversed, List.range_succ]

theorem testBit_reversed (n u i : Nat) : (reversed n u).testBit i = (decide (i < n) && u.testBit (n - 1 - i)) := by
  induction n generalizing i with
  | zero => simp [reversed]
  | succ n ih =>
    rw [reversed_succ]
    have hlow : u / 2 ^ n % 2 < 2 := Nat.mod_lt _ (by decide)
    cases i with
    | zero => simp [Nat.testBit_eq_decide_div_mod_eq, Nat.add_mod]
    | succ i =>
      rw [Nat.testBit_add_one, show (2 * reversed n u + u / 2 ^ n % 2) / 2 = reversed n u by omega, ih]
      simp [Nat.sub_sub, Nat.add_comm 1]

theorem reversed_lt (n u : Nat) : reversed n u < 2 ^ n := by
  refine Nat.lt_pow_two_of_testBit _ fun i hi => ?_
  simp [testBit_reversed, not_lt.mpr hi]

/-! ## Fields (R148) -/

theorem fieldAt_fst_add_snd_le (w : Bool) (b c : Nat) : (fieldAt w b c).1 + (fieldAt w b c).2 ≤ widthOf w := by
  simp only [fieldAt, nbits_eq_widthOf]
  omega

/-- The bits of a field, sign-extended from its highest one when it has one. -/
theorem testBit_extractField (sg w : Bool) (a b c i : Nat) :
    (extractField sg w a b c).testBit i =
      (decide (i < widthOf w ∧ (i < (fieldAt w b c).2 ∨ (sg = true ∧ 0 < (fieldAt w b c).2))) &&
        a.testBit ((fieldAt w b c).1 + min i ((fieldAt w b c).2 - 1))) := by
  have hle := fieldAt_fst_add_snd_le w b c
  simp only [extractField]
  generalize (fieldAt w b c).1 = p at *
  generalize (fieldAt w b c).2 = n at *
  have hfield : ∀ j, (a / 2 ^ p % 2 ^ n).testBit j = (decide (j < n) && a.testBit (p + j)) := fun j => by
    rw [Nat.testBit_mod_two_pow, Nat.testBit_div_two_pow, Nat.add_comm]
  split_ifs with h
  · simp only [Bool.and_eq_true, decide_eq_true_eq] at h
    obtain ⟨rfl, hn⟩ := h
    rw [nbits_eq_widthOf, signed_eq_toInt hn, ← toNat_ofInt_eq_wrap]
    change (BitVec.signExtend (widthOf w) _).getLsbD i = _
    rw [BitVec.getLsbD_signExtend, BitVec.msb_eq_getLsbD_last, BitVec.getLsbD_ofNat, BitVec.getLsbD_ofNat, hfield, hfield]
    by_cases hi : i < n
    · have hmin : min i (n - 1) = i := by omega
      simp [hi, hn, hmin]
    · have hmin : min i (n - 1) = n - 1 := by omega
      simp [hi, hn, hmin]
  · have hs : ¬(sg = true ∧ 0 < n) := by simpa using h
    rw [hfield]
    by_cases hi : i < n
    · have hmin : min i (n - 1) = i := by omega
      have hw : i < widthOf w := by omega
      simp [hi, hw, hmin]
    · simp only [hi, hs, or_self, and_false, decide_false, Bool.false_and]

theorem extractField_lt (sg w : Bool) (a b c : Nat) : extractField sg w a b c < 2 ^ widthOf w := by
  refine Nat.lt_pow_two_of_testBit _ fun i hi => ?_
  simp [testBit_extractField, not_lt.mpr hi]

theorem testBit_insertField (w : Bool) (d a b c i : Nat) :
    (insertField w d a b c).testBit i =
      if (fieldAt w b c).1 ≤ i ∧ i < (fieldAt w b c).1 + (fieldAt w b c).2 then a.testBit (i - (fieldAt w b c).1)
      else d.testBit i := by
  simp only [insertField]
  generalize (fieldAt w b c).1 = p
  generalize (fieldAt w b c).2 = n
  have hlow : d % 2 ^ p < 2 ^ p := Nat.mod_lt _ (by positivity)
  have hmid : a % 2 ^ n < 2 ^ n := Nat.mod_lt _ (by positivity)
  have hshape : d % 2 ^ p + a % 2 ^ n * 2 ^ p + d / 2 ^ (p + n) * 2 ^ (p + n) =
      2 ^ p * (2 ^ n * (d / 2 ^ (p + n)) + a % 2 ^ n) + d % 2 ^ p := by
    rw [pow_add]
    ring
  rw [hshape, Nat.testBit_two_pow_mul_add _ hlow, Nat.testBit_two_pow_mul_add _ hmid, Nat.testBit_mod_two_pow,
    Nat.testBit_mod_two_pow, Nat.testBit_div_two_pow]
  by_cases h1 : i < p
  · simp [h1, show ¬ p ≤ i by omega]
  · by_cases h2 : i - p < n
    · simp [h1, h2, show p ≤ i ∧ i < p + n by omega]
    · simp only [h1, h2, if_false, show ¬(p ≤ i ∧ i < p + n) by omega]
      congr 1
      omega

theorem insertField_lt {w : Bool} {d : Nat} (hd : d < 2 ^ widthOf w) (a b c : Nat) :
    insertField w d a b c < 2 ^ widthOf w := by
  refine Nat.lt_pow_two_of_testBit _ fun i hi => ?_
  have hle := fieldAt_fst_add_snd_le w b c
  rw [testBit_insertField, if_neg (by omega)]
  exact Nat.testBit_lt_two_pow (hd.trans_le (Nat.pow_le_pow_right (by decide) hi))

/-! ## Nibbles (R149) -/

/-- Nibble `j` of the result of prmt: the one of A and B that nibble `j` of C chooses. -/
def chosenNibble (a b c j : Nat) : Nat := (a + b * 2 ^ 32) / 16 ^ (c / 16 ^ j % 16) % 16

theorem testBit_chosenNibble {a : Nat} (ha : a < 2 ^ 32) (b c j : Nat) {k : Nat} (hk : k < 4) :
    (chosenNibble a b c j).testBit k =
      if c / 16 ^ j % 16 < 8 then a.testBit (4 * (c / 16 ^ j % 16) + k) else b.testBit (4 * (c / 16 ^ j % 16 - 8) + k) := by
  unfold chosenNibble
  generalize c / 16 ^ j % 16 = sel
  rw [show (16 : Nat) ^ sel = 2 ^ (4 * sel) by rw [pow_mul]; rfl, show (16 : Nat) = 2 ^ 4 by rfl, Nat.testBit_mod_two_pow,
    Nat.testBit_div_two_pow, Nat.add_comm a, Nat.mul_comm b, Nat.testBit_two_pow_mul_add _ ha, Nat.add_comm k]
  by_cases hsel : sel < 8
  · simp [hk, hsel, show 4 * sel + k < 32 by omega]
  · simp [hk, hsel, show ¬ 4 * sel + k < 32 by omega, show 4 * sel + k - 32 = 4 * (sel - 8) + k by omega]

/-- The first `m` nibbles of the result. -/
def nibblesBelow (a b c m : Nat) : Nat := (List.range m).foldl (fun r j => r + chosenNibble a b c j * 16 ^ j) 0

theorem nibblesBelow_succ (a b c m : Nat) :
    nibblesBelow a b c (m + 1) = 2 ^ (4 * m) * chosenNibble a b c m + nibblesBelow a b c m := by
  have h16 : (16 : Nat) ^ m = 2 ^ (4 * m) := by rw [pow_mul]; rfl
  rw [nibblesBelow, List.range_succ, List.foldl_append, List.foldl_cons, List.foldl_nil, h16, Nat.mul_comm, Nat.add_comm]
  rfl

theorem nibblesBelow_lt (a b c m : Nat) : nibblesBelow a b c m < 2 ^ (4 * m) := by
  induction m with
  | zero => exact Nat.one_pos
  | succ m ih =>
    have hn : chosenNibble a b c m < 16 := Nat.mod_lt _ (by decide)
    rw [nibblesBelow_succ, show 4 * (m + 1) = 4 * m + 4 by ring, pow_add]
    nlinarith

theorem testBit_nibblesBelow (a b c m j : Nat) {k : Nat} (hk : k < 4) :
    (nibblesBelow a b c m).testBit (4 * j + k) = (decide (j < m) && (chosenNibble a b c j).testBit k) := by
  induction m with
  | zero => simp [nibblesBelow]
  | succ m ih =>
    rw [nibblesBelow_succ, Nat.testBit_two_pow_mul_add _ (nibblesBelow_lt a b c m), ih]
    rcases lt_trichotomy j m with h | rfl | h
    · simp [h, show 4 * j + k < 4 * m by omega, show j < m + 1 by omega]
    · simp
    · have hhigh : (chosenNibble a b c m).testBit (4 * j + k - 4 * m) = false :=
        Nat.testBit_lt_two_pow ((Nat.mod_lt _ (by decide)).trans_le
          (show 2 ^ 4 ≤ 2 ^ (4 * j + k - 4 * m) from Nat.pow_le_pow_right (by decide) (by omega)))
      simp [hhigh, show ¬ 4 * j + k < 4 * m by omega, show ¬ j < m + 1 by omega]

theorem permuteNibbles_eq (a b c : Nat) : permuteNibbles a b c = nibblesBelow a b c 8 := rfl

theorem permuteNibbles_lt (a b c : Nat) : permuteNibbles a b c < 2 ^ 32 := nibblesBelow_lt a b c 8

theorem testBit_permuteNibbles {a : Nat} (ha : a < 2 ^ 32) (b c j : Nat) {k : Nat} (hk : k < 4) :
    (permuteNibbles a b c).testBit (4 * j + k) = (decide (j < 8) &&
      if c / 16 ^ j % 16 < 8 then a.testBit (4 * (c / 16 ^ j % 16) + k)
      else b.testBit (4 * (c / 16 ^ j % 16 - 8) + k)) := by
  rw [permuteNibbles_eq, testBit_nibblesBelow _ _ _ _ _ hk, testBit_chosenNibble ha _ _ _ hk]

/-! ## The instructions -/

/-- Settles O3: each instruction is a lane operation, and the lemmas above give the bits of its result; the cases stand in the
order of `fieldDst`. -/
theorem bitCountsAndFields : Obligations.BitCountsAndFields := by
  intro s i x d w h hs
  have hbits (w : Bool) (a : Opnd) (l : Nat) : s.bits x.t x.c w a l < 2 ^ widthOf w := s.bits_lt ..
  unfold fieldDst at hs
  split at hs <;> cases hs
  next w a =>
    obtain ⟨cr, he, hw⟩ := laneOp_wrote h rfl (fun _ => rfl) fun l => count_lt (ones_le (widthOf w) _)
    exact ⟨cr, _, he, hw, fun l => countP_eq_sum_toNat ..⟩
  next w a =>
    obtain ⟨cr, he, hw⟩ := laneOp_wrote h rfl (fun _ => rfl) fun l => count_lt (leading_cases (widthOf w) _).1
    exact ⟨cr, _, he, hw, fun l => ⟨(leading_cases ..).1, lt_two_pow_sub_leading (hbits ..), two_pow_le_of_leading_lt⟩⟩
  next w a =>
    obtain ⟨cr, he, hw⟩ := laneOp_wrote h rfl (fun _ => rfl) fun l => count_lt (trailing_cases (widthOf w) _).1
    exact ⟨cr, _, he, hw, fun l => trailing_spec (hbits ..)⟩
  next a =>
    obtain ⟨cr, he, hw⟩ := laneOp_wrote h rfl (fun _ => rfl) fun l => reversed_lt ..
    exact ⟨cr, _, he, hw, fun l i => testBit_reversed ..⟩
  next sg a b c =>
    obtain ⟨cr, he, hw⟩ := laneOp_wrote h rfl (fun _ => rfl) fun l => extractField_lt ..
    exact ⟨cr, _, he, hw, fun l i => testBit_extractField ..⟩
  next a b c =>
    obtain ⟨cr, he, hw⟩ := laneOp_wrote h rfl (fun _ => rfl) fun l => insertField_lt (hbits ..) ..
    exact ⟨cr, _, he, hw, fun l i => testBit_insertField ..⟩
  next a b c =>
    obtain ⟨cr, he, hw⟩ := laneOp_wrote h rfl (fun _ => rfl) fun l => permuteNibbles_lt ..
    exact ⟨cr, _, he, hw, fun l j k hk => testBit_permuteNibbles (s.rd32_lt ..) _ _ j hk⟩

end Sys2Proof.Machine
end

section
/-! PROOFS. O4: addition with carry and subtraction with borrow (R144, R137). -/

namespace Sys2Proof.Machine

/-- What is said of a predicate matters in the lanes of the mask only. -/
theorem WroteP.congr {cr cr' : Crew} {p : Fin 16} {m : Mask} {f g : Nat → Bool} (h : WroteP cr cr' p m f)
    (hfg : ∀ l, l < 16 → m.getLsbD l = true → f l = g l) : WroteP cr cr' p m g := by
  obtain ⟨hin, hrest⟩ := h
  exact ⟨fun l hl hm hp => (hin l hl hm hp).trans (hfg l hl hm), hrest⟩

theorem Crew.wroteP_maskOf (cr : Crew) (p : Fin 16) (m : Mask) (f : Nat → Bool) :
    WroteP cr (cr.setP p.val m (maskOf f)) p m f :=
  (Crew.wroteP_setP cr p m (maskOf f)).congr fun _ hl _ => getLsbD_maskOf f hl

/-- The lane whose sum or difference gives the carry-out of lane `l` (R137). -/
def carryLane (x : Issue) (d : Dst) (l : Nat) : Nat :=
  match d with
  | .v _ => l
  | .s _ => lowestLane x.act

/-- What iaddc and isubb leave: the wrapped results, and after them whether the exact ones are outside [0, 2^N). -/
theorem carryOp_wrote {s : State} {i : Instr} {x : Issue} {d : Dst} {w : Bool} {p : Fin 16} {f : Issue → Nat → Int}
    (h : Runs s i x) (he : exec i s = carryOp i s d w p f) :
    ∃ mid cr, exec i s = .next (s.withCrew x cr) ∧
      Wrote (s.crew x.t x.c) mid d w x.act (fun l => wrap (widthOf w) (f x l)) ∧
      WroteP mid cr p x.act fun l =>
        decide (f x (carryLane x d l) < 0) || decide ((2 : Int) ^ widthOf w ≤ f x (carryLane x d l)) := by
  refine ⟨_, _, ?_, Crew.wrote_write_of_lt _ d w x.act fun l => wrap_lt _ _, Crew.wroteP_maskOf _ p x.act _⟩
  rw [he, carryOp, crewUpdate_runs h fun l => by simp [Crew.th]]
  cases d <;> rfl

theorem bitInt_eq (b : Bool) : bitInt b = (b.toNat : Int) := by cases b <;> rfl

/-- The exact sum of iaddc is the natural number of the statement. -/
theorem val_add_carry (s : State) (x : Issue) (w : Bool) (d : Dst) (a b : Opnd) (p : Fin 16) (l : Nat) :
    s.val x false w a l + s.val x false w b l + bitInt (s.predFor x d p l) =
      ((s.bits x.t x.c w a l + s.bits x.t x.c w b l + s.carryBit x d p l : Nat) : Int) := by
  rw [bitInt_eq, State.carryBit_eq]
  push_cast
  rfl

theorem val_sub_borrow (s : State) (x : Issue) (w : Bool) (d : Dst) (a b : Opnd) (p : Fin 16) (l : Nat) :
    s.val x false w a l - s.val x false w b l - bitInt (s.predFor x d p l) =
      (s.bits x.t x.c w a l : Int) - s.bits x.t x.c w b l - s.carryBit x d p l := by
  rw [bitInt_eq, State.carryBit_eq]
  rfl

theorem iaddc_wrote {s : State} {g : Guard} {w : Bool} {d : Dst} {a b : Opnd} {p : Fin 16} {x : Issue}
    (h : Runs s (.iaddc g w d a b p) x) {sum : Nat → Nat}
    (hsum : ∀ l, sum l = s.bits x.t x.c w a l + s.bits x.t x.c w b l + s.carryBit x d p l) :
    ∃ mid cr, exec (.iaddc g w d a b p) s = .next (s.withCrew x cr) ∧
      Wrote (s.crew x.t x.c) mid d w x.act (fun l => sum l % 2 ^ widthOf w) ∧
      WroteP mid cr p x.act fun l => decide (2 ^ widthOf w ≤ sum (carryLane x d l)) := by
  obtain ⟨mid, cr, he, hw, hp⟩ := carryOp_wrote h rfl
  simp only [val_add_carry, ← hsum, wrap_natCast] at hw hp
  refine ⟨mid, cr, he, hw, hp.congr fun l _ _ => ?_⟩
  have hneg : ¬((sum (carryLane x d l) : Int) < 0) := by omega
  simp only [hneg, decide_false, Bool.false_or]
  norm_cast

theorem isubb_wrote {s : State} {g : Guard} {w : Bool} {d : Dst} {a b : Opnd} {p : Fin 16} {x : Issue}
    (h : Runs s (.isubb g w d a b p) x) {dif : Nat → Int}
    (hdif : ∀ l, dif l = (s.bits x.t x.c w a l : Int) - s.bits x.t x.c w b l - s.carryBit x d p l) :
    ∃ mid cr, exec (.isubb g w d a b p) s = .next (s.withCrew x cr) ∧
      Wrote (s.crew x.t x.c) mid d w x.act (fun l => modN w (dif l)) ∧
      WroteP mid cr p x.act fun l => decide (dif (carryLane x d l) < 0) := by
  obtain ⟨mid, cr, he, hw, hp⟩ := carryOp_wrote h rfl
  simp only [val_sub_borrow, ← hdif] at hw hp
  refine ⟨mid, cr, he, hw, hp.congr fun l _ _ => ?_⟩
  have hbound : (s.bits x.t x.c w a (carryLane x d l) : Int) < 2 ^ widthOf w := by exact_mod_cast s.bits_lt ..
  have htop : ¬((2 : Int) ^ widthOf w ≤ dif (carryLane x d l)) := by
    rw [hdif]
    omega
  simp only [htop, decide_false, Bool.or_false]

/-- Settles O4: both instructions are the operation of `carryOp_wrote`, whose exact results are the sums and differences of the
statement. -/
theorem carryAndBorrow : Obligations.CarryAndBorrow := by
  intro s g w d a b p x src
  have hsrc : src = carryLane x d := by cases d <;> rfl
  rw [hsrc]
  exact ⟨fun h => iaddc_wrote h fun _ => rfl, fun h => isubb_wrote h fun _ => rfl⟩

end Sys2Proof.Machine
end

section
/-! PROOFS. O5: comparisons, predicate logic and elect (R150, R156, R200). -/

namespace Sys2Proof.Machine

theorem icond_iff (c : ICond) (a b : Int) : icond c a b = true ↔ holdsCond c a b := by
  cases c <;> simp [icond, holdsCond]

/-- The instruction completes with the answer of `predSpec` in each lane of `p` that is in Active(), and nothing else changed
(R133). -/
def PredicateWritten (s : State) (i : Instr) (x : Issue) (p : Fin 16) : Prop :=
  ∃ cr f, exec i s = .next (s.withCrew x cr) ∧ WroteP (s.crew x.t x.c) cr p x.act f ∧
    ∀ l, l < 16 → x.act.getLsbD l = true → ∀ a, predSpec s x l i = some (p, a) → (f l = true ↔ a)

/-- An update of one predicate, when the mask `m` that it writes answers `q` in the lanes of Active(). -/
theorem crewUpdate_wroteP {s : State} {i : Instr} {x : Issue} {p : Fin 16} {f : Issue → Crew → Crew} {m : Mask}
    {q : Nat → Prop} (h : Runs s i x) (he : exec i s = crewUpdate i s f)
    (hf : f x (s.crew x.t x.c) = (s.crew x.t x.c).setP p.val x.act m) (hspec : ∀ l, predSpec s x l i = some (p, q l))
    (hm : ∀ l, l < 16 → x.act.getLsbD l = true → (m.getLsbD l = true ↔ q l)) :
    PredicateWritten s i x p := by
  refine ⟨_, _, ?_, Crew.wroteP_setP _ p x.act m, fun l hl hact a ha => ?_⟩
  · rw [he, ← hf]
    exact crewUpdate_runs h fun l => by simp [hf, Crew.th]
  · obtain rfl : q l = a := congrArg Prod.snd (Option.some.inj ((hspec l).symm.trans ha))
    exact hm l hl hact

theorem predOp_wroteP {s : State} {i : Instr} {x : Issue} {p : Fin 16} {f : Issue → Nat → Bool} {q : Nat → Prop}
    (h : Runs s i x) (he : exec i s = predOp i s p f) (hspec : ∀ l, predSpec s x l i = some (p, q l))
    (hf : ∀ l, f x l = true ↔ q l) :
    PredicateWritten s i x p :=
  crewUpdate_wroteP h he rfl hspec fun l hl _ => by rw [getLsbD_maskOf _ hl]; exact hf l

/-- The lowest lane of a mask is the one that no other lies below (R200). -/
theorem getLsbD_laneBit_lowestLane {m : Mask} {l : Nat} (hl : l < 16) (hm : m.getLsbD l = true) :
    (laneBit (lowestLane m)).getLsbD l = true ↔ ∀ j, m.getLsbD j = true → l ≤ j := by
  obtain ⟨hlow, hle⟩ := lowestLane_mem_le hl hm
  rw [getLsbD_laneBit _ hl, decide_eq_true_eq]
  constructor
  · rintro rfl j hj
    exact (lowestLane_mem_le (BitVec.lt_of_getLsbD hj) hj).2
  · intro h
    exact le_antisymm (h _ hlow) hle

/-- Comparisons, predicate logic, pmov.unpack and elect, in the order of `predSpec`. -/
theorem predSpec_wroteP {s : State} {i : Instr} {x : Issue} {p : Fin 16} {a : Prop} (h : Runs s i x)
    (hs : predSpec s x 0 i = some (p, a)) : PredicateWritten s i x p := by
  unfold predSpec at hs
  split at hs <;> cases hs
  · exact predOp_wroteP h rfl (fun _ => rfl) fun l => by simp [icond_iff, IntTy.sgn]
  · exact predOp_wroteP h rfl (fun _ => rfl) fun l => by simp [icond_iff, IntTy.sgn]
  · exact predOp_wroteP h rfl (fun _ => rfl) fun l => by simp [State.pred]
  · exact predOp_wroteP h rfl (fun _ => rfl) fun l => by simp [State.pred]
  · exact predOp_wroteP h rfl (fun _ => rfl) fun l => by simp [State.pred]
  · exact predOp_wroteP h rfl (fun _ => rfl) fun l => by simp [State.pred]
  · exact predOp_wroteP h rfl (fun _ => rfl) fun l => by simp [State.pred]
  · exact predOp_wroteP h rfl (fun _ => rfl) fun l => by simp [Nat.testBit_eq_decide_div_mod_eq]
  · exact crewUpdate_wroteP h rfl rfl (fun _ => rfl) fun l => getLsbD_laneBit_lowestLane

/-- Settles O5: `predSpec_wroteP` for the instructions that write a predicate; pmov.pack is a lane operation. -/
theorem comparesAndPredicates : Obligations.ComparesAndPredicates := by
  refine ⟨fun s i x p h ⟨a, ha⟩ => predSpec_wroteP h ha, fun s g d a x h => ?_⟩
  exact laneOp_wrote h rfl (fun _ => rfl) fun _ => (BitVec.isLt _).trans (by decide)

end Sys2Proof.Machine
end
